-- ==== Sys2Proof/Word.lean ====
section
/-!
DEFINITION. The word types of the N7, the six instruction formats as they are laid out bit by bit
(R58, R60 to R64), and the small data types that an event of the machine carries.
-/

namespace Sys2Proof

/-- A byte of memory (R5). -/
abbrev Byte := BitVec 8
/-- A 32-bit register value (R56). -/
abbrev Word := BitVec 32
/-- A 64-bit register pair, an address, or an instruction word (R26, R48). -/
abbrev DWord := BitVec 64
/-- A set of lanes; bit l stands for lane l (R10). -/
abbrev LaneMask := BitVec 64
/-- A register number as an instruction names it (R56). -/
abbrev RegNum := BitVec 9

/-- Format V3 (R58), OP apart. -/
structure V3 where
  w : Bool
  k : BitVec 6
  xc : BitVec 3
  xb : BitVec 3
  xa : BitVec 3
  c : RegNum
  b : RegNum
  a : RegNum
  d : RegNum
  fn : BitVec 4
  deriving DecidableEq, Repr

/-- Format VI (R60), OP apart; `res` is the reserved field [31:30]. -/
structure VI where
  imm : Word
  res : BitVec 2
  a : RegNum
  d : RegNum
  fn : BitVec 4
  deriving DecidableEq, Repr

/-- Format M (R61), OP apart. -/
structure MF where
  off : BitVec 12
  ord : BitVec 2
  scope : BitVec 3
  brec : BitVec 8
  b : RegNum
  a : RegNum
  d : RegNum
  fn : BitVec 4
  deriving DecidableEq, Repr

/-- Format A (R62), OP apart; `res` is the reserved field [63:56]. -/
structure AF where
  res : BitVec 8
  imm : BitVec 8
  c : RegNum
  b : RegNum
  a : RegNum
  d : RegNum
  fn : BitVec 4
  deriving DecidableEq, Repr

/-- Format C (R63), OP apart; `off` is OFF24 or IMM24 (R108), `res` the reserved field [39:38]. -/
structure CF where
  off : BitVec 24
  res : BitVec 2
  jid : BitVec 8
  a : RegNum
  d : RegNum
  fn : BitVec 4
  deriving DecidableEq, Repr

/-- The layout of PBLK (R64), OP apart. -/
structure PB where
  resHi : BitVec 24
  pat : BitVec 8
  resMid : BitVec 2
  a : RegNum
  resLo : BitVec 9
  fn : BitVec 4
  deriving DecidableEq, Repr

/-- What an access does to a page (R290). -/
inductive Acc where
  | read | write | fetch
  deriving DecidableEq, Repr

/-- Which pending store an event performs: one a raft has issued, or one of a control-die core
(system software, R95), whose bytes come with the event. -/
inductive StoreSrc where
  | raft (req : Nat)
  | software (asid : Nat) (va : DWord) (bytes : List Byte)
  deriving DecidableEq, Repr

/-- A frame that reached the management port (R410). -/
structure MgmtFrame where
  dest : BitVec 48
  etherType : BitVec 16
  source : BitVec 48
  tag : Option (BitVec 16)
  message : List Byte
  deriving DecidableEq, Repr

/-- System software's command to raise the fused level of the firmware (0) or the loader (1), as it came (R409). -/
structure RollbackCommand where
  image : Nat
  bytes : List Byte
  deriving DecidableEq, Repr

/-- The three scheduler parameters of R349. -/
inductive AgeParam where
  | ageInterval | ageCap | readInterval
  deriving DecidableEq, Repr

/-- One direction of a die link (R12, R391): die 8 is the control die. -/
structure LinkDir where
  source : Nat
  dest : Nat
  deriving DecidableEq, Repr

/-- A crossing flit (R392). -/
structure Flit where
  payload : BitVec 1920
  crc : BitVec 32
  seq : BitVec 12
  ack : BitVec 12
  nak : Bool
  vc : BitVec 2
  kind : BitVec 2
  count : BitVec 3
  res : BitVec 64
  deriving DecidableEq, Repr

/-- A frame on a peer port (R398): its source module and the flits it carries. -/
structure PeerFrame where
  port : Nat
  source : Nat
  dest : Nat
  flits : List Flit
  deriving DecidableEq, Repr

/-- What a peer asks of this module's memory (R399): the slot of FQUEUE and the copies are made of these. -/
inductive PeerReq where
  | read (va : DWord) (len : Nat)
  | write (va : DWord) (bytes : List Byte)
  | claim (qhdr : DWord)
  deriving DecidableEq, Repr

/-- Where an uncorrectable error strikes (R414, codes 1 to 7). -/
inductive ErrorPlace where
  | teamState (team : Nat)
  | engineEntry (raft : Nat)
  | cleanLine (asid line : Nat)
  | dirtyWord (asid : Nat) (va : DWord)
  | stowSlot (team : Nat)
  | dieDown (die : Nat)
  | controlDie
  deriving DecidableEq, Repr

end Sys2Proof
end

