-- ==== Sys2Proof/Machine/Bits.lean ====
section
/-!
DEFINITION. Bit fields, lane masks, byte order and the small list helpers of the machine (R5, R6, R8, R10).
-/

namespace Sys2Proof.Machine

/-- Bits [hi:lo] of a number, both ends included (R5). -/
def field (x hi lo : Nat) : Nat := (x >>> lo) % 2 ^ (hi + 1 - lo)

/-- One bit of a number. -/
def bit (x i : Nat) : Bool := x.testBit i

/-- A number below 2^n read as n-bit two's complement. -/
def asSigned (n x : Nat) : Int := if x < 2 ^ (n - 1) then (x : Int) else (x : Int) - (2 : Int) ^ n

/-- An integer reduced modulo 2^n. -/
def wrapN (n : Nat) (x : Int) : Nat := (x % (2 : Int) ^ n).toNat

/-- x reduced modulo 2^64 and read as two's complement (R8). -/
def wrap64 (x : Int) : Int := asSigned 64 (wrapN 64 x)

/-- x clamped to lo … hi (R25). -/
def clampInt (lo hi x : Int) : Int := if x < lo then lo else if hi < x then hi else x

/-- The least integer not below a / b, for b > 0. -/
def ceilDiv (a b : Nat) : Nat := (a + b - 1) / b

/-- The low n bytes of a number, the least significant first (R5). -/
def toBytes : Nat → Nat → List Byte
  | 0, _ => []
  | n + 1, x => BitVec.ofNat 8 x :: toBytes n (x / 256)

/-- The number that bytes hold, the least significant first (R5). -/
def ofBytes : List Byte → Nat
  | [] => 0
  | b :: bs => b.toNat + 256 * ofBytes bs

/-- The numbers lo, lo + 1, … of a run of n. -/
def span (lo n : Nat) : List Nat := (List.range n).map (lo + ·)

/-- Two byte ranges [a, a+n) and [b, b+m) share a byte. -/
def overlaps (a n b m : Nat) : Bool := decide (a < b + m) && decide (b < a + n) && decide (0 < n) && decide (0 < m)

/-- Range [a, a+n) lies inside [b, b+m), or is empty. -/
def inside (a n b m : Nat) : Bool := n == 0 || (decide (b ≤ a) && decide (a + n ≤ b + m))

/-- A 64-bit address is canonical when bits [63:57] all equal bit 56 (R72) (DEDUCED, log entry 31). -/
def canonical (a : Nat) : Bool := decide (a < 2 ^ 56) || (decide (2 ^ 64 - 2 ^ 56 ≤ a) && decide (a < 2 ^ 64))

/-- The lanes of a mask in ascending index, `lanes(active)` of R8, among the first w. -/
def lanesOf (w : Nat) (m : LaneMask) : List Nat := (List.range w).filter (fun l => m.getLsbD l)

/-- The mask of the first w lanes. -/
def fullMask (w : Nat) : LaneMask := BitVec.ofNat 64 (2 ^ w - 1)

/-- The mask of the lanes in a list. -/
def maskOf (ls : List Nat) : LaneMask := ls.foldl (fun m l => m ||| (1#64 <<< l)) 0

/-- The sum of a list of numbers. -/
def total (xs : List Nat) : Nat := xs.foldl (· + ·) 0

/-- The list with the element at an index replaced; unchanged beyond its end. -/
def setAt {α : Type} (xs : List α) (i : Nat) (x : α) : List α := xs.set i x

/-- The elements of a list with their positions. -/
def numbered {α : Type} (xs : List α) : List (Nat × α) := (List.range xs.length).zip xs

/-- The first element of least key. -/
def leastBy {α : Type} (key : α → Nat) : List α → Option α
  | [] => none
  | x :: xs =>
    match leastBy key xs with
    | none => some x
    | some y => if key y < key x then some y else some x

/-- Lexicographic order of two lists of numbers, used where the spec ranks by several keys in turn. -/
def lexLt : List Nat → List Nat → Bool
  | [], [] => false
  | [], _ :: _ => true
  | _ :: _, [] => false
  | a :: as, b :: bs => decide (a < b) || (a == b && lexLt as bs)

/-- The first element of least key list. -/
def leastByKeys {α : Type} (keys : α → List Nat) : List α → Option α
  | [] => none
  | x :: xs =>
    match leastByKeys keys xs with
    | none => some x
    | some y => if lexLt (keys y) (keys x) then some y else some x

/-- Insertion of x into an ascending list, behind the elements that are not greater (a stable sort's step). -/
def insertBy {α : Type} (key : α → Nat) (x : α) : List α → List α
  | [] => [x]
  | y :: ys => if key x < key y then x :: y :: ys else y :: insertBy key x ys

/-- Stable ascending sort by a key. -/
def sortBy {α : Type} (key : α → Nat) (xs : List α) : List α := xs.foldl (fun acc x => insertBy key x acc) []

end Sys2Proof.Machine
end

