-- ==== Sys2Proof/Syntax.lean ====
section
/-!
DEFINITION. The steps of the N7: one constructor for each row of the opcode table. The first 144 are the
instruction forms of the 64-bit words (R65), each with the fields of its format; the others are the events of the
part's engines, of the control die and of the world outside, each with what names the agent that acts.
-/

namespace Sys2Proof

/-- One step of the machine: an instruction, issued by the sub-raft whose turn it is, or an event. -/
inductive Instr where
  /-- IADD (R149): Element-wise integer add, wrapping or saturating, 32/16/8-bit or 64-bit under W. -/
  | iadd (f : V3)
  /-- ISUB (R149): Element-wise integer subtract. -/
  | isub (f : V3)
  /-- IMUL (R149): Element-wise integer multiply, narrowed once. -/
  | imul (f : V3)
  /-- IMAD (R149): Element-wise exact a*b+c, narrowed once. -/
  | imad (f : V3)
  /-- IMIN (R149): Element-wise signed or unsigned minimum. -/
  | imin (f : V3)
  /-- IMAX (R149): Element-wise signed or unsigned maximum. -/
  | imax (f : V3)
  /-- IABS (R149): Element-wise absolute value, wrapping. -/
  | iabs (f : V3)
  /-- AND (R150): Bitwise AND over 32 or 64 bits. -/
  | and (f : V3)
  /-- OR (R150): Bitwise OR over 32 or 64 bits. -/
  | or (f : V3)
  /-- XOR (R150): Bitwise XOR over 32 or 64 bits. -/
  | xor (f : V3)
  /-- ANDN (R150): Bitwise a AND NOT b. -/
  | andn (f : V3)
  /-- SHL (R151): Element-wise left shift. -/
  | shl (f : V3)
  /-- SHR (R151): Element-wise logical right shift. -/
  | shr (f : V3)
  /-- SAR (R151): Element-wise arithmetic right shift. -/
  | sar (f : V3)
  /-- ROTL (R151): Element-wise rotate left. -/
  | rotl (f : V3)
  /-- POPC (R152): Counts one bits of A. -/
  | popc (f : V3)
  /-- CLZ (R152): Counts leading zero bits of A. -/
  | clz (f : V3)
  /-- BREV (R152): Reverses the bits of A. -/
  | brev (f : V3)
  /-- BFE (R153): Extracts a bit field, sign- or zero-extended. -/
  | bfe (f : V3)
  /-- BFI (R153): Inserts a bit field of B into A. -/
  | bfi (f : V3)
  /-- ICMP (R154): Integer compare into a predicate. -/
  | icmp (f : V3)
  /-- SEL (R155): Selects A or B per lane by a predicate. -/
  | sel (f : V3)
  /-- MOV (R155): Copies A to D bit for bit. -/
  | mov (f : V3)
  /-- IADDI (R156): Adds a sign-extended 32-bit immediate, wrapping or saturating. -/
  | iaddi (f : VI)
  /-- ANDI (R156): ANDs A with an immediate. -/
  | andi (f : VI)
  /-- ORI (R156): ORs A with an immediate. -/
  | ori (f : VI)
  /-- XORI (R156): XORs A with an immediate. -/
  | xori (f : VI)
  /-- SHI (R156): Shifts or rotates elements by an immediate amount and kind. -/
  | shi (f : VI)
  /-- MOVI (R156): Writes a 32-bit immediate. -/
  | movi (f : VI)
  /-- ICMPI (R156): Compares A with an immediate into a predicate. -/
  | icmpi (f : VI)
  /-- DOT4 (R157): Four-way byte dot product added to an accumulator. -/
  | dot4 (f : V3)
  /-- FADD (R158): FP32 addition rounded once. -/
  | fadd (f : V3)
  /-- FSUB (R158): FP32 subtraction rounded once. -/
  | fsub (f : V3)
  /-- FMUL (R158): FP32 multiplication rounded once. -/
  | fmul (f : V3)
  /-- FFMA (R158): FP32 fused multiply-add rounded once. -/
  | ffma (f : V3)
  /-- FMIN (R159): FP32 minimum with NaN and signed-zero rules. -/
  | fmin (f : V3)
  /-- FMAX (R159): FP32 maximum with NaN and signed-zero rules. -/
  | fmax (f : V3)
  /-- FCMP (R160): FP32 compare into a predicate. -/
  | fcmp (f : V3)
  /-- FCLASS (R161): Classifies an FP32 value into a one-hot word. -/
  | fclass (f : V3)
  /-- FRCP (R162): FP32 reciprocal within bounds. -/
  | frcp (f : V3)
  /-- FRSQ (R162): FP32 reciprocal square root within bounds. -/
  | frsq (f : V3)
  /-- FEXP2 (R162): FP32 base-2 exponential within bounds. -/
  | fexp2 (f : V3)
  /-- FLOG2 (R162): FP32 base-2 logarithm within bounds. -/
  | flog2 (f : V3)
  /-- FSIN (R162): FP32 sine within bounds. -/
  | fsin (f : V3)
  /-- FCOS (R162): FP32 cosine within bounds. -/
  | fcos (f : V3)
  /-- FSQRT (R163): Correctly rounded FP32 square root. -/
  | fsqrt (f : V3)
  /-- FDIV (R163): Correctly rounded FP32 division. -/
  | fdiv (f : V3)
  /-- HADD2 (R164): Packed FP16/BF16 addition. -/
  | hadd2 (f : V3)
  /-- HMUL2 (R164): Packed FP16/BF16 multiplication. -/
  | hmul2 (f : V3)
  /-- HFMA2 (R164): Packed FP16/BF16 fused multiply-add. -/
  | hfma2 (f : V3)
  /-- HMIN2 (R164): Packed FP16/BF16 minimum. -/
  | hmin2 (f : V3)
  /-- HMAX2 (R164): Packed FP16/BF16 maximum. -/
  | hmax2 (f : V3)
  /-- DADD (R165): FP64 addition on register pairs. -/
  | dadd (f : V3)
  /-- DMUL (R165): FP64 multiplication on register pairs. -/
  | dmul (f : V3)
  /-- DFMA (R165): FP64 fused multiply-add on register pairs. -/
  | dfma (f : V3)
  /-- FDOT2H (R166): Two-way half-precision dot product into FP32, rounded once. -/
  | fdot2h (f : V3)
  /-- CVT (R168): Converts one element or a group between formats, with stochastic rounding option. -/
  | cvt (f : V3)
  /-- SHFL (R170): Shuffles a register across lanes by index, up, down or xor. -/
  | shfl (f : V3)
  /-- VOTE (R171): All, any, ballot or uniform vote over a predicate. -/
  | vote (f : V3)
  /-- REDUX (R172): Reduces a register across enabled lanes in a fixed order. -/
  | redux (f : V3)
  /-- SCAN (R173): Inclusive or exclusive prefix across lanes. -/
  | scan (f : V3)
  /-- PLOP (R174): Predicate logic, set, clear and moves between predicates and registers. -/
  | plop (f : V3)
  /-- LANE (R175): Finds first or last set lane, counts, or ranks lanes. -/
  | lane (f : V3)
  /-- PBLK (R64): Reads a predicate once and narrows the masks of up to 8 following slots. -/
  | pblk (f : PB)
  /-- LD (R194): Plain or acquire load from a virtual address. -/
  | ld (f : MF)
  /-- ST (R194): Plain or release store to a virtual address. -/
  | st (f : MF)
  /-- LDB (R194): Loads a record element through the conversion stage. -/
  | ldb (f : MF)
  /-- STB (R194): Stores a record element through the conversion stage. -/
  | stb (f : MF)
  /-- LDT (R194): Loads from the core's own tile memory, waiting on empty lines. -/
  | ldt (f : MF)
  /-- STT (R194): Stores to the core's own tile memory. -/
  | stt (f : MF)
  /-- LDX (R194): Loads from a cluster member's tile memory. -/
  | ldx (f : MF)
  /-- STX (R194): Stores to a cluster member's tile memory. -/
  | stx (f : MF)
  /-- ATOM (R198): Read-modify-write atomic on virtual or tile memory, per lane in ascending order. -/
  | atom (f : MF)
  /-- CAS (R199): Compare and swap of 4 or 8 bytes, or in tile memory. -/
  | cas (f : MF)
  /-- CAS128 (R199): 16-byte compare and swap. -/
  | cas128 (f : MF)
  /-- FENCE (R200): Acquire, release or full fence with scope and tag mask. -/
  | fence (f : MF)
  /-- FTAG (R201): Binds or unbinds a range tag to a virtual, tile or record range. -/
  | ftag (f : MF)
  /-- PREF (R202): Prefetches a line into L1 and L2 or L2 only, dropping on any obstacle. -/
  | pref (f : MF)
  /-- INVL1 (R203): Drops L1 lines of a range or of the whole ASID. -/
  | invl1 (f : MF)
  /-- SETFE (R204): Sets tile-memory lines full or empty. -/
  | setfe (f : MF)
  /-- RROT (R205): Ring store into a ring-set member's tile memory. -/
  | rrot (f : MF)
  /-- MACC (R241): Clears an accumulator home image and sets its anchor. -/
  | macc (f : AF)
  /-- MLOOP (R244): Accepts a matrix loop along K into a home, registering ranges and locking B registers. -/
  | mloop (f : AF)
  /-- MDRAIN (R247): Converts and writes an accumulator home out through a record. -/
  | mdrain (f : AF)
  /-- MSCALE (R248): Scales each row of a home by an FP32 factor in place. -/
  | mscale (f : AF)
  /-- MSTAT (R249): Reads a home's status word into an s register. -/
  | mstat (f : AF)
  /-- WVIEW (R251): Checks and writes a convolution view into a view slot. -/
  | wview (f : AF)
  /-- WPOOL (R255): Max or average pooling over a view into a home. -/
  | wpool (f : AF)
  /-- FCOPY (R213): Accepts a converting box copy between records. -/
  | fcopy (f : AF)
  /-- FGATHER (R215): Accepts a gather of rows by index. -/
  | fgather (f : AF)
  /-- FSCATTER (R216): Accepts a scatter of rows by index, in index order or combining. -/
  | fscatter (f : AF)
  /-- FFILL (R213): Accepts a fill of a box with one converted value. -/
  | ffill (f : AF)
  /-- FQUEUE (R218): Claims a queue slot, writes a packet and publishes it. -/
  | fqueue (f : AF)
  /-- EMIT (R307): Puts primitive records into a pass at the list engine. -/
  | emit (f : AF)
  /-- TILEGET (R309): Requests a screen tile grant from the tile broker. -/
  | tileget (f : AF)
  /-- TILEDONE (R311): Releases and retires a granted tile. -/
  | tiledone (f : AF)
  /-- VIS (R318): Samples visibility of a granted tile in opaque or transparent mode. -/
  | vis (f : AF)
  /-- BLEND (R322): Submits fragments to the blend unit for application in primitive order. -/
  | blend (f : AF)
  /-- TRACE (R329): Casts one ray per lane against a BVH8. -/
  | trace (f : AF)
  /-- LATHE (R281): Element-wise add, max, min or axpy performed at the lathe units. -/
  | lathe (f : AF)
  /-- BATCH (R126): Closes the open batch and returns its handle. -/
  | batch (f : AF)
  /-- NOP (R122): No effect. -/
  | nop (f : CF)
  /-- BRU (R114): Uniform branch on a predicate or s register. -/
  | bru (f : CF)
  /-- BRD (R115): Divergent branch splitting the sub-raft with a join record. -/
  | brd (f : CF)
  /-- JOIN (R116): Parks the sub-raft at a join record. -/
  | join (f : CF)
  /-- JMP (R117): Relative jump. -/
  | jmp (f : CF)
  /-- JMPI (R118): Uniform indirect jump through an s pair. -/
  | jmpi (f : CF)
  /-- JMPI_DIV (R118): Divergent indirect jump grouping lanes by target. -/
  | jmpiDiv (f : CF)
  /-- CALL (R119): Direct call writing a link. -/
  | call (f : CF)
  /-- CALL_IND (R119): Indirect call through an s pair writing a link. -/
  | callInd (f : CF)
  /-- RET (R120): Returns to the address in an s pair. -/
  | ret (f : CF)
  /-- EXIT (R121): Ends the lanes of the issuing sub-raft. -/
  | exit (f : CF)
  /-- WAITC (R127): Waits until named pending counters sum to at most N. -/
  | waitc (f : CF)
  /-- WAITB (R128): Waits for a batch named by handle. -/
  | waitb (f : CF)
  /-- WAITB_KEEP (R128): Waits until at most K closed batches are incomplete. -/
  | waitbKeep (f : CF)
  /-- BAR_SYNC (R131): Arrives at a barrier and waits for the phase to complete. -/
  | barSync (f : CF)
  /-- BAR_ARRIVE (R131): Arrives at a barrier and issues on, receiving the phase later. -/
  | barArrive (f : CF)
  /-- LOOP (R133): Captures a body into the spindle and runs it a counted number of passes. -/
  | loop (f : CF)
  /-- LOOP_UNTIL (R133): Runs the spindle body until a stream end flag is set. -/
  | loopUntil (f : CF)
  /-- STRM (R137): Binds a stream register to a walk. -/
  | strm (f : CF)
  /-- STRM_OFF (R137): Unbinds a stream register. -/
  | strmOff (f : CF)
  /-- REORDER (R138): Sorts live threads by key and compacts them. -/
  | reorder (f : CF)
  /-- MIGRATE (R396): Moves the raft to the die that homes an address. -/
  | migrate (f : CF)
  /-- MIGRATE_HOME (R396): Returns the raft to its own context. -/
  | migrateHome (f : CF)
  /-- QUOTA (R139): Changes the raft's register count from the pool. -/
  | quota (f : CF)
  /-- YIELD (R140): Resets age and waits a number of cycles. -/
  | yield (f : CF)
  /-- TRAPI (R384): Raises cause TRAPI with a code. -/
  | trapi (f : CF)
  /-- BKPT (R384): Raises BKPT, or stops with a BREAK report under DEBUG. -/
  | bkpt (f : CF)
  /-- LEASE (R406): Requests a clock-boost lease from the cluster arbiter. -/
  | lease (f : CF)
  /-- LEASE_END (R406): Ends the raft's lease. -/
  | leaseEnd (f : CF)
  /-- WAITMEM (R132): Waits until a memory word compares true with a value. -/
  | waitmem (f : CF)
  /-- CSRR (R385): Reads a control register. -/
  | csrr (f : CF)
  /-- CSRW (R385): Writes a control register. -/
  | csrw (f : CF)
  /-- DBGHALT (R380): Halts a team or one raft. -/
  | dbghalt (f : CF)
  /-- DBGRES (R380): Resumes a halted team or raft. -/
  | dbgres (f : CF)
  /-- DBGSTEP (R381): Runs exactly one clause of one sub-raft of a halted team. -/
  | dbgstep (f : CF)
  /-- DBGRD (R388): Reads a selected item of a halted raft. -/
  | dbgrd (f : CF)
  /-- DBGWR (R388): Writes a selected item of a halted raft. -/
  | dbgwr (f : CF)
  /-- WATCH (R389): Sets or clears a tile-memory watchpoint on a core. -/
  | watch (f : CF)
  /-- TLBINV (R293): Invalidates translations, marks and lines over a range. -/
  | tlbinv (f : CF)
  /-- TLBINV_HOLD (R293): Invalidates a range and records a hold over it. -/
  | tlbinvHold (f : CF)
  /-- TLBINV_FREE (R293): Removes a hold and its TLB entries and marks. -/
  | tlbinvFree (f : CF)
  /-- KILL (R387): Terminates a team with cause KILLED. -/
  | kill (f : CF)
  /-- MBOX (R390): Posts a 60-byte message to a mailbox. -/
  | mbox (f : CF)
  /-- CLAUSE_FETCH (R49): Fetches all words of a clause and checks its header and slot classes. -/
  | clauseFetch (raft ent : Nat)
  /-- CLAUSE_START (R105): A quadrant chooses the oldest ready sub-raft and starts its clause. -/
  | clauseStart (core quad : Nat)
  /-- YIELD_EXPIRY (R140): A yielding sub-raft's cycle count runs out and it becomes ready. -/
  | yieldExpiry (raft ent : Nat)
  /-- QUOTA_GRANT (R139): A waiting register-count increase is granted when the pool has room. -/
  | quotaGrant (raft ent : Nat)
  /-- RAFT_FREE (R121): An exited raft's outstanding work completes; registers return and context frees. -/
  | raftFree (raft : Nat)
  /-- TEAM_DISPATCH (R350): The distributor places a team on cores and starts its rafts. -/
  | teamDispatch (launch : Nat)
  /-- LOAD_REPLY (R194): A load's data returns and is written to its destination registers. -/
  | loadReply (req : Nat)
  /-- STORE_PERFORM (R75): A store is performed at its line's home or port and acknowledged. -/
  | storePerform (src : StoreSrc)
  /-- ATOMIC_PERFORM (R198): An atomic, CAS or CAS128 is performed at the lathe unit or owning port. -/
  | atomicPerform (req : Nat)
  /-- L2_FILL (R273): A line is filled into its home bank, translated and permission-checked. -/
  | l2Fill (asid line : Nat) (acc : Acc)
  /-- PAGE_WALK (R288): A page-table walk completes and installs a translation or marks a page fault-pending. -/
  | pageWalk (asid : Nat) (va : DWord) (acc : Acc)
  /-- FAULT_RING_POST (R354): The control die posts a fault-pending mark record to the fault ring when room exists. -/
  | faultRingPost
  /-- MOORED_READMIT (R141): A moored raft's replay list is performed once its pages are resident. -/
  | mooredReadmit (raft : Nat)
  /-- MOOR_LIMIT_EXPIRY (R356): A raft has been moored MOOR_LIMIT cycles and its team is stowed. -/
  | moorLimitExpiry (raft : Nat)
  /-- STOW_DELAY_EXPIRY (R356): No raft can issue and one has been moored STOW_DELAY cycles; the team is stowed. -/
  | stowDelayExpiry (team : Nat)
  /-- STOW_RETRY (R357): A failed stow is tried again when slots free or every 65,536 cycles. -/
  | stowRetry (team : Nat)
  /-- RESTORE (R363): A stowed team is re-admitted, loaded and its replay lists performed. -/
  | restore (team : Nat)
  /-- MIGRATE_LAND (R396): A migrating raft obtains a landing slot and its context is shipped. -/
  | migrateLand (raft : Nat)
  /-- FERRY_CHUNK_COMPLETE (R219): A ferry chunk's destination writes are performed. -/
  | ferryChunkComplete (op : Nat)
  /-- FERRY_RESUME (R224): A suspended ferry restarts its chunk once the page is resident. -/
  | ferryResume (op : Nat)
  /-- FQUEUE_RETRY (R218): A full-queue FQUEUE claims again after a notice or 4,096 cycles. -/
  | fqueueRetry (op : Nat)
  /-- FSCATTER_COMBINE (R216): A combining scatter element is read-modified-written at its home. -/
  | fscatterCombine (op : Nat)
  /-- BARRIER_ARRIVE (R130): A barrier arrival is performed at the barrier's lathe unit. -/
  | barrierArrive (req : Nat)
  /-- BARRIER_CREDIT (R130): A ferry credit of transaction bytes is applied at the barrier home. -/
  | barrierCredit (credit : Nat)
  /-- WAKE_NOTICE (R130): A wake notice reaches a core and its waiting rafts read GEN again. -/
  | wakeNotice (notice : Nat)
  /-- WRITE_NOTICE (R132): A fired watch's notice reaches a WAITMEM, which reads its word again. -/
  | writeNotice (notice : Nat)
  /-- WAITMEM_RETRY (R132): A WAITMEM re-reads its word after 4,096 cycles. -/
  | waitmemRetry (raft ent : Nat)
  /-- MLOOP_START (R244): An MLOOP takes a working accumulator and reads the home anchor. -/
  | mloopStart (op : Nat)
  /-- MLOOP_STEP (R244): One matrix step accumulates products into the working accumulator. -/
  | mloopStep (op : Nat)
  /-- FX64_MERGE (R39): A working accumulator element merges into its home. -/
  | fx64Merge (op : Nat)
  /-- MATRIX_COMPLETE (R92): A matrix or window operation completes and releases its ranges. -/
  | matrixComplete (op : Nat)
  /-- MATRIX_RESUME (R257): A suspended matrix operation resumes when its page is resident. -/
  | matrixResume (op : Nat)
  /-- LATHE_ELEMENT (R281): One LATHE element is performed at its destination's lathe unit. -/
  | latheElement (op : Nat)
  /-- LATHE_RESUME (R282): A suspended LATHE resumes from its first unperformed line. -/
  | latheResume (op : Nat)
  /-- RROT_LINE_WRITE (R205): An RROT line is written at the target once empty and set full. -/
  | rrotLineWrite (req : Nat)
  /-- LIST_PROCESS (R307): The list engine numbers and lists an arriving EMIT's primitives. -/
  | listProcess (op : Nat)
  /-- SEGMENT_OPEN (R302): After the closed segment's tiles retire, the arena empties and the next segment opens. -/
  | segmentOpen (passId : Nat)
  /-- TILE_GRANT (R309): The broker gives an available tile to a waiting TILEGET. -/
  | tileGrant (op : Nat)
  /-- TILE_RETIRE (R311): The broker retires a tile once its fragments have retired. -/
  | tileRetire (op : Nat)
  /-- VIS_COMPLETE (R318): The visibility sampler finishes, sets plane lines full and writes D. -/
  | visComplete (op : Nat)
  /-- FRAGMENT_APPLY (R322): The blend unit applies a ready fragment in sequence order and retires it. -/
  | fragmentApply (frag : Nat)
  /-- TRACE_COMPLETE (R330): The traversal unit finishes all lanes and writes results. -/
  | traceComplete (op : Nat)
  /-- SWAP_START (R296): The scheduler starts a near/far page exchange chosen by next use. -/
  | swapStart (die : Nat)
  /-- SWAP_PIECE_COPY (R295): A 4 KiB piece of both frames is copied into the buffer. -/
  | swapPieceCopy (die : Nat)
  /-- SWAP_PIECE_WRITE (R295): A buffered piece is written out to the other frame. -/
  | swapPieceWrite (die : Nat)
  /-- SWAP_SWITCH (R295): The exchange switches both PTEs atomically or abandons. -/
  | swapSwitch (die : Nat)
  /-- HT_SET (R267): Home-table command inserting or replacing an entry. -/
  | htSet
  /-- HT_REMOVE (R267): Home-table command removing one entry. -/
  | htRemove
  /-- HT_REMOVE_ASID (R267): Home-table command removing every entry of an ASID. -/
  | htRemoveAsid
  /-- QT_ENABLE (R336): Queue-table command enabling an entry. -/
  | qtEnable (index : BitVec 16)
  /-- QT_DISABLE (R336): Queue-table command disabling an entry and cancelling unstarted packets. -/
  | qtDisable (index : BitVec 16)
  /-- PACKET_CONSUME (R342): The scheduler consumes a published slot and checks its sequence number. -/
  | packetConsume (queue : Nat)
  /-- QUEUE_RESUME (R343): A non-zero RESUME read in ERROR returns the queue to IDLE. -/
  | queueResume (queue : Nat)
  /-- READ_INTERVAL_READ (R349): A queue or semaphore without a watch is read again every READ_INTERVAL. -/
  | readIntervalRead (queue : Nat)
  /-- QUEUE_MAP (R349): A READY queue of highest priority takes a free mapped slot. -/
  | queueMap
  /-- QUANTUM_EXPIRY (R349): A queue mapped for 1 ms with a rival waiting returns to READY. -/
  | quantumExpiry (queue : Nat)
  /-- LAUNCH_START (R345): A LAUNCH packet is checked and its first team dispatched or it fails. -/
  | launchStart (queue : Nat)
  /-- COPY_START (R345): A COPY packet is handed to a core's ferry engine. -/
  | copyStart (queue : Nat)
  /-- SEMWAIT (R346): A SEMWAIT packet reads its word and completes or puts the queue in WAITING. -/
  | semwait (queue : Nat)
  /-- SEMAPHORE_REREAD (R346): The semaphore engine re-reads a word and wakes its queue when met. -/
  | semaphoreReread (queue : Nat)
  /-- PASS_PACKET (R344): A PASS packet completes when every earlier packet has completed. -/
  | passPacket (queue : Nat)
  /-- SEMSIGNAL (R345): A SEMSIGNAL packet releases and updates its word after earlier packets complete. -/
  | semsignal (queue : Nat)
  /-- MARKER (R345): A MARKER packet writes its word after earlier packets complete. -/
  | marker (queue : Nat)
  /-- PACKET_COMPLETE (R347): A completed packet's record is written and COMPLETED_SEQ advanced. -/
  | packetComplete (queue : Nat) (seq : Word)
  /-- SPATIAL_PREEMPTION (R351): A LAUNCH with VACATE stows victim teams to free exactly v cores. -/
  | spatialPreemption (queue : Nat)
  /-- ARBITER_PERIOD (R23): A 4,096-cycle budget period ends and the arbiter's charges reset. -/
  | arbiterPeriod (cluster : Nat)
  /-- RESERVATION_GRANT (R403): The arbiter grants a unit of work its current reservation. -/
  | reservationGrant (cluster : Nat)
  /-- CLK_PAT_WRITE (R402): Write of a cluster's clock pattern, refused below four ones. -/
  | clkPatWrite (cluster : Nat) (value : BitVec 16)
  /-- CLK_EFF_CHANGE (R402): A new effective pattern takes effect at the next 16-slot boundary. -/
  | clkEffChange (cluster : Nat)
  /-- BUD_FLOOR_WRITE (R403): Write of the cluster's class floors, refused if over budget. -/
  | budFloorWrite (cluster : Nat) (value : DWord)
  /-- BUD_TOTAL_WRITE (R403): Write of the cluster's budget, refused below the weighted floors. -/
  | budTotalWrite (cluster : Nat) (value : Word)
  /-- PLIMIT_WRITE (R401): Write of the module power limit, refused above 4,000 W. -/
  | plimitWrite (value : Word)
  /-- FQ_CTL_WRITE (R386): Write of the fault ring size, refused outside range. -/
  | fqCtlWrite (value : Word)
  /-- ERR_CTL_WRITE (R401): Write of the error ring size, refused outside range. -/
  | errCtlWrite (value : Word)
  /-- AGE_PARAM_WRITE (R349): Write of AGE_INTERVAL, AGE_CAP or READ_INTERVAL, refused outside range. -/
  | ageParamWrite (which : AgeParam) (value : Word)
  /-- PEER_RETRY_WRITE (R401): Write of the peer retry limit, refused outside 1 to 1,024. -/
  | peerRetryWrite (value : Word)
  /-- STOW_SLOTS_WRITE (R386): Write of the stow slot count, taken as 4,096 when above. -/
  | stowSlotsWrite (value : Word)
  /-- REGISTER_WRITE (R401): Write to a control-block or control register without behaviour of its own. -/
  | registerWrite (offset bytes : Nat) (value : DWord)
  /-- LEASE_EXPIRY (R406): A lease's cycle count runs out and it ends. -/
  | leaseExpiry (raft : Nat)
  /-- POWER_WINDOW (R407): A 1 ms draw window ends; leases are revoked if it exceeded PLIMIT. -/
  | powerWindow (draw : Nat)
  /-- HEADROOM_ZERO (R405): A cluster's headroom reaches 0 and firmware revokes the die's leases. -/
  | headroomZero (cluster : Nat)
  /-- PATTERN_BIT_CLEAR (R405): Every 100 µs firmware clears one pattern bit per cluster of the die. -/
  | patternBitClear (die : Nat)
  /-- PATTERN_RESTORE (R405): Headroom above 10 restores CLK_PAT. -/
  | patternRestore (cluster : Nat) (headroom : BitVec 8)
  /-- ROLLBACK_RAISE (R409): A signed command raises the fused rollback level. -/
  | rollbackRaise (command : RollbackCommand)
  /-- COMPUTE_DIE_RESET (R13): A compute die resets and its teams are terminated. -/
  | computeDieReset (die : Nat)
  /-- ATTEST_REQ (R412): A nonce request answered with a signed attestation report. -/
  | attestReq (frame : MgmtFrame)
  /-- TELEM_REQ (R412): A telemetry request answered with TELEM_RSP. -/
  | telemReq (frame : MgmtFrame)
  /-- RECOV_HELLO (R413): Recovery request answered with RECOV_STATE. -/
  | recovHello (frame : MgmtFrame)
  /-- RECOV_WRITE (R413): Writes bytes into an image slot's staging buffer. -/
  | recovWrite (frame : MgmtFrame)
  /-- RECOV_COMMIT (R413): Verifies a staged image and writes it to boot flash. -/
  | recovCommit (frame : MgmtFrame)
  /-- RECOV_RESET (R413): Acknowledges and resets the module. -/
  | recovReset (frame : MgmtFrame)
  /-- MGMT_BAD_MESSAGE (R411): A management frame with unassigned or module-sent type gets a BADTYPE response. -/
  | mgmtBadMessage (frame : MgmtFrame)
  /-- FLIT_RECEIVE (R392): A die-link flit arrives and is checked, delivered or NAKed. -/
  | flitReceive (link : LinkDir) (flit : Flit)
  /-- FLIT_REPLAY (R394): A NAK makes the sender replay from ACK + 1. -/
  | flitReplay (link : LinkDir)
  /-- PEER_FRAME (R398): A peer-port Ethernet frame carrying crossing flits arrives. -/
  | peerFrame (frame : PeerFrame)
  /-- PEER_ACCESS (R399): A peer access runs at the receiver in the imported ASID or is refused. -/
  | peerAccess (module srcAsid : Nat) (req : PeerReq)
  /-- CORRECTED_ERROR (R414): A single-bit error is corrected and CE_COUNT increments. -/
  | correctedError (pa : Nat)
  /-- UNCORRECTABLE_ERROR (R414): A double-bit error is contained by location code. -/
  | uncorrectableError (place : ErrorPlace) (pa : Nat) (die : Nat)
  /-- RENDER_RESUME (R306): A render operation that was suspended on a non-resident page resumes where it stopped once the page is resident; this includes the list engine's wait on a pass object and a TRACE lane traversing again from ROOT. -/
  | renderResume (op : Nat)
  /-- HEADER_WATCH (R352): The scheduler's watch on a queue header fires and the scheduler reads the header, moving an IDLE queue to READY. -/
  | headerWatch (queue : Nat)
  /-- MODULE_RESET (R408): Power-on or reset boots the module from signed images. -/
  | moduleReset
  deriving DecidableEq, Repr

end Sys2Proof
end

