-- ==== Sys2Proof/Machine/Operands.lean ====
section
/-!
DEFINITION. Register operands: the kinds of register numbers (R56), the one table of each instruction's register
operands (which registers a field names, how many, how aligned, read or written), and the encoding checks of R55
step 3 that depend on the word alone. The interlock (R146), the register count (R57), the stream reads (R135) and
the spindle's renaming (R134) all use this table.
-/

namespace Sys2Proof.Machine

open Sys2Proof

/-- What a register number names (R56). -/
inductive Kind where
  | vec | scl | zero | special | pred | none
  deriving DecidableEq, Repr

/-- R56 (DEDUCED, log entry 26). -/
def Kind.of (r : RegNum) : Kind :=
  let n := r.toNat
  if n < 384 then .vec
  else if n < 448 then .scl
  else if n = 448 then .zero
  else if n ≤ 460 then .special
  else if 480 ≤ n ∧ n ≤ 487 then .pred
  else .none

/-- A field of an instruction word that names registers. -/
inductive Fld where
  | d | a | b | c
  deriving DecidableEq, Repr

/-- One register operand: the field, the first register, how many registers from it, the multiple at which it must
start, whether it is read and written, and the kinds of register it takes. -/
structure Opd where
  fld : Fld
  first : RegNum
  n : Nat
  align : Nat
  rd : Bool
  wr : Bool
  kinds : List Kind
  deriving DecidableEq, Repr

/-- A source: v, s, ZERO or a special register; n registers starting at a multiple of n (R57). -/
def Opd.src (fld : Fld) (r : RegNum) (n : Nat) : Opd := ⟨fld, r, n, n, true, false, [.vec, .scl, .zero, .special]⟩
/-- A destination: v, s or ZERO. -/
def Opd.dst (fld : Fld) (r : RegNum) (n : Nat) : Opd := ⟨fld, r, n, n, false, true, [.vec, .scl, .zero]⟩
/-- A source that takes v, s and ZERO only (R192). -/
def Opd.mem (fld : Fld) (r : RegNum) (n : Nat) : Opd := ⟨fld, r, n, n, true, false, [.vec, .scl, .zero]⟩
/-- A predicate source. -/
def Opd.psrc (fld : Fld) (r : RegNum) : Opd := ⟨fld, r, 1, 1, true, false, [.pred]⟩
/-- A predicate destination. -/
def Opd.pdst (fld : Fld) (r : RegNum) : Opd := ⟨fld, r, 1, 1, false, true, [.pred]⟩
/-- s registers that are read: n of them from a multiple of `al`. -/
def Opd.sread (fld : Fld) (r : RegNum) (n al : Nat) : Opd := ⟨fld, r, n, al, true, false, [.scl]⟩
/-- s registers that are written. -/
def Opd.swrite (fld : Fld) (r : RegNum) (n : Nat) : Opd := ⟨fld, r, n, n, false, true, [.scl]⟩
/-- An s register that is written, or ZERO (a status or handle the program does not want). -/
def Opd.status (fld : Fld) (r : RegNum) (n : Nat) : Opd := ⟨fld, r, n, n, false, true, [.scl, .zero]⟩
/-- v registers that are read: n of them from a multiple of `al`. -/
def Opd.vread (fld : Fld) (r : RegNum) (n al : Nat) : Opd := ⟨fld, r, n, al, true, false, [.vec]⟩

/-- The kind, the end and the alignment of an operand (R57). ZERO stands for a 64-bit zero and 456 for the whole of
CYCLE; no other special register makes a pair and none makes a quad (of a CVT group DESIGN CHOICE, log entry 95). -/
def Opd.ok (o : Opd) : Bool :=
  o.kinds.contains (Kind.of o.first) &&
  match Kind.of o.first with
  | .vec => o.first.toNat % o.align == 0 && decide (o.first.toNat + o.n ≤ 384)
  | .scl => o.first.toNat % o.align == 0 && decide (o.first.toNat + o.n ≤ 448)
  | .zero => decide (o.n ≤ 2)
  | .special => o.n == 1 || (o.n == 2 && o.first == 456#9)
  | .pred => o.n == 1
  | .none => false

/-- Bits per element of a CVT format code (R167); code 15 is unassigned. -/
def cvtWidth (code : Nat) : Nat :=
  match code with
  | 0 | 7 | 8 => 32
  | 1 | 2 | 9 | 10 => 16
  | 3 | 4 | 11 | 12 => 8
  | 5 => 4
  | 6 | 13 | 14 => 64
  | _ => 32

/-- The elements CVT converts in a lane, and its source and destination register counts (R168). -/
def cvtCounts (grp : Bool) (src dst : Nat) : Nat × Nat × Nat :=
  let e := if grp then 32 / min (cvtWidth src) (cvtWidth dst) else 1
  (e, max 1 (e * cvtWidth src / 32), max 1 (e * cvtWidth dst / 32))

/-- CVT's control word (R167): GRP, SAT, RC and SRC. -/
def cvtGrp (f : V3) : Bool := f.c.getLsbD 8
def cvtSat (f : V3) : Bool := f.c.getLsbD 7
def cvtRc (f : V3) : Nat := field f.c.toNat 6 4
def cvtSrc (f : V3) : Nat := field f.c.toNat 3 0

/-- The access size in bytes by FN[2:0] of a plain load or store, and the registers it fills (R193). -/
def memSize (fn : BitVec 4) : Nat :=
  match field fn.toNat 2 0 with
  | 0 | 4 => 1
  | 1 | 5 => 2
  | 2 => 4
  | 3 => 8
  | 6 => 16
  | _ => 1
def memRegs (fn : BitVec 4) : Nat := max 1 (memSize fn / 4)

/-- 2 for a pair, 1 for a single register. -/
def wn (w : Bool) : Nat := if w then 2 else 1

/-- The s registers of a format A or debug descriptor at A: n of them read, at a multiple of 8 (R62). -/
def descr (r : RegNum) (n : Nat) : Opd := Opd.sread .a r n 8

/-- The index register of a format M access: present when ORD is 0 (R192). -/
def idxOpds (f : MF) : List Opd := if f.ord = 0 then [Opd.src .b f.b 1] else []

/-- PLOP's operands by FN (R174). -/
def plopOpds (f : V3) : List Opd :=
  match f.fn.toNat with
  | 0 | 1 | 2 | 3 => [.pdst .d f.d, .psrc .a f.a, .psrc .b f.b]
  | 4 | 5 => [.pdst .d f.d, .psrc .a f.a]
  | 6 | 7 => [.pdst .d f.d]
  | 8 => [.pdst .d f.d, ⟨.a, f.a, 1, 1, true, false, [.vec, .scl]⟩]
  | _ => [⟨.d, f.d, 1, 1, false, true, [.vec]⟩, .psrc .a f.a]

/-- Home operand of MACC, MSCALE and MSTAT: an s register for a tile home, an s pair for a virtual one (R240). -/
def homeOpd (fld : Fld) (r : RegNum) (virt : Bool) : Opd := if virt then .sread fld r 2 2 else .sread fld r 1 1

/-- Shorthands for the shapes that many instructions share. -/
def opd3 (f : V3) (nd na nb nc : Nat) : List Opd :=
  [.dst .d f.d nd, .src .a f.a na] ++ (if nb = 0 then [] else [.src .b f.b nb]) ++ (if nc = 0 then [] else [.src .c f.c nc])

/-- Destinations of VOTE, LANE and REDUX: a v or s register (or ZERO), or a predicate where the entry allows one. -/
def collDst (f : V3) (n : Nat) (p : Bool) : Opd :=
  ⟨.d, f.d, n, n, false, true, if p then [.vec, .scl, .zero, .pred] else [.vec, .scl, .zero]⟩

/-- The loads and stores of R192: D with n registers, A a pair or a single register, and the index. -/
def ldOpds (f : MF) (n na : Nat) : List Opd := [.dst .d f.d n, .mem .a f.a na] ++ idxOpds f
def stOpds (f : MF) (n na : Nat) : List Opd := [.mem .d f.d n, .mem .a f.a na] ++ idxOpds f
/-- A read-modify-write group in D (R197, R199). -/
def rmwOpds (f : MF) (n : Nat) (kinds : List Kind) (na : Nat) : List Opd :=
  [⟨.d, f.d, n, n, true, true, kinds⟩, .mem .a f.a na] ++ idxOpds f

/-- Every register operand of an instruction; an event has none. -/
def opds : Instr → List Opd
  | .iadd f | .isub f | .imul f | .imin f | .imax f => opd3 f (wn f.w) (wn f.w) (wn f.w) 0
  | .imad f => opd3 f (wn f.w) (wn f.w) (wn f.w) (wn f.w)
  | .iabs f => opd3 f (wn f.w) (wn f.w) 0 0
  | .and f | .or f | .xor f | .andn f => opd3 f (wn f.w) (wn f.w) (wn f.w) 0
  | .shl f | .shr f | .sar f | .rotl f => opd3 f (wn f.w) (wn f.w) 1 0
  | .popc f | .clz f => opd3 f 1 (wn f.w) 0 0
  | .brev f | .mov f => opd3 f (wn f.w) (wn f.w) 0 0
  | .bfe f => opd3 f 1 1 1 0
  | .bfi f | .dot4 f | .ffma f | .hfma2 f | .fdot2h f => opd3 f 1 1 1 1
  | .icmp f => [.pdst .d f.d, .src .a f.a (wn f.w), .src .b f.b (wn f.w)]
  | .sel f => [.dst .d f.d (wn f.w), .src .a f.a (wn f.w), .src .b f.b (wn f.w), .psrc .c f.c]
  | .fadd f | .fsub f | .fmul f | .fmin f | .fmax f | .fdiv f => opd3 f 1 1 1 0
  | .hadd2 f | .hmul2 f | .hmin2 f | .hmax2 f => opd3 f 1 1 1 0
  | .fcmp f => [.pdst .d f.d, .src .a f.a 1, .src .b f.b 1]
  | .fclass f | .frcp f | .frsq f | .fsqrt f | .fexp2 f | .flog2 f | .fsin f | .fcos f => opd3 f 1 1 0 0
  | .dadd f | .dmul f => opd3 f 2 2 2 0
  | .dfma f => opd3 f 2 2 2 2
  | .cvt f =>
    let (_, ns, nd) := cvtCounts (cvtGrp f) (cvtSrc f) f.fn.toNat
    [.dst .d f.d nd, .src .a f.a ns]
  | .shfl f => opd3 f (wn f.w) (wn f.w) 1 0
  | .vote f => [collDst f (wn f.w) (field f.fn.toNat 1 0 != 2), .psrc .a f.a]
  | .redux f => [collDst f (wn f.w) false, .src .a f.a (wn f.w)]
  | .scan f => [⟨.d, f.d, wn f.w, wn f.w, false, true, [.vec]⟩, .src .a f.a (wn f.w)]
  | .plop f => plopOpds f
  | .lane f =>
    [if f.fn = 3 then ⟨.d, f.d, 1, 1, false, true, [.vec]⟩ else collDst f 1 false, .psrc .a f.a]
  | .iaddi f | .andi f | .ori f | .xori f | .shi f => [.dst .d f.d 1, .src .a f.a 1]
  | .movi f => [.dst .d f.d 1]
  | .icmpi f => [.pdst .d f.d, .src .a f.a 1]
  | .pblk f => [.psrc .a f.a]
  | .ld f => ldOpds f (memRegs f.fn) 2
  | .st f => stOpds f (memRegs f.fn) 2
  | .ldb f => ldOpds f 1 1
  | .stb f => stOpds f 1 1
  | .ldt f | .ldx f => ldOpds f (memRegs f.fn) 1
  | .stt f | .stx f => stOpds f (memRegs f.fn) 1
  | .atom f =>
    rmwOpds f (if 10 ≤ f.fn.toNat ∧ f.fn.toNat ≤ 12 then 2 else 1) [.vec, .scl, .zero] (if f.fn.toNat < 13 then 2 else 1)
  | .cas f => rmwOpds f (if f.fn = 1 then 4 else 2) [.vec, .scl] (if f.fn = 2 then 1 else 2)
  | .cas128 f => rmwOpds f 8 [.vec, .scl] 2
  | .fence _ => []
  | .ftag f =>
    match f.fn.toNat with
    | 1 => [⟨.a, f.a, 2, 2, true, false, [.scl, .zero]⟩, ⟨.b, f.b, 1, 1, true, false, [.scl, .zero]⟩]
    | 2 => [⟨.a, f.a, 1, 1, true, false, [.scl, .zero]⟩, ⟨.b, f.b, 1, 1, true, false, [.scl, .zero]⟩]
    | 3 => [⟨.a, f.a, 1, 1, true, false, [.scl, .zero]⟩]
    | _ => []
  | .pref f => [.mem .a f.a 2] ++ idxOpds f
  | .invl1 f => if f.fn = 0 then [.sread .a f.a 2 2, .sread .b f.b 1 1] else []
  | .setfe f => [.mem .a f.a 1] ++ idxOpds f
  | .rrot f => [⟨.d, f.d, 1, 1, true, false, [.vec, .scl]⟩, .mem .a f.a 1] ++ idxOpds f
  | .macc f => [homeOpd .b f.b (f.fn.getLsbD 0), .sread .c f.c 1 1]
  | .mloop f | .mdrain f | .wview f | .wpool f => [descr f.a 8]
  | .mscale f => [if f.fn.getLsbD 0 then .vread .b f.b 1 1 else .sread .b f.b 1 1, homeOpd .c f.c (f.fn.getLsbD 1)]
  | .mstat f => [.swrite .d f.d 1, homeOpd .b f.b (f.fn.getLsbD 0)]
  | .fcopy f | .fgather f | .fscatter f => [descr f.a 8, ⟨.c, f.c, 2, 2, true, false, [.scl, .zero]⟩]
  | .ffill f => [descr f.a 8, ⟨.b, f.b, 1, 1, true, false, [.scl, .zero]⟩, ⟨.c, f.c, 2, 2, true, false, [.scl, .zero]⟩]
  | .fqueue f => [.status .d f.d 1, descr f.a 8]
  | .emit f => [.status .d f.d 1, descr f.a 8]
  | .tileget f => [.swrite .d f.d 2, descr f.a 2]
  | .tiledone f => [descr f.a 3]
  | .vis f => [.status .d f.d 2, descr f.a 8]
  | .blend f => [descr f.a 8, .vread .b f.b 4 4, .vread .c f.c 2 2]
  | .trace f => [⟨.d, f.d, 5, 1, false, true, [.vec]⟩, descr f.a 2, .vread .b f.b 8 8]
  | .lathe f => descr f.a 8 :: if field f.fn.toNat 1 0 = 3 then [.sread .b f.b 1 1] else []
  | .batch f => [.status .d f.d 1]
  | .nop _ | .join _ | .jmp _ | .exit _ | .waitc _ | .waitbKeep _ | .yield _ | .trapi _ | .bkpt _ | .migrateHome _ | .strmOff _ => []
  | .bru f => [⟨.a, f.a, 1, 1, true, false, [.pred, .scl]⟩]
  | .brd f => [.psrc .a f.a]
  | .jmpi f | .ret f | .migrate f => [.sread .a f.a 2 2]
  | .jmpiDiv f => [.vread .a f.a 2 2]
  | .call f => [.dst .d f.d 2]
  | .callInd f => [.dst .d f.d 2, .sread .a f.a 2 2]
  | .waitb f => [.sread .a f.a 1 1]
  | .barSync f => [.sread .a f.a 4 4]
  | .barArrive f => [.status .d f.d 1, .sread .a f.a 4 4]
  | .loop f => [.sread .a f.a 1 1]
  | .loopUntil _ => []
  | .strm f => [.sread .a f.a 8 8, .swrite .d (BitVec.ofNat 9 (444 + f.fn.toNat % 4)) 1]
  | .reorder f => [⟨.d, f.d, f.off.toNat, 1, true, true, [.vec]⟩, .vread .a f.a 1 1]
  | .quota f => if f.fn = 1 then [.sread .a f.a 1 1] else []
  | .lease f | .leaseEnd f => [.status .d f.d 1]
  | .waitmem f => [.sread .d f.d (if f.fn.getLsbD 2 then 2 else 1) (if f.fn.getLsbD 2 then 2 else 1), .sread .a f.a 2 2]
  | .csrr f => [.swrite .d f.d (if f.fn.getLsbD 0 then 2 else 1)]
  | .csrw f => [.sread .a f.a (if f.fn.getLsbD 0 then 2 else 1) (if f.fn.getLsbD 0 then 2 else 1)]
  | .dbgrd f => [.status .d f.d 1, descr f.a 8, ⟨.a, f.a + 4, 2, 2, false, true, [.scl]⟩]
  | .dbghalt f | .dbgres f | .dbgstep f | .dbgwr f | .kill f | .watch f => [.status .d f.d 1, descr f.a 8]
  | .tlbinv f =>
    if f.off.getLsbD 18 then [] else [.sread .a f.a 2 2, .sread .d f.d 1 1]
  | .tlbinvHold f | .tlbinvFree f => [.sread .a f.a 2 2, .sread .d f.d 1 1]
  | .mbox f => [⟨.d, f.d, 15, 16, true, false, [.scl]⟩, ⟨.d, f.d + 15, 1, 1, false, true, [.scl]⟩, .sread .a f.a 2 2]
  | _ => []

/-! ### The encoding checks that depend on the word alone (R55 step 3, R58 to R66) -/

/-- A V3 field that the instruction does not use is zero, and so is its permute; a used one may carry a permute other
than code 7 when it is a v register (R58, R59). -/
def permOk (used : Bool) (x : BitVec 3) (r : RegNum) : Bool :=
  x == 0 || (used && x != 7 && Kind.of r == .vec)
/-- The permute codes that use K (R59). -/
def permUsesK (x : BitVec 3) : Bool := x == 1 || x == 2 || x == 3 || x == 5 || x == 6

/-- The common checks of format V3: `ua`, `ub`, `uc` say which sources the instruction uses with a permute. -/
def v3Ok (f : V3) (ua ub uc wOk fnOk : Bool) : Bool :=
  permOk ua f.xa f.a && permOk ub f.xb f.b && permOk uc f.xc f.c &&
  (f.k == 0 || permUsesK f.xa || permUsesK f.xb || permUsesK f.xc) && (!f.w || wOk) && fnOk

/-- FN of IADD to IMAD (R66): 0b11 in [3:2] and a packed element under W are illegal. -/
def elemOk (f : V3) : Bool := field f.fn.toNat 3 2 != 3 && (!f.w || field f.fn.toNat 3 2 == 0)

/-- Rounding codes 0 to 3 in FN[2:0], FN[3] = 0 (R66). -/
def rcOk (fn : BitVec 4) : Bool := decide (fn.toNat ≤ 3)
/-- Rounding code 0 to 3 in FN[3:1] (R66). -/
def rcHiOk (fn : BitVec 4) : Bool := decide (fn.toNat / 2 ≤ 3)

/-- Which of CVT's conversions are which (R169): float formats have codes 0 to 6. -/
def cvtFloat (c : Nat) : Bool := decide (c ≤ 6)
/-- Codes of signed integer formats. -/
def cvtSigned (c : Nat) : Bool := c == 7 || c == 9 || c == 11 || c == 13
/-- Widening between float formats: every value of the source is representable (R169, first row of floats). -/
def cvtWidens (src dst : Nat) : Bool :=
  match src with
  | 0 => dst == 6
  | 1 | 2 => dst == 0 || dst == 6
  | 3 | 4 => dst == 1 || dst == 2 || dst == 0 || dst == 6
  | 5 => decide (dst ≤ 6)
  | _ => false

/-- RC and SAT of CVT: the first matching row of R169 decides. -/
def cvtRcSatOk (src dst rc : Nat) (sat : Bool) : Bool :=
  if cvtFloat src then
    if cvtFloat dst then
      if cvtWidens src dst then rc == 0 && !sat
      else if dst == 6 || dst == 0 || dst == 1 || dst == 2 then
        (decide (rc ≤ 3) || (rc == 4 && (dst == 1 || dst == 2))) && !sat
      else if dst == 5 then decide (rc ≤ 4) && sat
      else decide (rc ≤ 4)
    else decide (rc ≤ 3) && !sat
  else if cvtFloat dst then
    if dst == 6 || dst == 0 || dst == 1 || dst == 2 then
      (decide (rc ≤ 3) || (rc == 4 && (dst == 1 || dst == 2))) && !sat
    else if dst == 5 then decide (rc ≤ 4) && sat
    else decide (rc ≤ 4)
  else if cvtSigned src == cvtSigned dst && decide (cvtWidth src < cvtWidth dst) then rc == 0 && !sat
  else rc == 0

/-- The encoding checks of CVT (R167, R169). -/
def cvtOk (f : V3) : Bool :=
  let src := cvtSrc f
  let dst := f.fn.toNat
  permOk true f.xa f.a && f.xb == 0 && f.xc == 0 && (f.k == 0 || permUsesK f.xa) && f.b == 0 &&
  src != 15 && dst != 15 && src != dst && (f.w == (cvtWidth src == 64 || cvtWidth dst == 64)) &&
  (!cvtGrp f || decide (cvtWidth src < 32) || decide (cvtWidth dst < 32)) && cvtRcSatOk src dst (cvtRc f) (cvtSat f)

/-- REDUX and SCAN hold the rounding code of `.fadd` in B[2:0] (word bits [32:30]); otherwise B is zero. -/
def collBOk (f : V3) (isFadd : Bool) : Bool := if isFadd then decide (f.b.toNat ≤ 3) else f.b == 0

/-- Format M without an order: SCOPE 0 and no mask (R192, R201). -/
def plainM (f : MF) : Bool := f.ord == 0 && f.scope == 0
/-- Orders and scopes of a load or store (R192): plain with scope 0, or the one order with scopes 0 to `top`; bit 38 is
zero in an ordered access, and BREC is zero except on LDB and STB (R61). -/
def ordM (f : MF) (order top : Nat) (brec : Bool) : Bool :=
  (plainM f || (f.ord.toNat == order && decide (f.scope.toNat ≤ top) && !f.b.getLsbD 8)) && (brec || f.brec == 0)
/-- Orders and scopes of an atomic (R197, R199): any order, scopes 0 to `top`. -/
def atomM (f : MF) (top : Nat) : Bool := decide (f.scope.toNat ≤ top) && (f.ord == 0 || !f.b.getLsbD 8) && f.brec == 0

/-- Format A fields that are zero, and the reserved field (R62). -/
def afOk (f : AF) (d b c imm : Bool) (fnOk : Bool) : Bool :=
  f.res == 0 && (d || f.d == 0) && (b || f.b == 0) && (c || f.c == 0) && (imm || f.imm == 0) && fnOk
/-- Format C fields that are zero, and the reserved field (R63, R108). -/
def cfOk (f : CF) (d a jid off : Bool) (fnOk : Bool) : Bool :=
  f.res == 0 && (d || f.d == 0) && (a || f.a == 0) && (jid || f.jid == 0) && (off || f.off == 0) && fnOk

/-- IMM24 of CSRR and CSRW (R385): bits [23:21] zero, and [19:12] zero when no core is named. -/
def csrImmOk (f : CF) : Bool := field f.off.toNat 23 21 == 0 && (f.off.getLsbD 20 || field f.off.toNat 19 12 == 0)
/-- IMM24 of TLBINV (R292). -/
def tlbImmOk (f : CF) : Bool :=
  field f.off.toNat 23 19 == 0 && (f.off.getLsbD 16 || field f.off.toNat 15 0 == 0) &&
  (!f.off.getLsbD 18 || (f.fn == 0 && f.a == 448#9 && f.d == 448#9))

/-- IMM24 of LOOP (R109, R133): [2:0] B − 1, [7:4] S, [9:8] stream, [11:10] flag; count mode has no stream and flag, a
flag of 3 is illegal, and without a window D and S are zero (R134). -/
def loopOk (f : CF) (untilMode : Bool) : Bool :=
  !f.off.getLsbD 3 && field f.off.toNat 23 12 == 0 &&
  (if untilMode then field f.off.toNat 11 10 != 3 else field f.off.toNat 11 8 == 0) &&
  Kind.of f.d == .vec && (f.jid != 0 || (f.d == 0 && field f.off.toNat 7 4 == 0))

/-- Fields, FN values and layouts; register operands are checked by `opds`. -/
def formatOk : Instr → Bool
  | .iadd f | .isub f | .imul f => v3Ok f true true false true (elemOk f) && f.c == 0
  | .imad f => v3Ok f true true true true (elemOk f)
  | .imin f | .imax f => v3Ok f true true false true (elemOk f && !f.fn.getLsbD 0) && f.c == 0
  | .iabs f => v3Ok f true false false true (elemOk f && !f.fn.getLsbD 0 && !f.fn.getLsbD 1) && f.b == 0 && f.c == 0
  | .and f | .or f | .xor f | .andn f => v3Ok f true true false true (f.fn == 0) && f.c == 0
  | .shl f | .shr f | .sar f | .rotl f => v3Ok f true true false true (elemOk f && !f.fn.getLsbD 0 && !f.fn.getLsbD 1) && f.c == 0
  | .popc f | .clz f | .brev f | .mov f => v3Ok f true false false true (f.fn == 0) && f.b == 0 && f.c == 0
  | .bfe f => v3Ok f true true false false (f.fn == 0 || f.fn == 2) && f.c == 0
  | .bfi f => v3Ok f true true true false (f.fn == 0)
  | .icmp f => v3Ok f true true false true (decide (field f.fn.toNat 2 0 ≤ 5)) && f.c == 0
  | .sel f => v3Ok f true true false true (f.fn == 0) && f.xc == 0
  | .dot4 f => v3Ok f true true true false (!f.fn.getLsbD 3)
  | .fadd f | .fsub f | .fmul f | .fdiv f => v3Ok f true true false false (rcOk f.fn) && f.c == 0
  | .ffma f => v3Ok f true true true false (rcOk f.fn)
  | .fmin f | .fmax f => v3Ok f true true false false (f.fn == 0) && f.c == 0
  | .fcmp f => v3Ok f true true false false (!f.fn.getLsbD 3) && f.c == 0
  | .fclass f | .frcp f | .frsq f | .fexp2 f | .flog2 f | .fsin f | .fcos f =>
    v3Ok f true false false false (f.fn == 0) && f.b == 0 && f.c == 0
  | .fsqrt f => v3Ok f true false false false (rcOk f.fn) && f.b == 0 && f.c == 0
  | .hadd2 f | .hmul2 f => v3Ok f true true false false (rcHiOk f.fn) && f.c == 0
  | .hfma2 f | .fdot2h f => v3Ok f true true true false (rcHiOk f.fn)
  | .hmin2 f | .hmax2 f => v3Ok f true true false false (decide (f.fn.toNat ≤ 1)) && f.c == 0
  | .dadd f | .dmul f => v3Ok f true true false true (rcOk f.fn && f.w) && f.c == 0
  | .dfma f => v3Ok f true true true true (rcOk f.fn && f.w)
  | .cvt f => cvtOk f
  | .shfl f => v3Ok f false true false true (decide (f.fn.toNat ≤ 3)) && f.c == 0
  | .vote f => v3Ok f false false false (f.fn == 2) (decide (f.fn.toNat ≤ 3)) && f.b == 0 && f.c == 0
  | .redux f =>
    v3Ok f true false false (decide (f.fn.toNat ≤ 7)) (decide (f.fn.toNat ≤ 10)) && collBOk f (f.fn == 8) && f.c == 0
  | .scan f =>
    v3Ok f true false false (field f.fn.toNat 2 0 != 7) true && collBOk f (field f.fn.toNat 2 0 == 7) && f.c == 0
  | .plop f =>
    v3Ok f false false false false (decide (f.fn.toNat ≤ 9)) && f.c == 0 &&
    (decide (f.fn.toNat ≤ 3) || f.b == 0) && (!(f.fn == 6 || f.fn == 7) || f.a == 0)
  | .lane f => v3Ok f false false false false (decide (f.fn.toNat ≤ 3)) && f.b == 0 && f.c == 0
  | .iaddi f => f.res == 0 && decide (f.fn.toNat ≤ 3)
  | .andi f | .ori f | .xori f => f.res == 0 && f.fn == 0
  | .movi f => f.res == 0 && f.fn == 0 && f.a == 0
  | .shi f =>
    f.res == 0 && field f.fn.toNat 3 2 != 3 && field f.fn.toNat 1 0 == 0 && field f.imm.toNat 31 10 == 0 &&
    field f.imm.toNat 7 6 == 0 && decide (field f.imm.toNat 5 0 < 32 / 2 ^ field f.fn.toNat 3 2)
  | .icmpi f => f.res == 0 && decide (field f.fn.toNat 2 0 ≤ 5)
  | .pblk f =>
    f.resHi == 0 && f.resMid == 0 && f.resLo == 0 && decide (f.fn.toNat ≤ 7) && f.pat.toNat / 2 ^ (f.fn.toNat + 1) == 0
  | .ld f => ordM f 1 4 false && decide (f.fn.toNat ≤ 6)
  | .st f => ordM f 2 4 false && (decide (f.fn.toNat ≤ 3) || f.fn == 6)
  | .ldb f => ordM f 1 4 true && decide (field f.fn.toNat 2 0 ≤ 3)
  | .stb f => ordM f 2 4 true && decide (field f.fn.toNat 2 0 ≤ 3)
  | .ldt f | .ldx f => ordM f 1 2 false && decide (f.fn.toNat ≤ 6)
  | .stt f | .stx f => ordM f 2 2 false && (decide (f.fn.toNat ≤ 3) || f.fn == 6)
  | .atom f => atomM f (if f.fn.toNat < 13 then 4 else 2)
  | .cas f => atomM f (if f.fn == 2 then 2 else 4) && decide (f.fn.toNat ≤ 2)
  | .cas128 f => atomM f 4 && f.fn == 0
  | .fence f => f.ord != 0 && decide (f.scope.toNat ≤ 4) && f.fn == 0 && f.d == 0 && f.a == 0 && f.b == 0 && f.off == 0
  | .ftag f =>
    plainM f && f.brec == 0 && f.d == 0 && field f.off.toNat 11 3 == 0 && field f.off.toNat 2 0 != 0 && decide (f.fn.toNat ≤ 3) &&
    (f.fn != 0 || f.a == 0) && (f.fn == 1 || f.fn == 2 || f.b == 0)
  | .pref f => plainM f && f.brec == 0 && f.d == 0 && decide (f.fn.toNat ≤ 1)
  | .invl1 f => plainM f && f.brec == 0 && f.d == 0 && f.off == 0 && decide (f.fn.toNat ≤ 1) && (f.fn == 0 || (f.a == 0 && f.b == 0))
  | .setfe f => plainM f && f.brec == 0 && f.d == 0 && decide (f.fn.toNat ≤ 3)
  | .rrot f => ordM f 2 2 false && decide (1 ≤ f.fn.toNat) && decide (f.fn.toNat ≤ 3)
  | .macc f => afOk f false true true false (decide (f.fn.toNat ≤ 1)) && f.a == 0
  | .mloop f => afOk f false false false false (f.fn == 0)
  | .mdrain f => afOk f false false false false (decide (field f.fn.toNat 2 0 ≤ 4))
  | .mscale f => afOk f false true true false (decide (f.fn.toNat ≤ 3)) && f.a == 0
  | .mstat f => afOk f true true false false (decide (f.fn.toNat ≤ 1)) && f.a == 0
  | .wview f => afOk f false false false true (f.fn == 0) && decide (f.imm.toNat ≤ 1)
  | .wpool f => afOk f false false false false (decide (f.fn.toNat ≤ 2))
  | .fcopy f | .fgather f => afOk f false false true false (decide (field f.fn.toNat 2 0 ≤ 3))
  | .fscatter f =>
    afOk f false false true true (decide (field f.fn.toNat 2 0 ≤ 3)) && field f.imm.toNat 7 3 == 0 && field f.imm.toNat 2 1 != 3 &&
    (f.imm.getLsbD 0 || field f.imm.toNat 2 1 == 0)
  | .ffill f => afOk f false true true false (decide (field f.fn.toNat 2 0 ≤ 3))
  | .fqueue f => afOk f true false false true (decide (f.fn.toNat ≤ 1))
  | .emit f => afOk f true false false false (decide (f.fn.toNat ≤ 1))
  | .tileget f => afOk f true false false false (decide (f.fn.toNat ≤ 1))
  | .tiledone f => afOk f false false false false (f.fn == 0)
  | .vis f => afOk f true false false false (f.fn == 0)
  | .blend f => afOk f false true true false (decide (f.fn.toNat ≤ 2))
  | .trace f => afOk f true true false false (decide (f.fn.toNat ≤ 3))
  | .lathe f => afOk f false true false false (decide (f.fn.toNat < 12)) && (field f.fn.toNat 1 0 == 3 || f.b == 0)
  | .batch f => afOk f true false false false (f.fn == 0) && f.a == 0
  | .nop f | .exit f => cfOk f false false false false (f.fn == 0)
  | .bru f => cfOk f false true false true (decide (f.fn.toNat ≤ 1))
  | .brd f => cfOk f false true true true (decide (f.fn.toNat ≤ 1))
  | .join f => cfOk f false false true false (f.fn == 0)
  | .jmp f => cfOk f false false false true (f.fn == 0)
  | .jmpi f => cfOk f false true false false (f.fn == 0)
  | .jmpiDiv f => cfOk f false true true false (f.fn == 1)
  | .call f => cfOk f true false false true (f.fn == 0)
  | .callInd f => cfOk f true true false false (f.fn == 1)
  | .ret f => cfOk f false true false false (f.fn == 0)
  | .waitc f => cfOk f false false false true (f.fn == 0) && field f.off.toNat 7 6 == 0 && field f.off.toNat 5 0 != 0
  | .waitb f => cfOk f false true false false (f.fn == 0)
  | .waitbKeep f => cfOk f false false false true (f.fn == 1) && field f.off.toNat 23 4 == 0
  | .barSync f => cfOk f false true false true (f.fn == 0) && decide (1 ≤ f.off.toNat) && decide (f.off.toNat ≤ 4)
  | .barArrive f => cfOk f true true false true (f.fn == 1) && decide (1 ≤ f.off.toNat) && decide (f.off.toNat ≤ 4)
  | .loop f => cfOk f true true true true (f.fn == 0) && loopOk f false
  | .loopUntil f => cfOk f true false true true (f.fn == 1) && loopOk f true
  | .strm f => cfOk f false true false false (decide (f.fn.toNat ≤ 3)) && f.a != 440#9
  | .strmOff f => cfOk f false false false false (decide (4 ≤ f.fn.toNat) && decide (f.fn.toNat ≤ 7))
  | .reorder f => cfOk f true true false true (f.fn == 0) && field f.off.toNat 23 9 == 0 && decide (1 ≤ f.off.toNat) && decide (f.off.toNat ≤ 384)
  | .migrate f => cfOk f false true false false (f.fn == 0)
  | .migrateHome f => cfOk f false false false false (f.fn == 1)
  | .quota f =>
    cfOk f false true false true (decide (f.fn.toNat ≤ 1)) &&
    (if f.fn == 0 then f.a == 0 && decide (1 ≤ f.off.toNat) && decide (f.off.toNat ≤ 384) else f.off == 0)
  | .yield f => cfOk f false false false true (f.fn == 0)
  | .trapi f | .bkpt f => cfOk f false false false true (f.fn == 0)
  | .lease f => cfOk f true false false true (f.fn == 0) && f.off != 0
  | .leaseEnd f => cfOk f true false false false (f.fn == 1)
  | .waitmem f => cfOk f true true false true (decide (f.fn.toNat ≤ 7)) && decide (1 ≤ f.off.toNat) && decide (f.off.toNat ≤ 4)
  | .csrr f => cfOk f true false false true (decide (f.fn.toNat ≤ 1)) && csrImmOk f
  | .csrw f => cfOk f false true false true (decide (f.fn.toNat ≤ 1)) && csrImmOk f
  | .dbghalt f | .dbgres f | .dbgstep f | .dbgrd f | .dbgwr f | .kill f | .watch f => cfOk f true true false false (f.fn == 0)
  | .tlbinv f => cfOk f true true false true (f.fn == 0) && tlbImmOk f
  | .tlbinvHold f => cfOk f true true false true (f.fn == 1) && tlbImmOk f
  | .tlbinvFree f => cfOk f true true false true (f.fn == 2) && tlbImmOk f
  | .mbox f => cfOk f true true false false (f.fn == 0)
  | _ => true

/-- The checks of R55 step 3 that the word alone decides. -/
def encodingOk (i : Instr) : Bool := formatOk i && (opds i).all Opd.ok

end Sys2Proof.Machine
end

