-- ==== Sys2Proof/WellFormed.lean ====
section
/-!
DEFINITION. Which instructions are well formed: those whose word passes the encoding checks of R55 step 3 that the
word alone decides (reserved and unused fields, FN values, kinds, alignment and extent of register operands, permutes).
What depends on the raft (its register count, the uniform mark, PBLK coverage) is checked when the instruction issues.
Every event is well formed.
-/

namespace Sys2Proof

/-- An instruction that some word decodes to, or an event. -/
def WellFormed (i : Instr) : Bool := Machine.encodingOk i

end Sys2Proof
end

