-- ==== Sys2Proof/Decode.lean ====
section
/-!
DEFINITION. The decoder from 64-bit words to instructions, total and rejecting by name (R55, R58 to R66), and the
encoder of the same layouts.
-/

namespace Sys2Proof

/-- Why a word is no instruction. All of them raise ILLOP (R55); the first comes before PRIV, the others after it. -/
inductive DecodeError where
  /-- R65 does not assign the OP (R55 step 1). -/
  | unassignedOp
  /-- The OP's entries do not assign the FN (R55 step 3). -/
  | unassignedFn
  /-- A field breaks the format, an operand breaks R57 or a permute breaks R59 (R55 step 3). -/
  | badFields
  deriving DecidableEq, Repr

/-- The OP of a word (R55). -/
def opOf (w : DWord) : BitVec 8 := w.extractLsb' 0 8

/-- Format V3 (R58). -/
def V3.ofWord (w : DWord) : V3 where
  w := w.getLsbD 63
  k := w.extractLsb' 57 6
  xc := w.extractLsb' 54 3
  xb := w.extractLsb' 51 3
  xa := w.extractLsb' 48 3
  c := w.extractLsb' 39 9
  b := w.extractLsb' 30 9
  a := w.extractLsb' 21 9
  d := w.extractLsb' 12 9
  fn := w.extractLsb' 8 4
def V3.toWord (op : BitVec 8) (f : V3) : DWord :=
  BitVec.ofBool f.w ++ f.k ++ f.xc ++ f.xb ++ f.xa ++ f.c ++ f.b ++ f.a ++ f.d ++ f.fn ++ op

/-- Format VI (R60). -/
def VI.ofWord (w : DWord) : VI where
  imm := w.extractLsb' 32 32
  res := w.extractLsb' 30 2
  a := w.extractLsb' 21 9
  d := w.extractLsb' 12 9
  fn := w.extractLsb' 8 4
def VI.toWord (op : BitVec 8) (f : VI) : DWord := f.imm ++ f.res ++ f.a ++ f.d ++ f.fn ++ op

/-- Format M (R61). -/
def MF.ofWord (w : DWord) : MF where
  off := w.extractLsb' 52 12
  ord := w.extractLsb' 50 2
  scope := w.extractLsb' 47 3
  brec := w.extractLsb' 39 8
  b := w.extractLsb' 30 9
  a := w.extractLsb' 21 9
  d := w.extractLsb' 12 9
  fn := w.extractLsb' 8 4
def MF.toWord (op : BitVec 8) (f : MF) : DWord :=
  f.off ++ f.ord ++ f.scope ++ f.brec ++ f.b ++ f.a ++ f.d ++ f.fn ++ op

/-- Format A (R62). -/
def AF.ofWord (w : DWord) : AF where
  res := w.extractLsb' 56 8
  imm := w.extractLsb' 48 8
  c := w.extractLsb' 39 9
  b := w.extractLsb' 30 9
  a := w.extractLsb' 21 9
  d := w.extractLsb' 12 9
  fn := w.extractLsb' 8 4
def AF.toWord (op : BitVec 8) (f : AF) : DWord := f.res ++ f.imm ++ f.c ++ f.b ++ f.a ++ f.d ++ f.fn ++ op

/-- Format C (R63). -/
def CF.ofWord (w : DWord) : CF where
  off := w.extractLsb' 40 24
  res := w.extractLsb' 38 2
  jid := w.extractLsb' 30 8
  a := w.extractLsb' 21 9
  d := w.extractLsb' 12 9
  fn := w.extractLsb' 8 4
def CF.toWord (op : BitVec 8) (f : CF) : DWord := f.off ++ f.res ++ f.jid ++ f.a ++ f.d ++ f.fn ++ op

/-- PBLK's layout (R64). -/
def PB.ofWord (w : DWord) : PB where
  resHi := w.extractLsb' 40 24
  pat := w.extractLsb' 32 8
  resMid := w.extractLsb' 30 2
  a := w.extractLsb' 21 9
  resLo := w.extractLsb' 12 9
  fn := w.extractLsb' 8 4
def PB.toWord (op : BitVec 8) (f : PB) : DWord := f.resHi ++ f.pat ++ f.resMid ++ f.a ++ f.resLo ++ f.fn ++ op

/-- The instruction that OP and FN select, its fields not yet checked (R65). -/
def decodeFields (w : DWord) : Except DecodeError Instr :=
  match (opOf w).toNat with
  | 0x01 => .ok (.iadd (V3.ofWord w))
  | 0x02 => .ok (.isub (V3.ofWord w))
  | 0x03 => .ok (.imul (V3.ofWord w))
  | 0x04 => .ok (.imad (V3.ofWord w))
  | 0x05 => .ok (.imin (V3.ofWord w))
  | 0x06 => .ok (.imax (V3.ofWord w))
  | 0x07 => .ok (.iabs (V3.ofWord w))
  | 0x08 => .ok (.and (V3.ofWord w))
  | 0x09 => .ok (.or (V3.ofWord w))
  | 0x0A => .ok (.xor (V3.ofWord w))
  | 0x0B => .ok (.andn (V3.ofWord w))
  | 0x0C => .ok (.shl (V3.ofWord w))
  | 0x0D => .ok (.shr (V3.ofWord w))
  | 0x0E => .ok (.sar (V3.ofWord w))
  | 0x0F => .ok (.rotl (V3.ofWord w))
  | 0x10 => .ok (.popc (V3.ofWord w))
  | 0x11 => .ok (.clz (V3.ofWord w))
  | 0x12 => .ok (.brev (V3.ofWord w))
  | 0x13 => .ok (.bfe (V3.ofWord w))
  | 0x14 => .ok (.bfi (V3.ofWord w))
  | 0x15 => .ok (.icmp (V3.ofWord w))
  | 0x16 => .ok (.sel (V3.ofWord w))
  | 0x17 => .ok (.mov (V3.ofWord w))
  | 0x18 => .ok (.iaddi (VI.ofWord w))
  | 0x19 => .ok (.andi (VI.ofWord w))
  | 0x1A => .ok (.ori (VI.ofWord w))
  | 0x1B => .ok (.xori (VI.ofWord w))
  | 0x1C => .ok (.shi (VI.ofWord w))
  | 0x1D => .ok (.movi (VI.ofWord w))
  | 0x1E => .ok (.icmpi (VI.ofWord w))
  | 0x1F => .ok (.dot4 (V3.ofWord w))
  | 0x40 => .ok (.fadd (V3.ofWord w))
  | 0x41 => .ok (.fsub (V3.ofWord w))
  | 0x42 => .ok (.fmul (V3.ofWord w))
  | 0x43 => .ok (.ffma (V3.ofWord w))
  | 0x44 => .ok (.fmin (V3.ofWord w))
  | 0x45 => .ok (.fmax (V3.ofWord w))
  | 0x46 => .ok (.fcmp (V3.ofWord w))
  | 0x47 => .ok (.fclass (V3.ofWord w))
  | 0x48 => .ok (.frcp (V3.ofWord w))
  | 0x49 => .ok (.frsq (V3.ofWord w))
  | 0x4A => .ok (.fsqrt (V3.ofWord w))
  | 0x4B => .ok (.fexp2 (V3.ofWord w))
  | 0x4C => .ok (.flog2 (V3.ofWord w))
  | 0x4D => .ok (.fsin (V3.ofWord w))
  | 0x4E => .ok (.fcos (V3.ofWord w))
  | 0x4F => .ok (.fdiv (V3.ofWord w))
  | 0x50 => .ok (.hadd2 (V3.ofWord w))
  | 0x51 => .ok (.hmul2 (V3.ofWord w))
  | 0x52 => .ok (.hfma2 (V3.ofWord w))
  | 0x53 => .ok (.hmin2 (V3.ofWord w))
  | 0x54 => .ok (.hmax2 (V3.ofWord w))
  | 0x55 => .ok (.dadd (V3.ofWord w))
  | 0x56 => .ok (.dmul (V3.ofWord w))
  | 0x57 => .ok (.dfma (V3.ofWord w))
  | 0x58 => .ok (.fdot2h (V3.ofWord w))
  | 0x70 => .ok (.cvt (V3.ofWord w))
  | 0x71 => .ok (.shfl (V3.ofWord w))
  | 0x72 => .ok (.vote (V3.ofWord w))
  | 0x73 => .ok (.redux (V3.ofWord w))
  | 0x74 => .ok (.scan (V3.ofWord w))
  | 0x75 => .ok (.plop (V3.ofWord w))
  | 0x76 => .ok (.lane (V3.ofWord w))
  | 0x77 => .ok (.pblk (PB.ofWord w))
  | 0x80 => .ok (.ld (MF.ofWord w))
  | 0x81 => .ok (.st (MF.ofWord w))
  | 0x82 => .ok (.ldb (MF.ofWord w))
  | 0x83 => .ok (.stb (MF.ofWord w))
  | 0x84 => .ok (.ldt (MF.ofWord w))
  | 0x85 => .ok (.stt (MF.ofWord w))
  | 0x86 => .ok (.ldx (MF.ofWord w))
  | 0x87 => .ok (.stx (MF.ofWord w))
  | 0x88 => .ok (.atom (MF.ofWord w))
  | 0x89 => .ok (.cas (MF.ofWord w))
  | 0x8A => .ok (.cas128 (MF.ofWord w))
  | 0x8B => .ok (.fence (MF.ofWord w))
  | 0x8C => .ok (.ftag (MF.ofWord w))
  | 0x8D => .ok (.pref (MF.ofWord w))
  | 0x8E => .ok (.invl1 (MF.ofWord w))
  | 0x8F => .ok (.setfe (MF.ofWord w))
  | 0x90 => .ok (.rrot (MF.ofWord w))
  | 0xA0 => .ok (.macc (AF.ofWord w))
  | 0xA1 => .ok (.mloop (AF.ofWord w))
  | 0xA2 => .ok (.mdrain (AF.ofWord w))
  | 0xA3 => .ok (.mscale (AF.ofWord w))
  | 0xA4 => .ok (.mstat (AF.ofWord w))
  | 0xA5 => .ok (.wview (AF.ofWord w))
  | 0xA6 => .ok (.wpool (AF.ofWord w))
  | 0xA8 => .ok (.fcopy (AF.ofWord w))
  | 0xA9 => .ok (.fgather (AF.ofWord w))
  | 0xAA => .ok (.fscatter (AF.ofWord w))
  | 0xAB => .ok (.ffill (AF.ofWord w))
  | 0xAC => .ok (.fqueue (AF.ofWord w))
  | 0xB0 => .ok (.emit (AF.ofWord w))
  | 0xB1 => .ok (.tileget (AF.ofWord w))
  | 0xB2 => .ok (.tiledone (AF.ofWord w))
  | 0xB3 => .ok (.vis (AF.ofWord w))
  | 0xB4 => .ok (.blend (AF.ofWord w))
  | 0xB5 => .ok (.trace (AF.ofWord w))
  | 0xB8 => .ok (.lathe (AF.ofWord w))
  | 0xB9 => .ok (.batch (AF.ofWord w))
  | 0xC0 => .ok (.nop (CF.ofWord w))
  | 0xC1 => .ok (.bru (CF.ofWord w))
  | 0xC2 => .ok (.brd (CF.ofWord w))
  | 0xC3 => .ok (.join (CF.ofWord w))
  | 0xC4 => .ok (.jmp (CF.ofWord w))
  | 0xC5 => let f := CF.ofWord w; if f.fn = 0 then .ok (.jmpi f) else if f.fn = 1 then .ok (.jmpiDiv f) else .error .unassignedFn
  | 0xC6 => let f := CF.ofWord w; if f.fn = 0 then .ok (.call f) else if f.fn = 1 then .ok (.callInd f) else .error .unassignedFn
  | 0xC7 => .ok (.ret (CF.ofWord w))
  | 0xC8 => .ok (.exit (CF.ofWord w))
  | 0xC9 => .ok (.waitc (CF.ofWord w))
  | 0xCA => let f := CF.ofWord w; if f.fn = 0 then .ok (.waitb f) else if f.fn = 1 then .ok (.waitbKeep f) else .error .unassignedFn
  | 0xCB => let f := CF.ofWord w; if f.fn = 0 then .ok (.barSync f) else if f.fn = 1 then .ok (.barArrive f) else .error .unassignedFn
  | 0xCC => let f := CF.ofWord w; if f.fn = 0 then .ok (.loop f) else if f.fn = 1 then .ok (.loopUntil f) else .error .unassignedFn
  | 0xCD => let f := CF.ofWord w; if f.fn.toNat ≤ 3 then .ok (.strm f) else if f.fn.toNat ≤ 7 then .ok (.strmOff f) else .error .unassignedFn
  | 0xCE => .ok (.reorder (CF.ofWord w))
  | 0xCF => let f := CF.ofWord w; if f.fn = 0 then .ok (.migrate f) else if f.fn = 1 then .ok (.migrateHome f) else .error .unassignedFn
  | 0xD0 => .ok (.quota (CF.ofWord w))
  | 0xD1 => .ok (.yield (CF.ofWord w))
  | 0xD2 => .ok (.trapi (CF.ofWord w))
  | 0xD3 => .ok (.bkpt (CF.ofWord w))
  | 0xD4 => let f := CF.ofWord w; if f.fn = 0 then .ok (.lease f) else if f.fn = 1 then .ok (.leaseEnd f) else .error .unassignedFn
  | 0xD5 => .ok (.waitmem (CF.ofWord w))
  | 0xE0 => .ok (.csrr (CF.ofWord w))
  | 0xE1 => .ok (.csrw (CF.ofWord w))
  | 0xE2 => .ok (.dbghalt (CF.ofWord w))
  | 0xE3 => .ok (.dbgres (CF.ofWord w))
  | 0xE4 => .ok (.dbgstep (CF.ofWord w))
  | 0xE5 => .ok (.dbgrd (CF.ofWord w))
  | 0xE6 => .ok (.dbgwr (CF.ofWord w))
  | 0xE7 => .ok (.watch (CF.ofWord w))
  | 0xE8 => let f := CF.ofWord w; if f.fn = 0 then .ok (.tlbinv f) else if f.fn = 1 then .ok (.tlbinvHold f) else if f.fn = 2 then .ok (.tlbinvFree f) else .error .unassignedFn
  | 0xE9 => .ok (.kill (CF.ofWord w))
  | 0xEA => .ok (.mbox (CF.ofWord w))
  | _ => .error .unassignedOp

/-- The decoder. -/
def decode (w : DWord) : Except DecodeError Instr :=
  match decodeFields w with
  | .error e => .error e
  | .ok i => if WellFormed i then .ok i else .error .badFields

/-- The encoder; an event has no word. -/
def encode : Instr → Option DWord
  | .iadd f => some (V3.toWord 0x01 f)
  | .isub f => some (V3.toWord 0x02 f)
  | .imul f => some (V3.toWord 0x03 f)
  | .imad f => some (V3.toWord 0x04 f)
  | .imin f => some (V3.toWord 0x05 f)
  | .imax f => some (V3.toWord 0x06 f)
  | .iabs f => some (V3.toWord 0x07 f)
  | .and f => some (V3.toWord 0x08 f)
  | .or f => some (V3.toWord 0x09 f)
  | .xor f => some (V3.toWord 0x0A f)
  | .andn f => some (V3.toWord 0x0B f)
  | .shl f => some (V3.toWord 0x0C f)
  | .shr f => some (V3.toWord 0x0D f)
  | .sar f => some (V3.toWord 0x0E f)
  | .rotl f => some (V3.toWord 0x0F f)
  | .popc f => some (V3.toWord 0x10 f)
  | .clz f => some (V3.toWord 0x11 f)
  | .brev f => some (V3.toWord 0x12 f)
  | .bfe f => some (V3.toWord 0x13 f)
  | .bfi f => some (V3.toWord 0x14 f)
  | .icmp f => some (V3.toWord 0x15 f)
  | .sel f => some (V3.toWord 0x16 f)
  | .mov f => some (V3.toWord 0x17 f)
  | .iaddi f => some (VI.toWord 0x18 f)
  | .andi f => some (VI.toWord 0x19 f)
  | .ori f => some (VI.toWord 0x1A f)
  | .xori f => some (VI.toWord 0x1B f)
  | .shi f => some (VI.toWord 0x1C f)
  | .movi f => some (VI.toWord 0x1D f)
  | .icmpi f => some (VI.toWord 0x1E f)
  | .dot4 f => some (V3.toWord 0x1F f)
  | .fadd f => some (V3.toWord 0x40 f)
  | .fsub f => some (V3.toWord 0x41 f)
  | .fmul f => some (V3.toWord 0x42 f)
  | .ffma f => some (V3.toWord 0x43 f)
  | .fmin f => some (V3.toWord 0x44 f)
  | .fmax f => some (V3.toWord 0x45 f)
  | .fcmp f => some (V3.toWord 0x46 f)
  | .fclass f => some (V3.toWord 0x47 f)
  | .frcp f => some (V3.toWord 0x48 f)
  | .frsq f => some (V3.toWord 0x49 f)
  | .fexp2 f => some (V3.toWord 0x4B f)
  | .flog2 f => some (V3.toWord 0x4C f)
  | .fsin f => some (V3.toWord 0x4D f)
  | .fcos f => some (V3.toWord 0x4E f)
  | .fsqrt f => some (V3.toWord 0x4A f)
  | .fdiv f => some (V3.toWord 0x4F f)
  | .hadd2 f => some (V3.toWord 0x50 f)
  | .hmul2 f => some (V3.toWord 0x51 f)
  | .hfma2 f => some (V3.toWord 0x52 f)
  | .hmin2 f => some (V3.toWord 0x53 f)
  | .hmax2 f => some (V3.toWord 0x54 f)
  | .dadd f => some (V3.toWord 0x55 f)
  | .dmul f => some (V3.toWord 0x56 f)
  | .dfma f => some (V3.toWord 0x57 f)
  | .fdot2h f => some (V3.toWord 0x58 f)
  | .cvt f => some (V3.toWord 0x70 f)
  | .shfl f => some (V3.toWord 0x71 f)
  | .vote f => some (V3.toWord 0x72 f)
  | .redux f => some (V3.toWord 0x73 f)
  | .scan f => some (V3.toWord 0x74 f)
  | .plop f => some (V3.toWord 0x75 f)
  | .lane f => some (V3.toWord 0x76 f)
  | .pblk f => some (PB.toWord 0x77 f)
  | .ld f => some (MF.toWord 0x80 f)
  | .st f => some (MF.toWord 0x81 f)
  | .ldb f => some (MF.toWord 0x82 f)
  | .stb f => some (MF.toWord 0x83 f)
  | .ldt f => some (MF.toWord 0x84 f)
  | .stt f => some (MF.toWord 0x85 f)
  | .ldx f => some (MF.toWord 0x86 f)
  | .stx f => some (MF.toWord 0x87 f)
  | .atom f => some (MF.toWord 0x88 f)
  | .cas f => some (MF.toWord 0x89 f)
  | .cas128 f => some (MF.toWord 0x8A f)
  | .fence f => some (MF.toWord 0x8B f)
  | .ftag f => some (MF.toWord 0x8C f)
  | .pref f => some (MF.toWord 0x8D f)
  | .invl1 f => some (MF.toWord 0x8E f)
  | .setfe f => some (MF.toWord 0x8F f)
  | .rrot f => some (MF.toWord 0x90 f)
  | .macc f => some (AF.toWord 0xA0 f)
  | .mloop f => some (AF.toWord 0xA1 f)
  | .mdrain f => some (AF.toWord 0xA2 f)
  | .mscale f => some (AF.toWord 0xA3 f)
  | .mstat f => some (AF.toWord 0xA4 f)
  | .wview f => some (AF.toWord 0xA5 f)
  | .wpool f => some (AF.toWord 0xA6 f)
  | .fcopy f => some (AF.toWord 0xA8 f)
  | .fgather f => some (AF.toWord 0xA9 f)
  | .fscatter f => some (AF.toWord 0xAA f)
  | .ffill f => some (AF.toWord 0xAB f)
  | .fqueue f => some (AF.toWord 0xAC f)
  | .emit f => some (AF.toWord 0xB0 f)
  | .tileget f => some (AF.toWord 0xB1 f)
  | .tiledone f => some (AF.toWord 0xB2 f)
  | .vis f => some (AF.toWord 0xB3 f)
  | .blend f => some (AF.toWord 0xB4 f)
  | .trace f => some (AF.toWord 0xB5 f)
  | .lathe f => some (AF.toWord 0xB8 f)
  | .batch f => some (AF.toWord 0xB9 f)
  | .nop f => some (CF.toWord 0xC0 f)
  | .bru f => some (CF.toWord 0xC1 f)
  | .brd f => some (CF.toWord 0xC2 f)
  | .join f => some (CF.toWord 0xC3 f)
  | .jmp f => some (CF.toWord 0xC4 f)
  | .jmpi f => some (CF.toWord 0xC5 f)
  | .jmpiDiv f => some (CF.toWord 0xC5 f)
  | .call f => some (CF.toWord 0xC6 f)
  | .callInd f => some (CF.toWord 0xC6 f)
  | .ret f => some (CF.toWord 0xC7 f)
  | .exit f => some (CF.toWord 0xC8 f)
  | .waitc f => some (CF.toWord 0xC9 f)
  | .waitb f => some (CF.toWord 0xCA f)
  | .waitbKeep f => some (CF.toWord 0xCA f)
  | .barSync f => some (CF.toWord 0xCB f)
  | .barArrive f => some (CF.toWord 0xCB f)
  | .loop f => some (CF.toWord 0xCC f)
  | .loopUntil f => some (CF.toWord 0xCC f)
  | .strm f => some (CF.toWord 0xCD f)
  | .strmOff f => some (CF.toWord 0xCD f)
  | .reorder f => some (CF.toWord 0xCE f)
  | .migrate f => some (CF.toWord 0xCF f)
  | .migrateHome f => some (CF.toWord 0xCF f)
  | .quota f => some (CF.toWord 0xD0 f)
  | .yield f => some (CF.toWord 0xD1 f)
  | .trapi f => some (CF.toWord 0xD2 f)
  | .bkpt f => some (CF.toWord 0xD3 f)
  | .lease f => some (CF.toWord 0xD4 f)
  | .leaseEnd f => some (CF.toWord 0xD4 f)
  | .waitmem f => some (CF.toWord 0xD5 f)
  | .csrr f => some (CF.toWord 0xE0 f)
  | .csrw f => some (CF.toWord 0xE1 f)
  | .dbghalt f => some (CF.toWord 0xE2 f)
  | .dbgres f => some (CF.toWord 0xE3 f)
  | .dbgstep f => some (CF.toWord 0xE4 f)
  | .dbgrd f => some (CF.toWord 0xE5 f)
  | .dbgwr f => some (CF.toWord 0xE6 f)
  | .watch f => some (CF.toWord 0xE7 f)
  | .tlbinv f => some (CF.toWord 0xE8 f)
  | .tlbinvHold f => some (CF.toWord 0xE8 f)
  | .tlbinvFree f => some (CF.toWord 0xE8 f)
  | .kill f => some (CF.toWord 0xE9 f)
  | .mbox f => some (CF.toWord 0xEA f)
  | _ => none

/-- The instruction the decoder reads from a word given as a number, bit 0 the least significant. Every instruction
of the part is one 64-bit word (R55); a longer table word is none of its instructions. -/
def decodeTableWord (nbits w : Nat) : Option Instr :=
  if nbits ≤ 64 ∧ w < 2 ^ 64 then
    match decode (BitVec.ofNat 64 w) with
    | .ok i => some i
    | .error _ => none
  else none

end Sys2Proof
end

