-- ==== Sys2Proof/Config.lean ====
section
/-!
DEFINITION. The values the spec leaves open: opaque constants without a body, so that no proof can learn a value of
them. The log entry of each is named in its docstring.
-/

namespace Sys2Proof.Config

/-- Slots of the master clock that pass beyond one during the step that starts at a time (DESIGN CHOICE, log entry 2). -/
opaque stepExtra : Nat → Nat
/-- What CYCLE holds beyond the pulses passed since the module's first reset, for each core (R24, R56; DESIGN CHOICE, log entry 2). -/
opaque cycleStart : Nat → Nat
/-- A free choice, drawn by the count of earlier draws (DESIGN CHOICE, log entry 3). -/
opaque freeNat : Nat → Nat
/-- The cycles that a unit of engine work takes where the spec counts none, by operation and place in it (R404; DESIGN CHOICE,
log entry 78). -/
opaque activity : Nat → Nat → Nat
/-- Whether a plain load is served from L1 where the line is there, by the count of draws (R81, R176; DESIGN CHOICE, log entry 3). -/
opaque freeBool : Nat → Bool

/-- The results of R162 apart from the operands for which it names the value (DESIGN CHOICE, log entry 8). -/
opaque rcp : Word → Word
opaque rsq : Word → Word
opaque exp2 : Word → Word
opaque log2 : Word → Word
opaque sin : Word → Word
opaque cos : Word → Word

/-- Coverage, depth and BARY of a sample whose vertices overflow FP32: the nine coordinates and the sample's position
(R316, R317; DESIGN CHOICE, log entry 11). -/
opaque visBeyond : List Int → Option (Word × Word)
/-- The five result words of a ray whose origin or direction has an infinite component (R329; DESIGN CHOICE, log entry 12). -/
opaque traceBeyond : List Word → List Word

/-- CRC-32 of a flit with its CRC field zero; the spec gives no polynomial (R392; DESIGN CHOICE, log entry 14). -/
opaque crc32 : BitVec 2048 → BitVec 32
/-- What a request, and a line's header, hold on a link beside their destination and encoding, by the count of flits sent;
the layouts are internal to the part (R392; DESIGN CHOICE, log entry 79). -/
opaque requestBody : Nat → BitVec 472
opaque lineBody : Nat → BitVec 112

/-- Fuses: the hashes of the keys that images may be signed with, the module's serial number, and the public half of its
identity key (R409, R412; DESIGN CHOICE, log entry 7). -/
opaque keyHashes : List (List Byte)
/-- The module's MAC address, fused at manufacture (R410; DESIGN CHOICE, log entry 7). -/
opaque macAddress : BitVec 48
opaque serial : List Byte
opaque idKey : List Byte
/-- SHA-512 of a message, as 64 bytes (R409; DESIGN CHOICE, log entry 9). -/
opaque sha512 : List Byte → List Byte
/-- Ed25519ph verification: public key, digest, signature (R409; DESIGN CHOICE, log entry 9). -/
opaque edVerify : List Byte → List Byte → List Byte → Bool
/-- System software's command to raise the fused level of an image is signed; the spec gives neither its layout nor its key
(R409; DESIGN CHOICE, log entry 119). -/
opaque commandSigned : Nat → List Byte → Bool
/-- Ed25519 signature of a report by the module's identity key (R412; DESIGN CHOICE, log entry 9). -/
opaque edSign : List Byte → List Byte

end Sys2Proof.Config
end

