-- ==== Sys2Proof/Machine/Sparse.lean ====
section
/-!
DEFINITION. Sparse maps from numbers to words: a list of key and value pairs in one canonical form, keys strictly
rising and no entry equal to 0, which is what an unlisted key reads as. Physical memory, tile memory and every
register file are held so.
-/

namespace Sys2Proof.Machine

/-- A map from keys to n-bit words; an unlisted key reads as 0. -/
abbrev Sparse (n : Nat) := List (Nat × BitVec n)

/-- The value at a key. -/
def sget {n : Nat} : Sparse n → Nat → BitVec n
  | [], _ => 0
  | (k, v) :: m, i => if k = i then v else sget m i

/-- The map without a key. -/
def sdel {n : Nat} (m : Sparse n) (i : Nat) : Sparse n := m.filter (fun e => e.1 != i)

/-- The map with a new entry in its place among the rising keys. -/
def sins {n : Nat} : Sparse n → Nat → BitVec n → Sparse n
  | [], i, x => [(i, x)]
  | (k, v) :: m, i, x => if i < k then (i, x) :: (k, v) :: m else (k, v) :: sins m i x

/-- The map with one value replaced; writing 0 removes the entry. -/
def sset {n : Nat} (m : Sparse n) (i : Nat) (x : BitVec n) : Sparse n :=
  if x = 0 then sdel m i else sins (sdel m i) i x

/-- The canonical form: keys at or above a bound and strictly rising, no value 0. -/
def sparseFrom {n : Nat} : Nat → Sparse n → Bool
  | _, [] => true
  | lo, (k, v) :: m => decide (lo ≤ k) && decide (v ≠ 0) && sparseFrom (k + 1) m

/-- The canonical form of a whole map. -/
def Sparse.wf {n : Nat} (m : Sparse n) : Bool := sparseFrom 0 m

/-- Physical memory, and the tile memory of all cores: bytes by address (Host.Cell). -/
abbrev Memory := Sparse 8
/-- The canonical form of a memory. -/
abbrev Memory.wf (m : Memory) : Bool := Sparse.wf m

/-- The values of a run of keys. -/
def sgets {n : Nat} (m : Sparse n) (lo count : Nat) : List (BitVec n) := (List.range count).map (fun j => sget m (lo + j))

/-- The map with a run of values replaced. -/
def ssets {n : Nat} : Sparse n → Nat → List (BitVec n) → Sparse n
  | m, _, [] => m
  | m, lo, x :: xs => ssets (sset m lo x) (lo + 1) xs

/-- The map without the entries of a run of keys. -/
def sclear {n : Nat} (m : Sparse n) (lo count : Nat) : Sparse n := m.filter (fun e => !(decide (lo ≤ e.1) && decide (e.1 < lo + count)))

end Sys2Proof.Machine
end

