-- ==== Sys2Proof/Machine/State.lean ====
section
/-!
DEFINITION. The state of the whole module: rafts, teams and launches; the requests and engine operations in flight;
tile memory, L1 and L2 lines, TLBs, home table and physical memory; render passes; queues; control registers, clusters,
links and management state. All of it is plain data.
-/

namespace Sys2Proof.Machine

open Sys2Proof

/-- Why a step stops the machine. -/
inductive Fault where
  /-- Never raised by an instruction or event of the table: every fault the spec describes is a trap, an error record
  or a status, each of which is a next state. Safe. -/
  | halted
  deriving DecidableEq, Repr

/-- Why a step has no meaning. -/
inductive Refusal where
  /-- Raised by an arm of `exec` whose instruction has no meaning yet. Safe: nothing can be proved through it. -/
  | notModelled (mnemonic : String)
  deriving DecidableEq, Repr

/-! ### Issue engine -/

/-- A clause as fetched (R48, R49): its header's address, the header word and the slot words. -/
structure Clause where
  pc : DWord
  hdr : DWord
  words : List DWord
  deriving DecidableEq, Repr

/-- What a sub-raft waits for (R106, R107): `none` when it may issue on; a slot that cannot start is tried again. -/
inductive Wait where
  | none
  /-- A slot that cannot start, or a WAITC or WAITB whose condition fails (R54, R106). -/
  | slot
  /-- A LOOP waiting for the spindle (R133). -/
  | spindle
  /-- A slot that waits for a tile-memory line to become full (R90). -/
  | empty
  /-- BAR with FN 0: the barrier and the GEN its arrival returned, once it has returned (R131). -/
  | barrier (va : Nat) (gen : Option Word)
  /-- WAITMEM: the word's address, bytes, condition, the value, scope, and the time of its last read (R132). -/
  | mem (va bytes cond value scope : Nat) (since : Nat)
  /-- YIELD: the cycles of its cluster that it waits, and the time from which they count (R140). -/
  | yield (n since : Nat)
  /-- QUOTA increase: the count asked for and the time of the request (R139). -/
  | quota (n since : Nat)
  /-- Moored at a slot or header (R93, R141): on the raft's replay list, or on the page of an address that the fetch or
  the slot itself needs. -/
  | moored (va : Option Nat)
  /-- MIGRATE on its way (R396): the die, and since when it has waited for a landing slot, its earlier work being made. -/
  | migrate (die : Nat) (ready : Option Nat)
  /-- Moored within a wait of its own: on the page of the word that it reads again, or on the replay list; and that wait,
  which goes on afterwards. -/
  | mooredIn (va : Option Nat) (back : Wait)
  deriving DecidableEq, Repr

/-- A covering PBLK (R64): the predicate as it read it, the pattern, and the first and the last covered slot. -/
structure Cover where
  pred : LaneMask
  pat : BitVec 8
  first : Nat
  last : Nat
  deriving DecidableEq, Repr

/-- An entry of the split table (R107): one sub-raft. `inside` says that slot 0 has issued, or may issue at once. `since` is
when it last became ready, from which its age counts (R105); while it is moored or its raft halted, its age then (R141, R368). -/
structure Entry where
  pc : DWord
  mask : LaneMask
  slot : Nat
  wait : Wait
  since : Nat
  clause : Option Clause
  inside : Bool
  cover : Option Cover
  /-- The first clause after a resumption, on which no breakpoint hits (R378). -/
  fresh : Bool
  /-- The reservations made for the clause's vector slots, each of up to 256 cycles of them (R404). -/
  resv : Nat
  /-- The slot at which it waits could start now (R54, R106). -/
  able : Bool
  deriving DecidableEq, Repr

/-- A join record (R111). -/
structure JoinRec where
  jid : BitVec 8
  expect : LaneMask
  arrived : LaneMask
  cont : Option DWord
  deriving DecidableEq, Repr

/-- An entry of the deferral stack (R112). -/
structure Deferred where
  pc : DWord
  mask : LaneMask
  jid : BitVec 8
  deriving DecidableEq, Repr

/-- A bound stream walk (R135, R137); its current value is what s(60+k) holds. -/
structure Walk where
  base : Word
  c0 : Nat
  c1 : Nat
  c2 : Nat
  d0 : Word
  d1 : Word
  d2 : Word
  dims : Nat
  i0 : Nat
  i1 : Nat
  i2 : Nat
  e0 : Bool
  e1 : Bool
  e2 : Bool
  deriving DecidableEq, Repr

/-- The spindle (R107, R133): the holder's split entry, the captured body, the window, and where the run stands. -/
structure Spindle where
  owner : Nat
  body : List Clause
  winBase : Nat
  winSize : Nat
  winStep : Nat
  /-- Stream and flag of until mode. -/
  until? : Option (Nat × Nat)
  count : Nat
  pass : Nat
  pos : Nat
  deriving DecidableEq, Repr

/-- A bound range tag (R201). -/
inductive TagBind where
  | virt (lo len : Nat)
  | tile (lo len : Nat)
  | record (space member lo len : Nat)
  deriving DecidableEq, Repr

/-- A convolution view (R250, R251): its words as checked. -/
structure View where
  words : List Word
  deriving DecidableEq, Repr

/-- A fault that waits for its trap point (R179). -/
structure Deferral where
  cause : Nat
  pc : DWord
  slot : Nat
  lanes : LaneMask
  addr : Nat
  instr : DWord
  /-- The 32-byte detail of R227, R259 or R334, where the cause carries one; else empty. -/
  detail : List Byte
  deriving DecidableEq, Repr

/-- A raft context (R10, R56, R100, R107). Register r of lane l is key 64r + l of `v`. -/
structure Raft where
  id : Nat
  team : Nat
  index : Nat
  core : Nat
  quad : Nat
  width : Nat
  /-- The core of the landing slot it sits in, under MIGRATE (R396). -/
  landed : Option Nat
  count : Nat
  v : Sparse 32
  s : Sparse 32
  p : Sparse 64
  origin : List Nat
  live : LaneMask
  split : List (Option Entry)
  joins : List JoinRec
  stack : List Deferred
  spindle : Option Spindle
  streams : List (Option Walk)
  batchCount : Word
  srUse : Sparse 32
  drain : Word
  tags : List (Option TagBind)
  views : List (Option View)
  /-- The clause and slot of the EXIT that ended the last lane: the raft waits for its outstanding work (R121). -/
  exitAt : Option (DWord × Nat)
  /-- A stop has reached the raft (R367), with its REASON; 6 for a stow (R362). -/
  stopping : Option Nat
  skid : Nat
  halted : Bool
  haltPc : DWord
  haltInfo : DWord
  /-- Since when the raft is moored, in cycles of its core, and how long it was before its count last stopped (R356, R368). -/
  mooredAt : Option Nat
  mooredSum : Nat
  deriving DecidableEq, Repr

/-! ### Teams and launches -/

/-- The kernel descriptor of a launch, as read (R101). -/
structure Kernel where
  addr : Nat
  entry : DWord
  tmemLines : Nat
  vregs : Nat
  supv : Bool
  ring : Bool
  pair : Bool
  width : Nat
  rafts : Nat
  brecBase : Nat
  brecCount : Nat
  deriving DecidableEq, Repr

/-- A launch (R97, R341, R345). -/
structure Launch where
  id : Nat
  queue : Nat
  seq : Word
  asid : Nat
  gx : Nat
  gy : Nat
  gz : Nat
  lnum : Word
  args : DWord
  srseed : Word
  user : DWord
  prio : Nat
  kernel : Kernel
  nextTeam : Nat
  ended : Nat
  trapped : Nat
  lists : List (Nat × Nat)
  since : Nat
  deriving DecidableEq, Repr

/-- A stowed team: its frame slots, by its cores, and the reason (R358, R359). -/
structure Stow where
  slots : List Nat
  reason : Nat
  deriving DecidableEq, Repr

/-- A single step under way (R381): the stepped sub-raft, and the clause and lanes it started with; `stopped` when a watch
has stopped it (R379). -/
structure Stepping where
  raft : Nat
  ent : Nat
  pc : DWord
  mask : LaneMask
  started : Bool
  stopped : Bool
  deriving DecidableEq, Repr

/-- A debug operation that waits at its slot for its effect (R382): the sub-raft that issued it; what it does, 0 a halt,
1 a step, 2 a kill; its target team, and the raft where it names one; and the status, once the effect is complete. -/
structure DebugOp where
  raft : Nat
  ent : Nat
  kind : Nat
  team : Nat
  target : Option Nat
  status : Option Nat
  deriving DecidableEq, Repr

/-- A dispatched team (R97 to R103). `cores` holds one core, or two for a pair; `bases` the first tile-memory line
of its allocation on each. -/
structure Team where
  id : Nat
  launch : Nat
  linear : Nat
  x : Nat
  y : Nat
  z : Nat
  asid : Nat
  supv : Bool
  lnum : Word
  kernel : Kernel
  cores : List Nat
  bases : List Nat
  /-- The group of a ring set, and this team's place in it (R99). -/
  group : Option Nat
  member : Nat
  breaks : List DWord
  /-- Terminated with this cause once its rafts have stopped (R374). -/
  dying : Option Nat
  /-- Every raft of it has been freed; a ring-set member is kept until its group has ended (R99). -/
  ended : Bool
  stowed : Option Stow
  /-- A stow whose slots were lacking: its reason, the time of the last try, and its core's cycle count then (R357). -/
  stowTry : Option (Nat × Nat × Nat)
  /-- A stow that has stopped the rafts and has not yet written the slots: its reason (R362). -/
  stowing : Option Nat
  /-- A DBGSTEP under way (R381). -/
  stepping : Option Stepping
  deriving DecidableEq, Repr

/-! ### Walks, requests and engine operations in flight -/

/-- What a walk finds. `absent` gives the span without a page, and whether a table entry or descriptor ended it. -/
inductive WalkResult where
  | page (base size : Nat) (pte : DWord) (pteAt : Nat)
  | absent (base size : Nat) (table : Bool)
  | bad
  deriving DecidableEq, Repr
/-- A request to the page-table walkers (R21, R289), and what its walk has read so far. -/
structure PageWalk where
  asid : Nat
  va : DWord
  acc : Acc
  found : Option WalkResult
  deriving DecidableEq, Repr

/-- Where bytes lie: virtual memory of an ASID, or a core's tile memory. -/
inductive Space where
  | virt (asid : Nat)
  | tile (core : Nat)
  deriving DecidableEq, Repr

/-- One lane's bytes within one line: where they lie, how many, and their place in the lane's value. `nibble` marks a
4-bit element: 0 the low half, 1 the high half of its byte. -/
structure Part where
  lane : Nat
  space : Space
  addr : Nat
  len : Nat
  off : Nat
  nibble : Option Nat
  deriving DecidableEq, Repr

/-- A range that an operation reads or writes (R89). -/
structure Range where
  space : Space
  lo : Nat
  len : Nat
  write : Bool
  /-- The core whose range-lock table holds it (R89), 256 + k while stow slot k keeps it (R94); a destination that
  full/empty bits guard stands in none, but is ordered all the same. -/
  table : Option Nat
  deriving DecidableEq, Repr

/-- Where a result goes: n registers from `first`, in the lanes of the mask; `uniform` writes one value to all. -/
structure Dest where
  first : RegNum
  n : Nat
  lanes : LaneMask
  uniform : Bool
  /-- Registers at or above it have been given back, and writes to them are discarded (R139). -/
  cap : Nat
  deriving DecidableEq, Repr

/-- A buffer record as read and checked (R183, R184). -/
structure BRec where
  base : Nat
  space : Nat
  fmt : Nat
  scale : Int
  ext0 : Nat
  ext1 : Nat
  ext2 : Nat
  stride1 : Int
  stride2 : Int
  mxoff : Int
  inter : Nat
  rfmt : Nat
  oob : Nat
  deriving DecidableEq, Repr, Inhabited

/-- What a request does when it is performed. -/
inductive ReqKind where
  /-- Bytes of a load; sign extension (R193). -/
  | load (bytes : Nat) (signed : Bool)
  /-- A converting load: record, rounding code, and the lanes that receive 0 without an access (R187, R188). -/
  | loadRec (rec : BRec) (rc : Nat) (sat : Bool)
  | store
  /-- ATOM by FN; CAS of a width in bytes. -/
  | atom (fn : Nat)
  | cas (bytes : Nat)
  | fence
  /-- SETFE: full or empty (R204). -/
  | setfe (full : Bool)
  | rrot
  /-- BAR's arrival: the transaction bytes, and whether the sub-raft waits (R131). -/
  | arrive (txb : Nat) (ent : Option Nat)
  deriving DecidableEq, Repr

/-- A memory request in flight (R177): one instruction's accesses. `got` and `data` hold bytes by lane and place,
key 64·lane + place. -/
structure Req where
  id : Nat
  raft : Nat
  core : Nat
  kind : ReqKind
  acq : Bool
  rel : Bool
  scope : Nat
  mask : BitVec 8
  lanes : LaneMask
  dest : Option Dest
  parts : List Part
  data : Sparse 8
  got : Sparse 8
  /-- The range tags it is counted under, and the lanes counted under each (R86, R194). -/
  tags : BitVec 8
  tagLanes : List LaneMask
  /-- An acquire's bound virtual ranges, as number, start and length, when it was issued (R85). -/
  binds : List (Nat × Nat × Nat)
  /-- The lines of a load that L1 did not hold when it was issued (R177). -/
  missed : List Nat
  /-- The request whose other lanes it carries: the two count as one access (R93, R124). -/
  twin : Option Nat
  /-- The number it was issued under, by which it stands before operations (R88). -/
  born : Nat
  /-- A store whose bytes the core's L1 already shows, ahead of its home (R81). -/
  early : Bool
  /-- Its pages have been reported resident, permitted and alike (R93). -/
  checked : Bool
  replay : Bool
  fault : Option Deferral
  pc : DWord
  slot : Nat
  instr : DWord
  deriving DecidableEq, Repr

/-- An exact quotient n / d, d > 0. -/
structure Ratio where
  n : Int
  d : Nat
  deriving DecidableEq, Repr
/-- An extended exact number. -/
inductive TVal where
  | ninf
  | fin (r : Ratio)
  | pinf
  deriving DecidableEq, Repr
/-- A hit (R329): t, u, v, the leaf's PRIMID, HIT and address. -/
structure Hit where
  t : Ratio
  u : Ratio
  v : Ratio
  prim : Word
  hit : Nat
  leaf : Nat
  deriving DecidableEq, Repr
/-- A child of a node as read: c, its type, address, and leaf count (R327). -/
structure Child where
  c : Nat
  typ : Nat
  addr : Nat
  leaves : Nat
  deriving DecidableEq, Repr
/-- A lane of a TRACE that is traversing (R329): its stack, the leaves that it tests next, what it has found, and the
bytes that it has read of the node or leaf it is at. -/
structure TraceLane where
  lane : Nat
  stack : List (TVal × Child)
  leaves : List Nat
  tcur : TVal
  best : Option Hit
  got : List Byte
  deriving DecidableEq, Repr
/-- The lanes of a TRACE: those that traverse, the results of those that have ended, and those that have failed, with
cause, side and address (R331). -/
structure TraceRun where
  lanes : List TraceLane
  ended : List (Nat × List Word)
  failed : List (Nat × Nat × Nat × Nat)
  deriving DecidableEq, Repr

/-- An asynchronous operation in flight (R17): the instruction as issued, the registers it read, and its progress.
`vals` holds the v registers it read, key 64·register + lane; `buf` bytes that it has read and not yet written;
`work` a working accumulator (element integers) and `wtag` its tags. -/
structure Op where
  id : Nat
  raft : Option Nat
  team : Option Nat
  core : Nat
  asid : Nat
  instr : Instr
  cls : Nat
  batch : Word
  tags : BitVec 8
  lanes : LaneMask
  desc : List Word
  ext : List Word
  vals : Sparse 32
  recs : List BRec
  /-- For each record or tile-memory operand, the space it lies in and the first byte of the allocation there. -/
  places : List (Space × Nat)
  dest : Option Dest
  ranges : List Range
  /-- Pending fills by core and line (R90), and those of them whose line was full when it was marked. -/
  fills : List (Nat × Nat)
  marked : List (Nat × Nat)
  /-- The v registers it keeps from being written, as raft and register (R235). -/
  locks : List (Nat × Nat)
  phase : Nat
  pos : Nat
  amount : Nat
  since : Nat
  buf : Sparse 8
  work : Sparse 64
  wtag : Sparse 2
  flags : BitVec 4
  anchor : Int
  susp : Option Nat
  replay : Bool
  fault : Option Deferral
  pc : DWord
  slot : Nat
  word : DWord
  /-- Steps, elements or chunks that its current reservation still covers (R404), and since when it has asked for the
  next one (R23). -/
  resv : Nat
  asked : Nat
  /-- A TRACE's lanes. -/
  trace : TraceRun
  deriving DecidableEq, Repr

/-- Some of an operation's reservation used; with the last of it the next is asked for (R23, R404). -/
def Op.spend (o : Op) (n now : Nat) : Op := { o with resv := o.resv - n, asked := if o.resv ≤ n then now else o.asked }
/-- An operation of an instruction with nothing else set. -/
def Op.blank (id : Nat) (i : Instr) : Op :=
  { id := id, raft := none, team := none, core := 0, asid := 0, instr := i, cls := 0, batch := 0, tags := 0, lanes := 0
    desc := [], ext := [], vals := [], recs := [], places := [], dest := none, ranges := [], fills := [], marked := []
    locks := [], phase := 0, pos := 0, amount := 0, since := 0, buf := [], work := [], wtag := [], flags := 0, anchor := 0
    susp := none, replay := false, fault := none, pc := 0, slot := 0, word := 0, resv := 0, asked := 0
    trace := ⟨[], [], []⟩ }

/-! ### Memory side -/

/-- An L1 line (R176). -/
structure L1Line where
  core : Nat
  asid : Nat
  line : Nat
  data : List Byte
  deriving DecidableEq, Repr

/-- An L2 line (R268); the list of lines is kept in least-recently-used order. -/
structure L2Line where
  asid : Nat
  line : Nat
  data : List Byte
  dirty : Bool
  r : Bool
  w : Bool
  x : Bool
  pfm : Bool
  /-- Filled by L2_FILL for an access that has not been performed yet, which is therefore no hit (R274). -/
  asked : Bool
  /-- The positions of its sectors in the set's pool (R268). -/
  sptr : List Nat
  deriving DecidableEq, Repr

/-- A memory-side TLB entry (R289): side 0 to 7 near, 8 far; the page, its PTE as walked and where the PTE lies. -/
structure TlbEntry where
  side : Nat
  asid : Nat
  base : Nat
  size : Nat
  pte : DWord
  pteAt : Nat
  deriving DecidableEq, Repr

/-- A fault-pending mark (R289). -/
structure Mark where
  side : Nat
  asid : Nat
  base : Nat
  size : Nat
  deriving DecidableEq, Repr

/-- A record on its way to the fault ring (R354). -/
structure FaultRec where
  va : Nat
  kind : Nat
  home : Nat
  asid : Nat
  deriving DecidableEq, Repr

/-- A hold (R293, R294). -/
structure HoldRec where
  asid : Nat
  lo : Nat
  len : Nat
  deriving DecidableEq, Repr

/-- Who a watch's notice goes to (R277). -/
inductive Target where
  | wait (raft ent : Nat)
  | fqueue (op : Nat)
  | queueHeader (queue : Nat)
  /-- A peer whose claim on a full queue waits for a write (R400). -/
  | peer (module asid : Nat)
  | semaphore (queue : Nat)
  deriving DecidableEq, Repr

/-- A buffer record that a core has kept for a launch (R183): the launch, core, index and bytes. -/
structure KeptRec where
  launch : Nat
  core : Nat
  index : Nat
  bytes : List Byte
  deriving DecidableEq, Repr

/-- A watch (R277). -/
structure WatchRec where
  asid : Nat
  line : Nat
  /-- The lathe unit that holds it. -/
  unit : Nat
  target : Target
  deriving DecidableEq, Repr

/-- A trap record and a report on their way behind a hold (R294, R370, R376); `indexed` says that the report's ADDR is the
record's index (R377). -/
structure Post where
  asid : Nat
  record : Option (List Byte)
  mail : Option (List Byte)
  indexed : Bool
  deriving DecidableEq, Repr

/-- A notice on its way: a barrier's wake notice to a core (R130), or a fired watch (R277). -/
inductive NoticeKind where
  | wake (core asid va : Nat)
  | fired (target : Target)
  deriving DecidableEq, Repr
structure Notice where
  id : Nat
  kind : NoticeKind
  deriving DecidableEq, Repr

/-- A credit of transaction bytes on its way to a barrier (R130, R222). -/
structure Credit where
  id : Nat
  op : Nat
  asid : Nat
  va : Nat
  bytes : Nat
  deriving DecidableEq, Repr

/-- A home-table entry (R266). -/
structure HomeEntry where
  asid : Nat
  region : Nat
  home : Nat
  deriving DecidableEq, Repr

/-- An exchange of R295: the pages as noted, the buffered pieces, and where it stands. `copied` pieces are in the
buffer, `written` of them have been written out; `again` are those to be written out once more. -/
structure Exchange where
  die : Nat
  nearAsid : Nat
  nearVa : Nat
  nearAt : Nat
  nearPte : DWord
  farAsid : Nat
  farVa : Nat
  farAt : Nat
  farPte : DWord
  size : Nat
  copied : Nat
  written : List Nat
  slotN : Sparse 8
  slotF : Sparse 8
  deriving DecidableEq, Repr

/-- A tile-memory watchpoint (R379, R389). -/
structure WatchPoint where
  enable : Bool
  read : Bool
  write : Bool
  cluster : Bool
  granule : Nat
  deriving DecidableEq, Repr

/-! ### The machine -/

/-- The control registers of R386, one field each. -/
structure Csrs where
  srseed : Word
  moorLimit : Word
  stowDelay : Word
  ttBase : DWord
  stowBase : DWord
  stowSlots : Word
  fqBase : DWord
  fqCtl : Word
  fqHead : DWord
  fqTail : DWord
  trapDrop : BitVec 48
  reportDrop : BitVec 48
  stows : BitVec 48
  restores : BitVec 48
  stowFail : BitVec 48
  deriving DecidableEq, Repr

/-- The control block's registers of R401 that stand outside the clusters and the management port. -/
structure Ctl where
  qtBase : DWord
  qtCmd : DWord
  ageInterval : Word
  ageCap : Word
  readInterval : Word
  asidBase : DWord
  peerId : Word
  peerRetry : Word
  plimit : Word
  errBase : DWord
  errCtl : Word
  errHead : DWord
  errTail : DWord
  ceCount : BitVec 48
  deriving DecidableEq, Repr

/-- A screen tile granted to a team (R308); `pass` is the pass object's address. Once a TILEDONE has been accepted the
team holds it no more, and it is `retiring` (R311). -/
structure Grant where
  id : Nat
  team : Nat
  core : Nat
  asid : Nat
  pass : Nat
  tx : Nat
  ty : Nat
  seg : Nat
  part : Bool
  reload : Bool
  retiring : Bool
  deriving DecidableEq, Repr

/-- A listed primitive (R300, R301): its sequence number, record, and the tile columns and rows of its box. -/
structure Prim where
  seq : Word
  bytes : List Byte
  box : Option (Nat × Nat × Nat × Nat)
  deriving DecidableEq, Repr

/-- An open pass (R297 to R303). `phase` 0: the segment is being filled; 1: closed as a partial one; 2: closed as the
final one. `avail` holds the closed segment's tiles that have not been retired; `given` the tiles granted, by segment;
`by` and `prevBy` the cores that retired tiles of this closed segment and of the one before; `last` each core's last
retired tile. -/
structure Pass where
  id : Nat
  asid : Nat
  addr : Nat
  arena : Nat
  bytes : Nat
  die : Nat
  emitters : Nat
  tilesX : Nat
  tilesY : Nat
  seg : Nat
  seq : Word
  closed : Nat
  used : Nat
  prims : List Prim
  phase : Nat
  avail : List (Nat × Nat)
  given : List (Nat × Nat × Nat)
  by_ : List ((Nat × Nat) × Nat)
  prevBy : List ((Nat × Nat) × Nat)
  last : List (Nat × (Nat × Nat))
  deriving DecidableEq, Repr

/-- A fragment of a core's scoreboard (R320): its grant, pixel, sample and sequence; the BLEND and lane that have
submitted it, and whether it holds an entry of the holding buffer (R323). -/
structure Frag where
  id : Nat
  grant : Nat
  core : Nat
  pixel : Nat
  sample : Nat
  seq : Word
  blend : Option (Nat × Nat)
  held : Bool
  deriving DecidableEq, Repr

/-- A consumed packet (R342): its SEQ and its 64 bytes; `stage` 0 consumed, 1 started, 2 complete with its status; the
launch or the copy's operation it has started; whether its record is kept for a page that is not resident (R353). -/
structure Packet where
  seq : Word
  bytes : List Byte
  stage : Nat
  status : Nat
  detail : Word
  launch : Option Nat
  op : Option Nat
  kept : Bool
  /-- Its record has met a page that bars it, and waits for ERROR to be left (R353). -/
  barred : Bool
  deriving DecidableEq, Repr

/-- An enabled queue, or one that has been disabled while packets of it run (R335, R336, R352): its entry as enabled;
its STATE; the packets consumed and not yet recorded; since when it is READY or mapped, and since when its next packet
is startable; the address whose page holds it in PAGED; a STATE that its header does not show yet. -/
structure Queue where
  index : Nat
  qhdr : Nat
  ring : Nat
  crec : Nat
  asid : Nat
  prio : Nat
  supv : Bool
  pre : Bool
  clog2 : Nat
  log2 : Nat
  state : Nat
  packets : List Packet
  since : Nat
  startable : Nat
  readAt : Nat
  paged : Option Nat
  unshown : Bool
  cause : Nat
  errSeq : Word
  expSeq : Word
  done : Word
  /-- Its quantum has ended, and it leaves its slot once this packet has started (R349). -/
  leaving : Option Word
  deriving DecidableEq, Repr

/-- What has left for a peer module: a write, with its address and bytes, or the half of a byte that it writes (R211, R228,
R400). -/
structure PeerOut where
  module : Nat
  asid : Nat
  va : Nat
  bytes : List Byte
  nibble : Option Nat
  deriving DecidableEq, Repr

/-- A clock-boost lease (R406). -/
structure Lease where
  raft : Nat
  cluster : Nat
  expiry : Nat
  deriving DecidableEq, Repr

/-- A cluster's clock and budget (R401 to R405): CLK_PAT and CLK_EFF, BUD_FLOOR and BUD_TOTAL, HEADROOM; the cycles that
each class has been charged in this period and their weighted total, and the core cycle at which the period ends. -/
structure Cluster where
  pat : BitVec 16
  /-- CLK_PAT as it stood before firmware cleared bits of it (R405). -/
  saved : Option (BitVec 16)
  eff : BitVec 16
  /-- The slot from which CLK_EFF is in force, the pattern in force before it, and the pulses passed up to it (R402). -/
  effFrom : Nat
  before : BitVec 16
  passed : Nat
  floor : DWord
  total : Word
  headroom : BitVec 8
  charged : List Nat
  spent : Nat
  periodEnd : Nat
  deriving DecidableEq, Repr

/-- What a link hands to the die or module at its end (R272, R392): a request as its slot holds it, or a line's bytes. -/
inductive Arrival where
  | request (slot : BitVec 480)
  | line (bytes : List Byte)
  deriving DecidableEq, Repr

/-- One end of a die link, or of the transport to a peer module in one virtual channel (R392 to R394, R398): the flits it
has sent that are not acknowledged, those that wait for room among them (R24), the SEQ of its next one, the SEQ it
expects, its consecutive failed replays, whether it must replay, the flits on their way from it, what has been delivered
by it, and whether it is down. -/
structure Port where
  sent : List Flit
  waiting : List Flit
  next : BitVec 12
  expect : BitVec 12
  fails : Nat
  replay : Bool
  wire : List Flit
  delivered : List Arrival
  down : Bool
  deriving DecidableEq, Repr

/-- What the module has answered to a peer's access (R399, R400): 0 done, 1 refused, 2 a full queue; or sent it:
3 the notice of a write to a queue header on which it had found no slot. -/
structure PeerReply where
  module : Nat
  asid : Nat
  status : Nat
  bytes : List Byte
  deriving DecidableEq, Repr

/-- A response that has left by the management port (R410). -/
structure MgmtOut where
  dest : BitVec 48
  tag : Option (BitVec 16)
  message : List Byte
  deriving DecidableEq, Repr

/-- Boot, identity and management state (R408 to R413): whether the module is in recovery; whether the application cores
have been released; the images of boot flash (primary and backup) and the system-software loader; the fused rollback
levels, and those of the images loaded; the measurements of the first 16 images and the count of all; the staging buffers
with their highest byte written plus one; the last 16 answered requests; the responses sent; the draw of the last window;
and the time of the last reset. -/
structure Mgmt where
  recovery : Bool
  released : Bool
  flash : List (List Byte)
  loader : List Byte
  fusedFw : Word
  fusedLdr : Word
  loadedFw : Word
  loadedLdr : Word
  measured : List (List Byte)
  loadedCount : Nat
  staging : List (Sparse 8)
  staged : List Nat
  kept : List (BitVec 48 × Word × MgmtOut)
  out : List MgmtOut
  draw : Nat
  resetAt : Nat
  /-- The RECOV_COMMIT that runs (R413). -/
  commit : Option MgmtFrame
  /-- The ENTRY of each image started since reset, the firmware's and the loader's (R408, R409). -/
  started : List DWord
  deriving DecidableEq, Repr

/-- A record on its way to the error ring (R414). -/
structure ErrRec where
  pa : Nat
  asid : Nat
  code : Nat
  die : Nat
  deriving DecidableEq, Repr

/-- The machine. -/
structure State where
  clock : Nat
  freeCtr : Nat
  nextId : Nat
  /-- The moves that come next: events, and instruction forms, each standing for a turn of what the machine issues (DESIGN CHOICE, log entry 1). -/
  agenda : List Instr
  /-- The clauses being issued, as raft and split entry; the first issues next. -/
  running : List (Nat × Nat)
  rafts : List Raft
  teams : List Team
  debugs : List DebugOp
  launches : List Launch
  reqs : List Req
  ops : List Op
  kept : List KeptRec
  tile : Memory
  /-- Lines whose full/empty bit is empty, by core · 16384 + line. -/
  empty : Sparse 1
  l1 : List L1Line
  lines : List L2Line
  tlb : List TlbEntry
  marks : List Mark
  ringWait : List FaultRec
  /-- The walkers' requests in arrival order: the first 64 are under way. -/
  walks : List PageWalk
  holds : List HoldRec
  watches : List WatchRec
  notices : List Notice
  credits : List Credit
  /-- Trap records and reports that a hold keeps waiting, oldest first. -/
  posts : List Post
  home : List HomeEntry
  htEntry : DWord
  htStatus : Nat
  htOp : BitVec 2
  /-- The entry of the command that HT_CMD runs, while BUSY reads 1. -/
  htBusy : Option DWord
  exchanges : List Exchange
  pmem : Memory
  /-- Watchpoints by core · 4 + number. -/
  points : List (Nat × WatchPoint)
  /-- PREF_DROP by core; the bank counters of R274 by (die · 32 + bank) · 16 + number. -/
  prefDrop : Sparse 48
  bankCtr : Sparse 48
  csr : Csrs
  ctl : Ctl
  grants : List Grant
  /-- Grants of killed teams, to be handed again (R312). -/
  regrants : List Grant
  passes : List Pass
  /-- Passes that have completed or failed, by ASID and address (R309). -/
  passEnds : List (Nat × Nat)
  frags : List Frag
  leases : List Lease
  queues : List Queue
  /-- PEER_MAP and PEER_IMPORT (R398, R399, R401), and what has left for peers. -/
  peerMap : Sparse 64
  peerImport : Sparse 64
  peerOut : List PeerOut
  peerReplies : List PeerReply
  /-- The frames that have left by the peer ports (R398). -/
  frames : List PeerFrame
  /-- The ends of the die links, as the die and the one it faces, and those towards peers, as module and channel. -/
  links : List ((Nat × Nat) × Port)
  /-- The homes that the move under way has made accesses at, and whether each writes; none between steps (R391). -/
  asks : List (Nat × Bool)
  peerPorts : List ((Nat × Nat) × Port)
  mgmt : Mgmt
  /-- The last 1 ms window's end, and the dies whose pattern bits firmware clears, with the time when it last did (R405, R407). -/
  windowAt : Nat
  hot : List (Nat × Option Nat)
  clusters : List Cluster
  /-- Dies that take no further dispatch (R414). -/
  down : List Nat
  errWait : List ErrRec
  /-- Cores reserved for a pre-empting packet, and its victims so far, as queue, SEQ and core or team (R351). -/
  reserved : List (Nat × Nat × Nat)
  struck : List (Nat × Nat × Nat)
  /-- When frame slots were last freed (R357). -/
  slotsFreed : Nat
  deriving DecidableEq, Repr

/-! ### Reset -/

/-- A cluster after reset: pattern, floors, budget (R401, R403), and the full headroom (DESIGN CHOICE, log entry 6). -/
def Cluster.reset : Cluster :=
  { pat := 0xFEFE, saved := none, eff := 0xFEFE, effFrom := 0, before := 0xFEFE, passed := 0
    floor := 2048#64 ||| (1024#64 <<< 16) ||| (1024#64 <<< 32) ||| (512#64 <<< 48)
    total := 28672, headroom := 255, charged := [0, 0, 0, 0], spent := 0, periodEnd := 4096 }
/-- The control registers of R386 after reset. -/
def Csrs.reset : Csrs :=
  { srseed := 0, moorLimit := 65536, stowDelay := 4096, ttBase := 0, stowBase := 0, stowSlots := 0, fqBase := 0, fqCtl := 4
    fqHead := 0, fqTail := 0, trapDrop := 0, reportDrop := 0, stows := 0, restores := 0, stowFail := 0 }
/-- The control block's registers after reset (R401). -/
def Ctl.reset : Ctl :=
  { qtBase := 0, qtCmd := 0, ageInterval := 100, ageCap := 96, readInterval := 64, asidBase := 0, peerId := 0, peerRetry := 64
    plimit := 4000, errBase := 0, errCtl := 4, errHead := 0, errTail := 0, ceCount := 0 }
/-- The management state of a module that has booted (R408); the images and fuses are inputs (DESIGN CHOICE, log entry 7). -/
def Mgmt.reset : Mgmt :=
  { recovery := false, released := true, flash := [[], []], loader := [], fusedFw := 0, fusedLdr := 0, loadedFw := 0, loadedLdr := 0
    measured := [], loadedCount := 0, staging := [[], []], staged := [0, 0], kept := [], out := [], draw := 0, resetAt := 0, commit := none, started := [] }

/-- The machine right after reset: booted, with the control block and control registers at their reset values, no queue
enabled, no team on any core, and nothing listed in memory (R386, R401, R408) (DESIGN CHOICE, log entry 4)
(DESIGN CHOICE, log entry 5). -/
def State.reset : State :=
  { clock := 0, freeCtr := 0, nextId := 0, agenda := [], running := [], rafts := [], teams := [], debugs := [], launches := []
    reqs := [], ops := [], kept := [], tile := [], empty := [], l1 := [], lines := [], tlb := [], marks := [], ringWait := []
    walks := [], holds := [], watches := [], notices := [], credits := [], posts := [], home := [], htEntry := 0, htStatus := 0, htOp := 0, htBusy := none, exchanges := [], pmem := []
    points := [], prefDrop := [], bankCtr := [], csr := Csrs.reset, ctl := Ctl.reset, grants := [], regrants := [], passes := []
    passEnds := [], frags := [], leases := [], queues := [], peerMap := [], peerImport := [], peerOut := [], peerReplies := [], frames := []
    links := [], asks := [], peerPorts := [], mgmt := Mgmt.reset, windowAt := 0, hot := []
    clusters := List.replicate 64 Cluster.reset, down := [], errWait := [], reserved := [], struck := [], slotsFreed := 0 }

end Sys2Proof.Machine
end

