-- ==== Sys2Proof/Machine/Memory.lean ====
section
/-!
DEFINITION. The memory side (chapter 10): homes, the page walk and the TLBs, frames under exchange, L2 lines with their
encodings and evictions, watches, and the reads and writes that are performed at a home.
-/

namespace Sys2Proof.Machine

open Sys2Proof

/-! ### Homes (R263 to R265) -/

/-- The 57 address bits of a canonical address. -/
def va57 (va : Nat) : Nat := va % 2 ^ 57

/-- XOR of a list of numbers. -/
def xorAll (xs : List Nat) : Nat := xs.foldl Nat.xor 0

/-- The die of the fixed hash interleave (R263). -/
def hashDie (asid va : Nat) : Nat :=
  Nat.xor (asid % 8) (xorAll ((List.range 15).map (fun k => field va (3 * k + 14) (3 * k + 12))))
/-- The bank within the die (R263). -/
def hashBank (asid va : Nat) : Nat :=
  Nat.xor (asid % 32) (xorAll ((List.range 10).map (fun k => field va (5 * k + 11) (5 * k + 7))))
/-- The set within the bank (R263). -/
def hashSet (asid va : Nat) : Nat := Nat.xor (field va 56 12) asid % 1536

/-- The home of a line: a compute die, or 8 for the far port (R263, R266) (DESIGN CHOICE, log entry 38). -/
def State.homeOf (s : State) (asid va : Nat) : Nat :=
  match s.home.find? (fun e => e.asid == asid && e.region == va57 va / 2 ^ 21) with
  | some e => e.home
  | none => hashDie asid (va57 va)

/-- The set of a line within the whole module. -/
def State.setOf (s : State) (asid line : Nat) : Nat × Nat × Nat :=
  (s.homeOf asid (128 * line), hashBank asid (128 * line), hashSet asid (128 * line))

/-- The lathe unit of an uncached-shared frame's bank, as die and bank, chosen by the physical address (R265). -/
def physUnit (pa : Nat) : Nat × Nat :=
  (if pa < 8 * 0xC00000000 then pa / 0xC00000000 else Nat.xor (field pa 14 12) (field pa 17 15), hashBank 0 pa)

/-! ### Frames, and frames under exchange (R283, R295) -/

/-- An address inside HBM or the far tier (R283). -/
def paNear (pa : Nat) : Bool := decide (pa < 8 * 0xC00000000)
def paFar (pa : Nat) : Bool := decide (0x10000000000 ≤ pa) && decide (pa < 0x28000000000)
def paOk (pa : Nat) : Bool := paNear pa || paFar pa

/-- The frame of a PTE (R286). -/
def pteFrame (pte : DWord) : Nat := field pte.toNat 51 16 * 2 ^ 16

/-- Where a physical byte is held: in a slot of an exchange once its piece has been copied, else in memory (R295). -/
inductive FrameAt where
  | memory
  | slot (die : Nat) (far : Bool) (off : Nat)
  deriving DecidableEq, Repr

/-- The place of one physical byte. -/
def State.frameAt (s : State) (pa : Nat) : FrameAt :=
  match s.exchanges.find? (fun e =>
      (inside pa 1 (pteFrame e.nearPte) e.size && decide ((pa - pteFrame e.nearPte) / 4096 < e.copied)) ||
      (inside pa 1 (pteFrame e.farPte) e.size && decide ((pa - pteFrame e.farPte) / 4096 < e.copied))) with
  | none => .memory
  | some e =>
    if inside pa 1 (pteFrame e.nearPte) e.size then .slot e.die false (pa - pteFrame e.nearPte)
    else .slot e.die true (pa - pteFrame e.farPte)

/-- One physical byte. -/
def State.frameByte (s : State) (pa : Nat) : Byte :=
  match s.frameAt pa with
  | .memory => sget s.pmem pa
  | .slot die far off =>
    match s.exchanges.find? (fun e => e.die == die) with
    | none => 0
    | some e => sget (if far then e.slotF else e.slotN) off

/-- One physical byte written; a piece that had been written out must be written out again (R295). -/
def State.setFrameByte (s : State) (pa : Nat) (b : Byte) : State :=
  match s.frameAt pa with
  | .memory => { s with pmem := sset s.pmem pa b }
  | .slot die far off =>
    { s with exchanges := s.exchanges.map (fun e =>
        if e.die = die then
          { e with
            slotN := if far then e.slotN else sset e.slotN off b
            slotF := if far then sset e.slotF off b else e.slotF
            written := e.written.filter (fun k => k != off / 4096) }
        else e) }

/-- A run of physical bytes, read and written. -/
def State.physGet (s : State) (pa n : Nat) : List Byte := (List.range n).map (fun j => s.frameByte (pa + j))
def State.physPut (s : State) (pa : Nat) : List Byte → State
  | [] => s
  | b :: bs => State.physPut (s.setFrameByte pa b) (pa + 1) bs
/-- An 8-byte physical read and write (R288). -/
def State.phys64 (s : State) (pa : Nat) : DWord := BitVec.ofNat 64 (ofBytes (s.physGet pa 8))
def State.setPhys64 (s : State) (pa : Nat) (x : DWord) : State := s.physPut pa (toBytes 8 x.toNat)

/-! ### The walk (R284 to R288) -/

/-- A leaf PTE is well formed for its page size (R286). -/
def leafOk (pte : DWord) (size : Nat) : Bool :=
  let p := pte.toNat
  let frame := pteFrame pte
  field p 63 52 == 0 && !bit p 11 && frame % size == 0 && paOk frame && paOk (frame + size - 1) && (bit p 9 == paFar frame)

/-- A table entry is well formed for its next table's alignment (R287). -/
def nextOk (pte : DWord) (align : Nat) : Bool :=
  let p := pte.toNat
  field p 63 52 == 0 && field p 7 2 == 0 && (field p 51 8 * 256) % align == 0 && paOk (field p 51 8 * 256)

/-- The levels below a table: the shift and index width of each, and the alignment of the table its entries name. -/
def walkLevels (s : State) (va table : Nat) : List (Nat × Nat × Nat) → WalkResult
  | [] => .bad
  | (shift, width, align) :: rest =>
    let at_ := table + 8 * ((va / 2 ^ shift) % 2 ^ width)
    let pte := s.phys64 at_
    let size := 2 ^ shift
    let base := va / size * size
    if !bit pte.toNat 0 then .absent base size (decide (rest ≠ []))
    else if bit pte.toNat 1 then
      if shift = 39 then .bad else if leafOk pte size then .page base size pte at_ else .bad
    else if rest = [] then .bad
    else if nextOk pte align then walkLevels s va (field pte.toNat 51 8 * 256) rest
    else .bad

/-- The walk of a page (R284, R285) (DEDUCED, log entry 50). -/
def State.walk (s : State) (asid va : Nat) : WalkResult :=
  let d := (s.phys64 (s.ctl.asidBase.toNat + 16 * asid)).toNat
  if field d 63 52 != 0 || field d 20 1 != 0 then .bad
  else if !bit d 0 then .absent 0 (2 ^ 57) true
  else if !paOk (field d 51 21 * 2 ^ 21) then .bad
  else walkLevels s (va57 va) (field d 51 21 * 2 ^ 21) [(39, 18, 4096), (30, 9, 4096), (21, 9, 256), (16, 5, 1)]

/-! ### TLB entries, marks and holds (R289, R290, R294) -/

/-- A TLB entry serves an address: it names its page, and its ASID unless G is set (R286, R289). -/
def TlbEntry.serves (e : TlbEntry) (side asid va : Nat) : Bool :=
  e.side == side && (e.asid == asid || bit e.pte.toNat 8) && inside (va57 va) 1 e.base e.size
/-- The entry of a home's TLB that serves an address. -/
def State.tlbAt (s : State) (side asid va : Nat) : Option TlbEntry := s.tlb.find? (·.serves side asid va)
/-- A fault-pending mark of the home's TLB covers the address (R289). -/
def State.marked (s : State) (asid va : Nat) : Bool :=
  s.marks.any (fun m => m.side == s.homeOf asid va && m.asid == asid && inside (va57 va) 1 m.base m.size)
/-- A hold covers the address (R294). -/
def State.held (s : State) (asid va : Nat) : Bool := s.holds.any (fun h => h.asid == asid && inside (va57 va) 1 h.lo h.len)

/-- KIND of a fault-ring record (R354). -/
def accRing : Acc → Nat
  | .read => 0
  | .write => 1
  | .fetch => 2
/-- The PTE bit that permits an access (R286), and the trap cause where it is missing (R290, R365). -/
def accPerm : Acc → Nat
  | .read => 4
  | .write => 2
  | .fetch => 3
def accCause : Acc → Nat
  | .read => 9
  | .write => 10
  | .fetch => 4

/-- The entries of a near TLB, and of the far one (R11, R289). -/
def tlbSize (side : Nat) : Nat := if side = 8 then 32768 else 16384
/-- A TLB's entries held to the room that its marks leave; the longest there goes first (R289; the replacement is not
visible). -/
def State.trimTlb (s : State) (side : Nat) : State :=
  let room := tlbSize side - (s.marks.filter (fun m => m.side == side)).length
  let mine := s.tlb.filter (fun e => e.side == side)
  if mine.length ≤ room then s else { s with tlb := s.tlb.filter (fun e => e.side != side) ++ mine.take room }
/-- The marks of a TLB stand at their most, so that a walk which would make one more waits (R289). -/
def State.marksFull (s : State) (side : Nat) : Bool := decide (4096 ≤ (s.marks.filter (fun m => m.side == side)).length)
/-- What a walk has found, at the home's TLB: a translation installed, a mark made with its record to the fault ring, or
neither where the walk finds PTE_FORMAT (R288, R289, R354). -/
def State.installWalk (s : State) (asid va : Nat) (acc : Acc) (found : WalkResult) : State :=
  let side := s.homeOf asid va
  let rest := s.tlb.filter (fun e => !e.serves side asid va)
  match found with
  | .page base size pte pteAt => ({ s with tlb := ⟨side, asid, base, size, pte, pteAt⟩ :: rest } : State).trimTlb side
  | .absent base size table =>
    if s.marked asid va || s.marksFull side then { s with tlb := rest }
    else
      ({ s with
        tlb := rest
        marks := ⟨side, asid, base, size⟩ :: s.marks
        ringWait := s.ringWait ++ [⟨base, if table then 3 else accRing acc, side, asid⟩] } : State).trimTlb side
  | .bad => { s with tlb := rest }
/-- A page's walk made whole in one step (DEDUCED, log entry 106). -/
def State.walkPage (s : State) (asid va : Nat) (acc : Acc) : State := s.installWalk asid va acc (s.walk asid va)

/-- The walkers' request for the page of an address (R21). -/
def State.walkFor (s : State) (asid va : Nat) : Option PageWalk :=
  s.walks.find? (fun w => w.asid == asid && va57 w.va.toNat / 65536 == va57 va / 65536)
/-- A request to the walkers, behind those that came before it (R21). -/
def State.askWalk (s : State) (asid va : Nat) (acc : Acc) : State :=
  if (s.walkFor asid va).isSome then s else { s with walks := s.walks ++ [⟨asid, BitVec.ofNat 64 va, acc, none⟩] }
/-- A miss on the page waits for the walkers: they make its walk already, or their 64 are all under way (R11, R21). -/
def State.walkersBusy (s : State) (asid va : Nat) : Bool := decide (64 ≤ s.walks.length) || (s.walkFor asid va).isSome
/-- Walks that have read a PTE since changed install nothing and are made again (R289, R293). -/
def State.rewalk (s : State) : State := { s with walks := s.walks.map (fun w => { w with found := none }) }

/-- A and D set in the PTE by an atomic OR, if it still holds what the walk read apart from them (R290). -/
def State.setAD (s : State) (e : TlbEntry) (bits : DWord) : Option State :=
  let now := s.phys64 e.pteAt
  if now &&& ~~~0xC0#64 = e.pte &&& ~~~0xC0#64 then
    some (if now ||| bits = now then s else s.setPhys64 e.pteAt (now ||| bits))
  else none

/-! ### L2 lines: encodings, evictions, counters (R268 to R274) -/

/-- A line's words of w bytes (R269). -/
def wordsOf (w : Nat) (data : List Byte) : List Nat := (List.range (128 / w)).map (fun i => ofBytes ((data.drop (w * i)).take w))

/-- Sectors of a base-delta encoding, where it applies (R270). -/
def bdSectors (w d : Nat) (data : List Byte) : Option Nat :=
  let nz := (wordsOf w data).filter (fun x => x != 0)
  match nz with
  | [] => none
  | base :: rest =>
    let fits := rest.all (fun x =>
      let delta := asSigned (8 * w) (wrapN (8 * w) ((x : Int) - base))
      decide (-(2 ^ (8 * d - 1)) ≤ delta) && decide (delta < 2 ^ (8 * d - 1)))
    let sectors := ceilDiv (128 / w / 8 + w + d * rest.length) 32
    if fits && decide (sectors ≤ 3) then some sectors else none

/-- The words of a line that are not zero, with their places (R270). -/
def nonzeroWords (w : Nat) (data : List Byte) : List (Nat × Nat) := (numbered (wordsOf w data)).filter (fun x => x.2 != 0)
/-- The payload of a base-delta encoding: the bitmap, the base, and the low bytes of every later delta (R270). -/
def bdPayload (w d : Nat) (data : List Byte) : List Byte :=
  let nz := nonzeroWords w data
  let base := ((nz.head?).map (·.2)).getD 0
  toBytes (128 / w / 8) (total (nz.map (fun x => 2 ^ x.1))) ++ toBytes w base ++
    (nz.drop 1).flatMap (fun x => toBytes d (wrapN (8 * d) ((x.2 : Int) - base)))
/-- A base-delta payload decoded (R270). -/
def bdDecode (w d : Nat) (payload : List Byte) : List Byte :=
  let n := 128 / w
  let map := ofBytes (payload.take (n / 8))
  let base := ofBytes ((payload.drop (n / 8)).take w)
  let deltas := payload.drop (n / 8 + w)
  ((List.range n).foldl (fun (acc : List Byte × Nat) i =>
    if !bit map i then (acc.1 ++ toBytes w 0, acc.2)
    else if acc.2 = 0 then (acc.1 ++ toBytes w base, 1)
    else
      let δ := asSigned (8 * d) (ofBytes ((deltas.drop (d * (acc.2 - 1))).take d))
      (acc.1 ++ toBytes w (wrapN (8 * w) ((base : Int) + δ)), acc.2 + 1)) ([], 0)).1
/-- The word and delta sizes of a base-delta mode (R269). -/
def bdMode (mode : Nat) : Nat × Nat := ([(2, 1), (4, 1), (4, 2), (8, 1), (8, 2), (8, 4)] : List (Nat × Nat)).getD (mode - 2) (8, 4)

/-- Every applicable mode with its sectors, by rising MODE (R269). -/
def lineModes (data : List Byte) : List (Nat × Nat) :=
  (if data.all (· == 0) then [(0, 0)] else []) ++
  (match wordsOf 8 data with
   | [] => []
   | x :: xs => if xs.all (· == x) then [(1, 1)] else []) ++
  [(2, 2, 1), (3, 4, 1), (4, 4, 2), (5, 8, 1), (6, 8, 2), (7, 8, 4)].filterMap (fun (m, w, d) => (bdSectors w d data).map (fun n => (m, n))) ++
  [(8, 4)]

/-- The chosen encoding: fewest sectors, then lowest MODE (R271). -/
def encodeLine (data : List Byte) : Nat × Nat := (leastBy (fun e => e.2) (lineModes data)).getD (8, 4)
/-- The payload of a line in its chosen encoding: whole sectors, the bytes past its end zero (R269, R270). -/
def linePayload (data : List Byte) : List Byte :=
  let (mode, sectors) := encodeLine data
  let bytes := match mode with
    | 0 => []
    | 1 => data.take 8
    | 8 => data
    | m => bdPayload (bdMode m).1 (bdMode m).2 data
  (bytes ++ toBytes 128 0).take (32 * sectors)
/-- A payload decoded: the line's 128 bytes (R269, R270, R271). -/
def lineDecode (mode : Nat) (payload : List Byte) : List Byte :=
  match mode with
  | 0 => toBytes 128 0
  | 1 => (List.range 16).flatMap (fun _ => payload.take 8)
  | 8 => payload.take 128
  | m => bdDecode (bdMode m).1 (bdMode m).2 payload
/-- The sectors of a line. -/
def sectorsOf (data : List Byte) : Nat := (encodeLine data).2

/-- The counter of R274 that an access to a present line adds to: numbers 3 to 8 of the die. -/
def hitCounter (data : List Byte) : Nat :=
  match (encodeLine data).1 with
  | 0 => 3
  | 1 => 4
  | 2 => 5
  | 3 | 4 => 6
  | 5 | 6 | 7 => 7
  | _ => 8

/-- The key of a bank's counter (R274): 0 SECTOR_FILL, 1 EXPAND_EVICT, 2 WB_LINES, 3 to 8 the hits. -/
def ctrKey (die bank ctr : Nat) : Nat := 16 * (32 * die + bank) + ctr
/-- More in a counter of a line's bank (R274). -/
def State.bump (s : State) (asid va ctr n : Nat) : State :=
  let k := ctrKey (s.homeOf asid va) (hashBank asid (va57 va)) ctr
  { s with bankCtr := sset s.bankCtr k (sget s.bankCtr k + BitVec.ofNat 48 n) }
/-- The sum of a die's 32 banks (R274). -/
def State.dieCounter (s : State) (die ctr : Nat) : BitVec 48 :=
  ((List.range 32).map (fun b => sget s.bankCtr (ctrKey die b ctr))).foldl (· + ·) 0

/-- The line of an address where its home holds it. -/
def State.l2At (s : State) (asid va : Nat) : Option L2Line :=
  s.lines.find? (fun l => l.asid == asid && l.line == va57 va / 128)

/-- The list without a line. -/
def dropLine (ls : List L2Line) (asid line : Nat) : List L2Line := ls.filter (fun l => !(l.asid == asid && l.line == line))

/-- The physical address of a virtual one under a TLB entry. -/
def TlbEntry.pa (e : TlbEntry) (va : Nat) : Nat := pteFrame e.pte + (va57 va - e.base)

/-- The frames that a line's bytes lie in, by the entry present or by a new walk (R290). -/
def State.entryFor (s : State) (asid va : Nat) : Option TlbEntry :=
  match s.tlbAt (s.homeOf asid va) asid va with
  | some e => some e
  | none =>
    match s.walk asid va with
    | .page base size pte pteAt => some ⟨s.homeOf asid va, asid, base, size, pte, pteAt⟩
    | _ => none

/-- A or D set in the PTE that serves an address: by the TLB entry present, or, where the PTE has changed, by a new walk;
with the entry that served (R290). -/
def State.touchPte (s : State) (asid va : Nat) (bits : DWord) : State × Option TlbEntry :=
  match s.entryFor asid va with
  | none => (s, none)
  | some e =>
    match s.setAD e bits with
    | some s1 => (s1, some e)
    | none =>
      match s.walk asid va with
      | .page base size pte pteAt =>
        let e2 : TlbEntry := ⟨e.side, asid, base, size, pte, pteAt⟩
        ((s.setAD e2 bits).getD s, some e2)
      | _ => (s, none)

/-- A line leaves its bank: a dirty one is written back, which sets D (R273, R290). A write-back that finds no page
reaches no frame (DEDUCED, log entry 10). -/
def State.evict (s : State) (l : L2Line) : State :=
  let va := 128 * l.line
  let s1 := { s with lines := dropLine s.lines l.asid l.line }
  if !l.dirty then s1
  else
    match (s1.bump l.asid va 2 1).touchPte l.asid va 0x80#64 with
    | (s2, some e) => s2.physPut (e.pa va) l.data
    | (s2, none) => s2

/-- The lines of a set, in least-recently-used order. -/
def State.setLines (s : State) (asid line : Nat) : List L2Line :=
  s.lines.filter (fun l => s.setOf l.asid l.line == s.setOf asid line)

/-- Evictions of other lines of a set, oldest first, until `need` sectors and `tags` tags are free, at most `fuel` of
them; `count` says whether each adds to EXPAND_EVICT (R273) (DEDUCED, log entry 85). -/
def State.makeRoom (asid line need tags : Nat) (count : Bool) : Nat → State → State
  | 0, s => s
  | fuel + 1, s =>
    let others := (s.setLines asid line).filter (fun l => !(l.asid == asid && l.line == line))
    let used := total (others.map (fun l => sectorsOf l.data))
    if 64 < used + need || 24 < others.length + tags then
      match others with
      | [] => s
      | l :: _ =>
        let s1 := s.evict l
        State.makeRoom asid line need tags count fuel (if count then s1.bump asid (128 * line) 1 1 else s1)
    else s

/-- The sector positions that a line of a set takes in the set's pool: those it holds, then the lowest free ones (R268,
R273). -/
def State.sectorsFor (s : State) (asid line : Nat) (held : List Nat) (n : Nat) : List Nat :=
  let used := ((s.setLines asid line).filter (fun l => !(l.asid == asid && l.line == line))).flatMap (·.sptr)
  (held ++ (List.range 64).filter (fun k => !used.contains k && !held.contains k)).take n

/-- A line filled from its frame (R273, R290): by PREF, or by L2_FILL for an access that is still to come (`asked`). -/
def State.fillLine (s : State) (e : TlbEntry) (asid va : Nat) (pfm : Bool) (asked : Bool := false) : State :=
  let line := va57 va / 128
  let data := s.physGet (e.pa (128 * line)) 128
  let n := sectorsOf data
  let s1 := State.makeRoom asid line n 1 false 24 s
  let s2 := { s1 with lines := dropLine s1.lines asid line ++
    [(⟨asid, line, data, false, bit e.pte.toNat 4, bit e.pte.toNat 2, bit e.pte.toNat 3, pfm, asked, s1.sectorsFor asid line [] n⟩ : L2Line)] }
  s2.bump asid va 0 n

/-! ### Access to a line at its home -/

/-- What an access meets: it can be performed; it waits (a hold, or a full mark table); it meets a page that is not
resident; or it meets a fault of R179 (a trap cause). -/
inductive Verdict where
  | ok | wait | moor
  | fault (cause : Nat)
  deriving DecidableEq, Repr

/-- Whether the page that serves an address is far-homed or uncached-shared, so that no L2 line holds it. -/
def State.direct (s : State) (asid va : Nat) (e : TlbEntry) : Bool := s.homeOf asid va == 8 || bit e.pte.toNat 5

/-- The second half of `ensure`: an entry serves the address. -/
def State.useEntry (s : State) (asid va : Nat) (acc : Acc) (e : TlbEntry) (asked : Bool := false) : Option (State × Verdict) :=
  if !bit e.pte.toNat (accPerm acc) then some (s, .fault (accCause acc))
  else
    let direct := s.direct asid va e
    let bits : DWord := if direct && acc == .write then 0xC0 else 0x40
    match s.setAD e bits with
    | none => none
    | some s1 => some (if direct then s1 else s1.fillLine e asid va false asked, .ok)

/-- A line's page permits an access, as the line keeps it (R273, R276). -/
def L2Line.permits (l : L2Line) : Acc → Bool
  | .read => l.r
  | .write => l.w
  | .fetch => l.x
/-- An access that finds its line: the line is used last, the hit is counted, and the first access after a prefetch sets A
(R273, R274, R290). The access that L2_FILL has filled it for is no hit, nor is the second half of an access (`again`). -/
def State.hitLine (s : State) (asid va : Nat) (l : L2Line) (again : Bool := false) : State :=
  let s1 : State := { s with lines := dropLine s.lines l.asid l.line ++ [{ l with pfm := false, asked := false }] }
  let s2 := if again || l.asked then s1 else s1.bump asid va (hitCounter l.data) 1
  if l.pfm then (s2.touchPte asid va 0x40#64).1 else s2

/-- The entry that translates an access that has missed, after its walk; or what the walk met (R288, R289). Where the walkers
are busy, the access waits for them (R21) (DEDUCED, log entry 106). -/
def State.missAt (s : State) (asid va : Nat) (acc : Acc) : State × Verdict × Option TlbEntry :=
  if s.walkersBusy asid va then (s.askWalk asid va acc, .wait, none)
  else
    let s1 := s.walkPage asid va acc
    match s1.tlbAt (s1.homeOf asid va) asid va, s.walk asid va with
    | some e, _ => (s1, .ok, some e)
    | none, .bad => (s1, .fault 11, none)
    | none, _ => (s1, if s1.marked asid va then .moor else .wait, none)
/-- An access waits at its home: under a hold (R294), or for the walkers (R21). -/
def State.mustWait (s : State) (asid va : Nat) : Bool :=
  s.held asid va || ((s.l2At asid va).isNone && !s.marked asid va && (s.tlbAt (s.homeOf asid va) asid va).isNone && s.walkersBusy asid va)
/-- The entry that translates an access: present, or walked for (R289); or what stands in its way. -/
def State.entryAt (s : State) (asid va : Nat) (acc : Acc) : State × Verdict × Option TlbEntry :=
  if s.marked asid va then (s, .moor, none)
  else
    match s.tlbAt (s.homeOf asid va) asid va with
    | some e => (s, .ok, some e)
    | none => s.missAt asid va acc
/-- What a home reports of an access before it is performed: residency and permission (R93, R290). -/
def State.probe (s : State) (asid va : Nat) (acc : Acc) : State × Verdict :=
  if s.held asid va then (s, .wait)
  else
    match s.l2At asid va with
    | some l => (s, if l.permits acc then .ok else .fault (accCause acc))
    | none =>
      match s.entryAt asid va acc with
      | (s1, _, some e) => (s1, if bit e.pte.toNat (accPerm acc) then .ok else .fault (accCause acc))
      | (s1, v, none) => (s1, v)
/-- What an access meets at its home: it is translated, its line filled, its permission checked, A and D set (R74, R276, R290,
R294). Every step of it that PAGE_WALK or L2_FILL makes may also have come before. A PTE that has changed is walked again. -/
def State.reach (s : State) (asid va : Nat) (acc : Acc) (again : Bool := false) : State × Verdict :=
  if s.held asid va then (s, .wait)
  else
    match s.l2At asid va with
    | some l =>
      if !l.permits acc then (s, .fault (accCause acc)) else (s.hitLine asid va l again, .ok)
    | none =>
      match s.entryAt asid va acc with
      | (s1, v, none) => (s1, v)
      | (s1, _, some e) =>
        match s1.useEntry asid va acc e with
        | some r => r
        | none =>
          match s1.missAt asid va acc with
          | (s2, v, none) => (s2, v)
          | (s2, _, some e2) => (s2.useEntry asid va acc e2).getD (s2, .wait)

/-- An access that has been made at its home, which its die asked for it; the second half of an access asks no more (R391). -/
def State.asking (s : State) (asid va : Nat) (acc : Acc) (again : Bool) : State :=
  if again then s else { s with asks := s.asks ++ [(s.homeOf asid va, acc == .write)] }
/-- An access made ready at its home, or what stands in its way. -/
def State.ensure (s : State) (asid va : Nat) (acc : Acc) (again : Bool := false) : State × Verdict :=
  match s.reach asid va acc again with
  | (s1, .ok) => (s1.asking asid va acc again, .ok)
  | r => r

/-- The attribute of the page that serves an address, where there is one: uncached-shared or not (R286). -/
def State.attr (s : State) (asid va : Nat) : Option Bool := (s.entryFor asid va).map (fun e => bit e.pte.toNat 5)
def State.uncached (s : State) (asid va : Nat) : Bool := (s.attr asid va).getD false

/-- One byte as its home holds it, after `ensure`. -/
def State.homeByte (s : State) (asid va : Nat) : Byte :=
  match s.l2At asid va with
  | some l => l.data.getD (va57 va % 128) 0
  | none =>
    match s.entryFor asid va with
    | some e => s.frameByte (e.pa va)
    | none => 0

/-- The frame address of an uncached-shared byte, whose synonyms are one location (R76); none for any other. -/
def State.frameOf (s : State) (asid va : Nat) : Option Nat :=
  match s.entryFor asid va with
  | some e => if bit e.pte.toNat 5 then some (e.pa va) else none
  | none => none
/-- Two lines are one location: the same line of an ASID, or synonyms of an uncached-shared frame (R76). -/
def State.sameLine (s : State) (a la b lb : Nat) : Bool :=
  (a == b && la == lb) || (match s.frameOf a (128 * la), s.frameOf b (128 * lb) with
    | some x, some y => x == y
    | _, _ => false)
/-- The uncached-shared frames of a range, by the pieces of its 64 KiB pages. -/
def State.framesOf (s : State) (asid lo n : Nat) : List (Nat × Nat) :=
  (span (lo / 65536) ((lo + n + 65535) / 65536 - lo / 65536)).filterMap (fun k =>
    let a := max lo (65536 * k)
    (s.frameOf asid a).map (fun pa => (pa, min (lo + n) (65536 * (k + 1)) - a)))
/-- Two ranges have a byte in common: of one ASID, or through synonyms of a frame (R76). -/
def State.meets (s : State) (a lo n b lo' n' : Nat) : Bool :=
  (a == b && overlaps lo n lo' n') ||
  (s.framesOf a lo n).any (fun x => (s.framesOf b lo' n').any (fun y => overlaps x.1 x.2 y.1 y.2))

/-- Two addresses name one byte: the same of an ASID, or through synonyms of a frame (R76). -/
def State.sameByte (s : State) (a x b y : Nat) : Bool :=
  (a == b && x == y) || (match s.frameOf a x, s.frameOf b y with
    | some p, some q => p == q
    | _, _ => false)
/-- Two runs of bytes have one in common (R76, R79). -/
def State.shares (s : State) (sp : Space) (lo n : Nat) (sp' : Space) (lo' n' : Nat) : Bool := match sp, sp' with
  | .virt a, .virt b => s.meets a lo n b lo' n'
  | _, _ => sp == sp' && overlaps lo n lo' n'

/-- Every watch on a line fires and is removed (R277), also one set through a synonym (R76). -/
def State.fire (s : State) (asid line : Nat) : State :=
  let on (w : WatchRec) : Bool := s.sameLine w.asid w.line asid line
  let hit := s.watches.filter on
  { s with
    watches := s.watches.filter (fun w => !on w)
    notices := s.notices ++ (numbered hit).map (fun (i, w) => ⟨s.nextId + i, .fired w.target⟩)
    nextId := s.nextId + hit.length }

/-- A list with a run of elements replaced. -/
def overlay {α : Type} (xs : List α) (i : Nat) (ys : List α) : List α := xs.take i ++ ys ++ xs.drop (i + ys.length)

/-- Bytes of one line written at their home, after `ensure`: the line is encoded anew and may push others out of its
set (R271, R273); every watch on the line fires (R277). -/
def State.homePut (s : State) (asid va : Nat) (bytes : List Byte) : State :=
  match s.l2At asid va with
  | some l =>
    let data := overlay l.data (va57 va % 128) bytes
    let s1 := State.makeRoom asid l.line (sectorsOf data) 1 true 24 s
    let s2 := { s1 with lines := dropLine s1.lines asid l.line ++
      [{ l with data := data, dirty := true, sptr := s1.sectorsFor asid l.line l.sptr (sectorsOf data) }] }
    s2.fire asid l.line
  | none =>
    match s.entryFor asid va with
    | some e => (s.physPut (e.pa va) bytes).fire asid (va57 va / 128)
    | none => s

/-- A run of bytes cut at line ends: address and length of each piece. -/
def pieces (va : Nat) : Nat → Nat → List (Nat × Nat)
  | _, 0 => []
  | 0, _ => []
  | fuel + 1, n =>
    let k := min n (128 - va % 128)
    (va, k) :: pieces (va + k) fuel (n - k)
/-- The pieces of [va, va + n). -/
def linePieces (va n : Nat) : List (Nat × Nat) := pieces va (n / 128 + 2) n

/-- A run of bytes made ready at its homes: the first line that cannot be performed decides. -/
def State.ensureAll (asid : Nat) (acc : Acc) (again : Bool) : List (Nat × Nat) → State → State × Verdict
  | [], s => (s, .ok)
  | (va, _) :: rest, s =>
    match s.ensure asid va acc again with
    | (s1, .ok) => State.ensureAll asid acc again rest s1
    | r => r

/-- A read of a run of bytes at its homes, all its lines having been made ready. -/
def State.homeGet (s : State) (asid va n : Nat) : List Byte := (List.range n).map (fun j => s.homeByte asid (va + j))
/-- A write of a run of bytes at its homes. -/
def State.homePutAll (asid : Nat) : List (Nat × List Byte) → State → State
  | [], s => s
  | (va, bs) :: rest, s => State.homePutAll asid rest (s.homePut asid va bs)

/-- The bytes of a run by line. -/
def cutBytes (va : Nat) (bytes : List Byte) : List (Nat × List Byte) :=
  (linePieces va bytes.length).map (fun (a, k) => (a, (bytes.drop (a - va)).take k))

/-- A read made whole at the homes, or what stopped it: how the control die and the engines read (R21, R276). -/
def State.readAt (s : State) (asid va n : Nat) (acc : Acc := .read) (again : Bool := false) : State × Verdict × List Byte :=
  match State.ensureAll asid acc again (linePieces va n) s with
  | (s1, .ok) => (s1, .ok, s1.homeGet asid va n)
  | (s1, v) => (s1, v, [])
/-- A write made whole at the homes, or what stopped it. A line made ready may push an earlier one of the same run
out of its set; each line is therefore made ready again as it is written. -/
def State.writeLines (asid : Nat) : List (Nat × List Byte) → State → State
  | [], s => s
  | (va, bs) :: rest, s => State.writeLines asid rest (((s.ensure asid va .write true).1).homePut asid va bs)
def State.writeAt (s : State) (asid va : Nat) (bytes : List Byte) (again : Bool := false) : State × Verdict :=
  match State.ensureAll asid .write again (linePieces va bytes.length) s with
  | (s1, .ok) => (State.writeLines asid (cutBytes va bytes) s1, .ok)
  | r => r

/-! ### L1 (R176) -/

/-- An L1 line that a plain load may be served from. -/
def State.l1At (s : State) (core asid va : Nat) : Option L1Line :=
  s.l1.find? (fun l => l.core == core && l.asid == asid && l.line == va57 va / 128)
/-- The L1's copy of a line replaced, or dropped where it may hold none (R81, R176); of the 16 ways of its set the one
filled longest ago gives way (the replacement is not visible). -/
def State.setL1 (s : State) (core asid line : Nat) (data : Option (List Byte)) : State :=
  let rest := s.l1.filter (fun l => !(l.core == core && l.asid == asid && l.line == line))
  { s with l1 := match data with
      | none => rest
      | some d =>
        let mine := (rest.filter (fun l => l.core == core && l.line % 128 == line % 128)).take 15
        ⟨core, asid, line, d⟩ :: rest.filter (fun l => !(l.core == core && l.line % 128 == line % 128) || mine.contains l) }

/-! ### Tile memory (R180) -/

/-- The key of a byte, and of a line, of a core's tile memory. -/
def tileKey (core off : Nat) : Nat := core * 2 ^ 32 + off
def lineKey (core line : Nat) : Nat := core * 2 ^ 25 + line

/-- The physical address of stow slot k (R358). -/
def State.slotAt (s : State) (k : Nat) : Nat := s.csr.stowBase.toNat + k * 0x500000

/-- Bytes of tile memory. Number 256 + k stands for the image in stow slot k, where the tile memory of a stowed team
is kept (R20, R361). -/
def State.tileGet (s : State) (core off n : Nat) : List Byte :=
  if core < 256 then sgets s.tile (tileKey core off) n else s.physGet (s.slotAt (core - 256) + 0x40000 + off) n
def State.tilePut (s : State) (core off : Nat) (bytes : List Byte) : State :=
  if core < 256 then { s with tile := ssets s.tile (tileKey core off) bytes }
  else s.physPut (s.slotAt (core - 256) + 0x40000 + off) bytes
/-- The byte of a slot's full/empty map that holds a line's bit (R361). -/
def State.mapAt (s : State) (core line : Nat) : Nat := s.slotAt (core - 256) + 0x21000 + line / 8
/-- The full/empty bit of a line (R90). -/
def State.isEmpty (s : State) (core line : Nat) : Bool :=
  if core < 256 then sget s.empty (lineKey core line) != 0 else !(s.frameByte (s.mapAt core line)).getLsbD (line % 8)
def State.setFull (s : State) (core line : Nat) (full : Bool) : State :=
  if core < 256 then { s with empty := sset s.empty (lineKey core line) (if full then 0 else 1) }
  else
    let b := s.frameByte (s.mapAt core line)
    let m : Byte := 1#8 <<< (line % 8)
    s.setFrameByte (s.mapAt core line) (if full then b ||| m else b &&& ~~~m)

/-! ### Free values -/

/-- A free number, and the state in which it has been drawn. -/
def State.draw (s : State) : Nat × State := (Config.freeNat s.freeCtr, { s with freeCtr := s.freeCtr + 1 })
/-- A free choice. -/
def State.choose (s : State) : Bool × State := (Config.freeBool s.freeCtr, { s with freeCtr := s.freeCtr + 1 })
/-- A new name. -/
def State.fresh (s : State) : Nat × State := (s.nextId, { s with nextId := s.nextId + 1 })

end Sys2Proof.Machine
end

