-- ==== Sys2Proof/Machine/Links.lean ====
section
/-!
DEFINITION. The link layer of chapter 14: flits, the ends of the die links and of the transport to peers, the way from die
to die, and the frames of the peer ports.
-/

namespace Sys2Proof.Machine

open Sys2Proof

/-! ### Flits (R392) -/

/-- The flit's header and payload as bits, with a CRC field of its own (R392). -/
def flitBits (f : Flit) (crc : BitVec 32) : BitVec 2048 :=
  f.payload ++ crc ++ f.seq ++ f.ack ++ (if f.nak then 1#1 else 0#1) ++ f.vc ++ f.kind ++ f.count ++ f.res
/-- The CRC that a flit carries. -/
def flitSum (f : Flit) : BitVec 32 := Config.crc32 (flitBits f 0)
/-- The reserved bits and COUNT are as R392 has them. -/
def flitFormOk (f : Flit) : Bool :=
  f.res == 0 && (match f.kind.toNat with
    | 0 => decide (1 ≤ f.count.toNat) && decide (f.count.toNat ≤ 4)
    | 1 => decide (f.count.toNat ≤ 4)
    | _ => f.count == 0)
/-- A flit that R392 does not fault. -/
def flitIntact (f : Flit) : Bool := flitFormOk f && f.crc == flitSum f
/-- A flit with something to deliver: requests or a line. -/
def flitCarries (f : Flit) : Bool := decide (f.kind.toNat < 2)

/-- A request slot, whose layout is internal (R392): the die it is for, and a free body (DESIGN CHOICE, log entry 79). -/
def requestSlot (dest n : Nat) : BitVec 480 := Config.requestBody n ++ BitVec.ofNat 8 dest
/-- A flit of KIND 0 with one request. -/
def requestFlit (slot : BitVec 480) (vc : BitVec 2) : Flit := ⟨slot.setWidth 1920, 0, 0, 0, false, vc, 0, 1, 0⟩
/-- The payload of KIND 1 (R272, R392): the 16-byte line header, of which the model fixes the die it is for and the MODE
(DESIGN CHOICE, log entry 79), then the line's sectors, then zeros. -/
def lineBits (dest n : Nat) (data : List Byte) : BitVec 1920 :=
  (BitVec.ofNat 1792 (ofBytes (linePayload data)) ++ Config.lineBody n ++ BitVec.ofNat 8 (encodeLine data).1 ++ BitVec.ofNat 8 dest).setWidth 1920
/-- A flit of KIND 1: one line, SCNT in COUNT. -/
def lineFlit (dest n : Nat) (data : List Byte) : Flit :=
  ⟨lineBits dest n data, 0, 0, 0, false, 1, 1, BitVec.ofNat 3 (sectorsOf data), 0⟩
/-- Slot k of a flit's requests. -/
def flitRequest (f : Flit) (k : Nat) : BitVec 480 := (f.payload >>> (480 * k)).setWidth 480
/-- The line that a flit carries, decoded before it fills an L1 (R272). -/
def flitLine (f : Flit) : List Byte :=
  lineDecode (field f.payload.toNat 15 8) (toBytes (32 * f.count.toNat) (f.payload.toNat / 2 ^ 128))
/-- The control flit that carries a NAK, and the idle one that carries an ACK; each in the channel that it answers. -/
def nakFlit (vc : BitVec 2) : Flit := ⟨0, 0, 0, 0, true, vc, 3, 0, 0⟩
def ackFlit (vc : BitVec 2) : Flit := ⟨0, 0, 0, 0, false, vc, 2, 0, 0⟩

/-! ### The ends of links (R24, R393, R394) -/

/-- An end at rest. -/
def Port.fresh : Port := ⟨[], [], 0, 0, 0, false, [], [], false⟩
/-- A SEQ is acknowledged by an ACK. -/
def acked (seq ack : BitVec 12) : Bool := decide ((ack - seq).toNat < 2048)
/-- A flit put on its way: numbered, summed, and kept until it is acknowledged. -/
def Port.put (p : Port) (f : Flit) : Port :=
  let f1 : Flit := { f with seq := p.next, ack := p.expect - 1 }
  let f2 := { f1 with crc := flitSum f1 }
  { p with sent := p.sent ++ [f2], next := p.next + 1, wire := p.wire ++ [f2] }
/-- Room for one more flit that carries something: of the 64 that an end keeps until they are acknowledged (R394), 16 are left
to idle and control flits (DESIGN CHOICE, log entry 79). -/
def Port.room (p : Port) : Bool := decide (p.sent.length < 48)
/-- A flit sent from an end: one that carries something waits for room, as R24's backpressure has it; an idle or control flit
does not wait, and is not sent where 64 are unacknowledged (DESIGN CHOICE, log entry 79). -/
def Port.send (p : Port) (f : Flit) : Port :=
  if p.down then p
  else if flitCarries f then (if p.waiting.isEmpty && p.room then p.put f else { p with waiting := p.waiting ++ [f] })
  else if p.sent.length < 64 then p.put f
  else p
/-- The flits that waited, sent as far as there is room. -/
def Port.drain (p : Port) : List Flit → Port
  | [] => { p with waiting := [] }
  | f :: rest => if p.room then Port.drain (p.put f) rest else { p with waiting := f :: rest }
/-- A flit is taken by an end: it is intact, and the next in order (R392). -/
def Port.takes (p : Port) (f : Flit) : Bool := flitIntact f && f.seq == p.expect
/-- What an intact flit says of the other direction (R392): its ACK acknowledges, its NAK asks for a replay. -/
def Port.heed (p : Port) (f : Flit) : Port :=
  let left := p.sent.filter (fun x => !acked x.seq f.ack)
  { p with sent := left, fails := if left.length < p.sent.length then 0 else p.fails, replay := p.replay || f.nak }
/-- An intact flit is answered with an idle one, for its ACK: where it carries something, and at every 16th SEQ
(DESIGN CHOICE, log entry 79). -/
def answered (f : Flit) : Bool := flitCarries f || f.seq.toNat % 16 == 15
/-- A flit that arrives at an end (R392, R394), NAKs and ACKs going out in channel `vc`: a faulty one, or one out of order,
is answered with a NAK; an intact one is heeded, and one that is next in order taken. -/
def Port.receive (p : Port) (f : Flit) (vc : BitVec 2) : Port :=
  if !flitIntact f then p.send (nakFlit vc)
  else
    let p1 := p.heed f
    (if f.seq != p.expect then p1.send (nakFlit vc)
     else
      let p2 : Port := { p1 with expect := p.expect + 1 }
      if answered f then p2.send (ackFlit vc) else p2).drain p.waiting
/-- A replay from ACK + 1; one beyond the limit takes the end down (R394, R398). -/
def Port.retry (p : Port) (limit : Nat) : Port :=
  if !p.replay || p.down then p
  else if p.sent.isEmpty then { p with replay := false }
  else if limit ≤ p.fails then { p with replay := false, down := true }
  else { p with replay := false, fails := p.fails + 1, wire := p.wire ++ p.sent }
/-- What has come out of a link at its end. -/
def Port.handed (p : Port) (a : Arrival) : Port := { p with delivered := p.delivered ++ [a] }

/-- An end looked up, and put back. -/
def portAt (ps : List ((Nat × Nat) × Port)) (k : Nat × Nat) : Port := ((ps.find? (fun x => x.1 == k)).map (·.2)).getD Port.fresh
def setPort (ps : List ((Nat × Nat) × Port)) (k : Nat × Nat) (p : Port) : List ((Nat × Nat) × Port) :=
  let rest := ps.filter (fun x => x.1 != k)
  if p = Port.fresh then rest else (k, p) :: rest

/-! ### From die to die (R12, R391) -/

/-- Two dies that a link joins (R12); die 8 is the control die. -/
def linkExists (l : LinkDir) : Bool :=
  decide (l.source ≤ 8) && decide (l.dest ≤ 8) && l.source != l.dest &&
  (l.source == 8 || l.dest == 8 || (l.source + 1) % 8 == l.dest || (l.dest + 1) % 8 == l.source)
/-- The next die on the way (R12): the control die is one link away; round the ring the way of fewer hops, ascending where
both have four. -/
def nextDie (here dest : Nat) : Nat :=
  if here = 8 ∨ dest = 8 then dest
  else if (dest + 8 - here) % 8 ≤ 4 then (here + 1) % 8 else (here + 7) % 8
/-- A flit sent towards a die. -/
def State.sendTo (s : State) (here dest : Nat) (f : Flit) : State :=
  if here = dest then s
  else
    let k := (here, nextDie here dest)
    { s with links := setPort s.links k ((portAt s.links k).send f) }
/-- Nothing waits for room along the way from a die to another, of at most `n` links (R12, R24). -/
def State.pathClear (s : State) (here dest : Nat) : Nat → Bool
  | 0 => true
  | n + 1 =>
    here == dest ||
      (let p := portAt s.links (here, nextDie here dest)
       (p.down || p.waiting.isEmpty) && s.pathClear (nextDie here dest) dest n)
/-- An access may set out from a die to another: backpressure does not hold it (R24, R391). -/
def State.wayClear (s : State) (here dest : Nat) : Bool := s.pathClear here dest 4
/-- The die that performs a part of a request, where it is another than the request's own. -/
def State.farDies (s : State) (q : Req) : List Nat :=
  ((q.parts.filterMap (fun p => match p.space with
    | .virt asid => some (s.homeOf asid p.addr)
    | .tile _ => none)).filter (fun d => d != q.core / 32)).eraseDups
/-- A request may set out to the homes of its parts (R24). -/
def State.sendable (s : State) (q : Req) : Bool := (s.farDies q).all (s.wayClear (q.core / 32))
/-- The answer to a part of a request may set out from its home (R24). -/
def State.answerable (s : State) (q : Req) (p : Part) : Bool := match p.space with
  | .virt asid => s.wayClear (s.homeOf asid p.addr) (q.core / 32)
  | .tile _ => true

/-- What a taken flit holds, handed to the die it has come to or sent on towards the one it is for (R12). -/
def State.handOver (s : State) (k : Nat × Nat) (f : Flit) : State :=
  let keep (s : State) (a : Arrival) : State := { s with links := setPort s.links k ((portAt s.links k).handed a) }
  match f.kind.toNat with
  | 0 => ((List.range f.count.toNat).map (flitRequest f)).foldl (fun (s : State) x =>
      if x.toNat % 256 = k.1 ∨ 8 < x.toNat % 256 then keep s (.request x) else s.sendTo k.1 (x.toNat % 256) (requestFlit x f.vc)) s
  | 1 =>
    let dest := f.payload.toNat % 256
    if dest = k.1 ∨ 8 < dest then keep s (.line (flitLine f)) else s.sendTo k.1 dest f
  | _ => s

/-! ### The peer ports (R398) -/

/-- The ports that lead to a module. -/
def State.portsTo (s : State) (m : Nat) : List Nat :=
  let e := (sget s.peerMap m).toNat
  if bit e 16 then (List.range 16).filter (bit e) else []
/-- Flits that are to leave for a module leave in frames of 1 to 16, spread over the ports of its mask as the part chooses
(R398). -/
def State.flushPeer (s : State) (m vc : Nat) : State :=
  let p := portAt s.peerPorts (m, vc)
  let ports := s.portsTo m
  if p.wire.isEmpty || ports.isEmpty then s
  else
    let (n, s1) := s.draw
    { s1 with
      peerPorts := setPort s1.peerPorts (m, vc) { p with wire := [] }
      frames := s1.frames ++ (List.range (ceilDiv p.wire.length 16)).map (fun i =>
        ⟨ports.getD ((n + i) % ports.length) 0, field s.ctl.peerId.toNat 12 0, m, (p.wire.drop (16 * i)).take 16⟩) }
/-- A request or a response sent to a module, in a virtual channel (R398). -/
def State.sendPeer (s : State) (m vc : Nat) : State :=
  let (n, s1) := s.draw
  let p := (portAt s1.peerPorts (m, vc)).send (requestFlit (requestSlot 0 n) (BitVec.ofNat 2 vc))
  ({ s1 with peerPorts := setPort s1.peerPorts (m, vc) p } : State).flushPeer m vc
/-- A peer answered, or told of a write. -/
def State.replyPeer (s : State) (r : PeerReply) : State := ({ s with peerReplies := s.peerReplies ++ [r] } : State).sendPeer r.module 1

end Sys2Proof.Machine
end

