-- ==== Sys2Proof/Machine/Ops.lean ====
section
/-!
DEFINITION. The named operations of the issue engine: looking rafts, teams and work up, registers and stream reads,
the checks that precede an instruction's issue, the interlock, the end of a slot and of a clause, stopping a raft, and
taking a trap with its record, policy and report, with the resumption beside it.
-/

namespace Sys2Proof.Machine

open Sys2Proof

/-- The outcome of a step. -/
abbrev Out := Host.Outcome State Fault Refusal

/-! ### Looking up and replacing -/

def State.raft? (s : State) (id : Nat) : Option Raft := s.rafts.find? (fun r => r.id == id)
def State.setRaft (s : State) (r : Raft) : State := { s with rafts := s.rafts.map (fun x => if x.id = r.id then r else x) }
def State.team? (s : State) (id : Nat) : Option Team := s.teams.find? (fun t => t.id == id)
def State.setTeam (s : State) (t : Team) : State := { s with teams := s.teams.map (fun x => if x.id = t.id then t else x) }
def State.launch? (s : State) (id : Nat) : Option Launch := s.launches.find? (fun l => l.id == id)
def State.setLaunch (s : State) (l : Launch) : State := { s with launches := s.launches.map (fun x => if x.id = l.id then l else x) }
def State.req? (s : State) (id : Nat) : Option Req := s.reqs.find? (fun q => q.id == id)
def State.setReq (s : State) (q : Req) : State := { s with reqs := s.reqs.map (fun x => if x.id = q.id then q else x) }
def State.dropReq (s : State) (id : Nat) : State := { s with reqs := s.reqs.filter (fun q => q.id != id) }
def State.op? (s : State) (id : Nat) : Option Op := s.ops.find? (fun o => o.id == id)
def State.setOp (s : State) (o : Op) : State := { s with ops := s.ops.map (fun x => if x.id = o.id then o else x) }
def State.dropOp (s : State) (id : Nat) : State := { s with ops := s.ops.filter (fun o => o.id != id) }
/-- A request that stops, as an entry of its raft's replay list or with a deferred fault; that of a raft that has been
terminated is abandoned (R374). -/
def State.parkReq (s : State) (q : Req) : State := if (s.raft? q.raft).isSome then s.setReq q else s.dropReq q.id
/-- A cluster, and one cluster changed. -/
def State.cluster (s : State) (c : Nat) : Cluster := (s.clusters[c]?).getD Cluster.reset
def State.mapCluster (s : State) (c : Nat) (f : Cluster → Cluster) : State :=
  { s with clusters := (numbered s.clusters).map (fun (i, x) => if i = c then f x else x) }
/-- The ones of a pattern. -/
def ones (p : BitVec 16) : List Nat := (List.range 16).filter (fun i => p.getLsbD i)
/-- The pulses that a cluster has been passed at a slot: those before its pattern took effect, and one for each slot
since whose bit of the pattern is 1 (R402). -/
def Cluster.cycles (x : Cluster) (now : Nat) : Nat :=
  if now < x.effFrom then x.passed - ((ones x.before).filter (fun i => decide (now % 16 ≤ i))).length
  else x.passed + (now - x.effFrom) / 16 * (ones x.eff).length + ((ones x.eff).filter (fun i => decide (i < now % 16))).length
/-- The pattern in force (R401). -/
def Cluster.effNow (x : Cluster) (now : Nat) : BitVec 16 := if now < x.effFrom then x.before else x.eff
/-- CLK_EFF changes: the new pattern takes effect at the next 16-slot boundary (R402). -/
def Cluster.repattern (x : Cluster) (now : Nat) (p : BitVec 16) : Cluster :=
  let b := (now + 15) / 16 * 16
  { x with eff := p, effFrom := b, before := x.effNow now, passed := x.cycles b }
/-- The cycles that a core has counted, and those since a count of it (R402). -/
def State.cycles (s : State) (core : Nat) : Nat := (s.cluster (core / 4)).cycles s.clock
/-- DESIGN CHOICE, log entry 86. -/
def State.elapsed (s : State) (core since : Nat) : Nat := s.cycles core - since
/-- The rafts of a team. -/
def State.raftsOf (s : State) (team : Nat) : List Raft := s.rafts.filter (fun r => r.team == team)
/-- One raft changed by a function. -/
def State.mapRaft (s : State) (id : Nat) (f : Raft → Raft) : State := { s with rafts := s.rafts.map (fun r => if r.id = id then f r else r) }

/-- Every raft of a team, and one team, changed by a function. -/
def State.mapTeamRafts (s : State) (team : Nat) (f : Raft → Raft) : State :=
  { s with rafts := s.rafts.map (fun r => if r.team = team then f r else r) }
def State.mapTeam (s : State) (id : Nat) (f : Team → Team) : State := { s with teams := s.teams.map (fun t => if t.id = id then f t else t) }

/-- The core a raft sits on: its landing slot's, or its own (R396). -/
def Raft.here (r : Raft) : Nat := r.landed.getD r.core
/-- The split-table entry of a raft. -/
def Raft.entry? (r : Raft) (e : Nat) : Option Entry := (r.split[e]?).getD none
def Raft.setEntry (r : Raft) (e : Nat) (x : Option Entry) : Raft := { r with split := setAt r.split e x }
/-- One entry changed by a function. -/
def State.mapEntry (s : State) (id e : Nat) (f : Entry → Entry) : State :=
  s.mapRaft id (fun r => r.setEntry e ((r.entry? e).map f))
/-- The lowest free split-table entry (R110). -/
def Raft.freeEntry (r : Raft) : Option Nat := (List.range 4).find? (fun e => (r.entry? e).isNone)
/-- The sub-rafts of a raft, with their entries. -/
def Raft.subs (r : Raft) : List (Nat × Entry) := (List.range 4).filterMap (fun e => (r.entry? e).map (fun x => (e, x)))
/-- A sub-raft of it waits at MIGRATE, so that the others have stopped (R396). -/
def Raft.migrating (r : Raft) : Bool := r.subs.any (fun x => match x.2.wait with
  | .migrate _ _ | .mooredIn _ (.migrate _ _) => true
  | _ => false)
/-- Only one sub-raft, no deferred part and no live join record (R131). -/
def Raft.converged (r : Raft) : Bool := r.subs.length == 1 && r.stack.isEmpty && r.joins.isEmpty

/-! ### Register pools (R103) -/

/-- The rafts of a quadrant of one of a team's cores, of its whole team size. -/
def quadRafts (t : Team) (r : Raft) : Nat :=
  ((List.range t.kernel.rafts).filter (fun i => i % 4 == r.index % 4 && i / 32 == r.index / 32)).length
/-- P_q of a raft's pool. -/
def Team.pool (t : Team) (r : Raft) : Nat := t.kernel.vregs * quadRafts t r
/-- The live rafts of a raft's pool. -/
def State.poolRafts (s : State) (r : Raft) : List Raft :=
  s.rafts.filter (fun x => x.team == r.team && x.index % 4 == r.index % 4 && x.index / 32 == r.index / 32)
/-- The free registers of a raft's pool. -/
def State.poolFree (s : State) (t : Team) (r : Raft) : Nat := t.pool r - total ((s.poolRafts r).map (·.count))

/-! ### Registers (R56) -/

/-- The key of a lane's v register. -/
def vKey (reg lane : Nat) : Nat := 64 * reg + lane
def Raft.vreg (r : Raft) (reg lane : Nat) : Word := sget r.v (vKey reg lane)
def Raft.sreg (r : Raft) (k : Nat) : Word := sget r.s k
def Raft.preg (r : Raft) (k : Nat) : LaneMask := sget r.p k

/-- STREAMFLAGS (R136). -/
def streamFlags (r : Raft) : Word :=
  BitVec.ofNat 32 (total ((List.range 4).map (fun k =>
    match (r.streams[k]?).getD none with
    | none => 0
    | some w => 2 ^ (8 * k) * ((if w.e0 then 1 else 0) + (if w.e1 then 2 else 0) + (if w.e2 then 4 else 0) + 8))))

/-- A special register (R56); numbers that name none read 0 and never pass the checks. -/
def State.special (s : State) (r : Raft) (t : Team) (n lane : Nat) : Word :=
  match n with
  | 449 => BitVec.ofNat 32 lane
  | 450 => BitVec.ofNat 32 r.index
  | 451 => BitVec.ofNat 32 t.x
  | 452 => BitVec.ofNat 32 t.y
  | 453 => BitVec.ofNat 32 t.z
  | 454 => t.lnum
  | 455 => BitVec.ofNat 32 r.here
  | 456 => BitVec.ofNat 32 (Config.cycleStart r.here + s.cycles r.here)
  | 457 => BitVec.ofNat 32 ((Config.cycleStart r.here + s.cycles r.here) / 2 ^ 32)
  | 458 => BitVec.ofNat 32 r.width
  | 459 => BitVec.ofNat 32 (r.origin.getD lane 0)
  | 460 => streamFlags r
  | _ => 0

/-- A register's value in a lane (R56). -/
def State.readReg (s : State) (r : Raft) (t : Team) (n : RegNum) (lane : Nat) : Word :=
  match Kind.of n with
  | .vec => r.vreg n.toNat lane
  | .scl => r.sreg (n.toNat - 384)
  | .special => s.special r t n.toNat lane
  | _ => 0

/-- A write of one v register in one lane; registers at or above the count are gone (R139). -/
def Raft.setV (r : Raft) (reg lane : Nat) (x : Word) : Raft :=
  if reg < r.count then { r with v := sset r.v (vKey reg lane) x } else r
/-- A write of one s register; a bound stream register is unbound by it (R135), and its flags then read 0
(DESIGN CHOICE, log entry 105). -/
def Raft.setS (r : Raft) (k : Nat) (x : Word) : Raft :=
  { r with s := sset r.s k x, streams := if 60 ≤ k then setAt r.streams (k - 60) none else r.streams }
/-- A write of one predicate in some lanes: the bits of `val` in the lanes of `lanes`. -/
def Raft.setP (r : Raft) (k : Nat) (lanes val : LaneMask) : Raft :=
  { r with p := sset r.p k ((r.preg k &&& ~~~lanes) ||| (val &&& lanes)) }

/-- A group of registers written in one lane; s registers take the value once, ZERO discards it. -/
def Raft.setGroup (r : Raft) (first : RegNum) (lane : Nat) : List Word → Raft
  | [] => r
  | x :: xs =>
    let r1 := match Kind.of first with
      | .vec => r.setV first.toNat lane x
      | .scl => r.setS (first.toNat - 384) x
      | _ => r
    if Kind.of first = .zero then r1 else r1.setGroup (first + 1) lane xs

/-- A group written in several lanes. -/
def Raft.setLanes (r : Raft) (first : RegNum) (val : Nat → List Word) : List Nat → Raft
  | [] => r
  | l :: ls => (r.setGroup first l (val l)).setLanes first val ls

/-- One step of a stream walk (R135). -/
def Walk.advance (w : Walk) : Walk :=
  let w := { w with e0 := false, e1 := false, e2 := false, i0 := w.i0 + 1 }
  if w.i0 = w.c0 then
    let w := { w with i0 := 0, e0 := true }
    if 2 ≤ w.dims then
      let w := { w with i1 := w.i1 + 1 }
      if w.i1 = w.c1 then
        let w := { w with i1 := 0, e1 := true }
        if w.dims = 3 then
          let w := { w with i2 := w.i2 + 1 }
          if w.i2 = w.c2 then { w with i2 := 0, e2 := true } else w
        else w
      else w
    else w
  else w
/-- The value a walk stands at. -/
def Walk.value (w : Walk) : Word := w.base + BitVec.ofNat 32 w.i0 * w.d0 + BitVec.ofNat 32 w.i1 * w.d1 + BitVec.ofNat 32 w.i2 * w.d2

/-- The walk of stream k advances, if it is bound (R135). -/
def Raft.stepStream (r : Raft) (k : Nat) : Raft :=
  match (r.streams[k]?).getD none with
  | none => r
  | some w =>
    let w' := w.advance
    { r with streams := setAt r.streams k (some w'), s := sset r.s (60 + k) w'.value }

/-! ### The instruction being issued -/

/-- What issues: the raft and its team, the split entry, its clause, the word of the slot, its uniform mark, and the
lanes of the sub-raft narrowed by a covering PBLK (R53, R64). -/
structure Ctx where
  r : Raft
  t : Team
  e : Nat
  en : Entry
  cl : Clause
  word : DWord
  uni : Bool
  active : LaneMask
  deriving DecidableEq, Repr

/-- The lanes that a covering PBLK leaves (R64). -/
def Entry.narrowed (en : Entry) : LaneMask :=
  match en.cover with
  | none => en.mask
  | some c =>
    if c.first ≤ en.slot ∧ en.slot ≤ c.last then
      en.mask &&& (if c.pat.getLsbD (en.slot - c.first) then c.pred else ~~~c.pred)
    else en.mask

/-- The issuing sub-raft: the first of `running`. -/
def State.ctx (s : State) : Option Ctx :=
  match s.running with
  | [] => none
  | (rid, e) :: _ =>
    match s.raft? rid with
    | none => none
    | some r =>
      match s.team? r.team, r.entry? e with
      | some t, some en =>
        match en.clause with
        | none => none
        | some cl =>
          match cl.words[en.slot]? with
          | none => none
          | some w => some ⟨r, t, e, en, cl, w, cl.hdr.getLsbD (36 + en.slot), en.narrowed⟩
      | _, _ => none

/-- The enabled lanes (R143), ascending. -/
def Ctx.lanes (c : Ctx) : List Nat := lanesOf c.r.width c.active

/-- The spindle's renaming of a v operand's first register, for the sub-raft that holds the spindle (R134). -/
def Ctx.reg (c : Ctx) (x : RegNum) : RegNum :=
  match c.r.spindle with
  | none => x
  | some sp =>
    if Kind.of x = .vec ∧ sp.owner = c.e ∧ sp.winSize ≠ 0 ∧ sp.winBase ≤ x.toNat ∧ x.toNat < sp.winBase + sp.winSize then
      BitVec.ofNat 9 (sp.winBase + (x.toNat - sp.winBase + sp.pass * sp.winStep) % sp.winSize)
    else x

/-- A group that the window touches lies inside it, and its renamed place keeps the operand's alignment (R134). -/
def Ctx.renameOk (c : Ctx) (o : Opd) : Bool :=
  match c.r.spindle with
  | none => true
  | some sp =>
    if sp.owner = c.e ∧ sp.winSize ≠ 0 ∧ Kind.of o.first = .vec then
      let x := o.first.toNat
      if sp.winBase ≤ x ∧ x < sp.winBase + sp.winSize then
        let y := (c.reg o.first).toNat
        decide (x + o.n ≤ sp.winBase + sp.winSize) && y % o.align == 0 && decide (y + o.n ≤ sp.winBase + sp.winSize)
      else !(decide (x < sp.winBase) && decide (sp.winBase < x + o.n))
    else true

/-- The OP of an instruction. -/
def opNum (i : Instr) : Nat := match encode i with
  | some w => (opOf w).toNat
  | none => 0

/-- The uniform mark is valid on the instruction, or ignored by it (R53). ASYNC and CTRL slots never carry it (R48). -/
def uniformOk (i : Instr) : Bool :=
  let op := opNum i
  (decide (1 ≤ op) && decide (op ≤ 0x58)) || op == 0x70 || (decide (0x80 ≤ op) && decide (op ≤ 0x8A)) || op == 0x8D || op == 0xC0

/-- VOTE, REDUX and LANE with FN 0 to 2 write one result for the raft (R144). -/
def collective : Instr → Bool
  | .vote _ | .redux _ => true
  | .lane f => f.fn != 3
  | _ => false

/-- A scalar operand of R144: an s register, ZERO, or a special that does not differ by lane. -/
def scalarSrc (r : RegNum) : Bool :=
  match Kind.of r with
  | .scl | .zero => true
  | .special => r != 449#9 && r != 459#9
  | _ => false

/-- The instruction computes once from scalar operands (R144). -/
def scalarForm (i : Instr) : Bool := (opds i).all (fun o => !o.rd || scalarSrc o.first)

/-- An s destination is legal (R57, R144): in a uniform slot, and outside it for collective results and scalar operands
of a vector instruction, and for every ASYNC and CTRL entry. -/
def sDestOk (i : Instr) (uni : Bool) : Bool :=
  uni || decide (0xA0 ≤ opNum i) || collective i || (decide (opNum i < 0x80) && scalarForm i) ||
  (opds i).all (fun o => !o.wr || Kind.of o.first != .scl)

/-- What PBLK may cover: any assigned instruction but PBLK, ASYNC, CTRL and SYS ones (R64). -/
def coverable (w : DWord) : Bool :=
  match decodeFields w with
  | .error .unassignedOp => true
  | _ => decide ((opOf w).toNat < 0xA0) && (opOf w).toNat != 0x77 || (opOf w).toNat == 0xC0

/-- The checks of R55 that depend on the raft and the clause: register counts, the uniform mark, s destinations, what
a PBLK covers, a ballot of a 64-wide raft, and renaming in the spindle (R53, R57, R64, R134, R144, R171). -/
def Ctx.checks (c : Ctx) (i : Instr) : Bool :=
  (opds i).all (fun o => Kind.of o.first != .vec || decide ((c.reg o.first).toNat + o.n ≤ min c.r.count 384)) &&
  (!c.uni || uniformOk i) && sDestOk i c.uni && (opds i).all c.renameOk &&
  (match i with
   | .pblk f =>
     decide (c.en.slot + 1 + (f.fn.toNat + 1) ≤ c.cl.words.length) &&
     ((c.cl.words.drop (c.en.slot + 1)).take (f.fn.toNat + 1)).all coverable
   | .vote f => !(f.fn.toNat == 2 && !f.w && c.r.width == 64)
   | _ => true)

/-- The instruction may issue: R55 steps 2 and 3. -/
def Ctx.refuse (c : Ctx) (i : Instr) : Option Nat :=
  if decide (0xE0 ≤ opNum i) && !c.t.supv then some 3
  else if WellFormed i && c.checks i then none
  else some 1

/-! ### The interlock (R146), and faults and moorings at a use (R93, R179) -/

/-- Two register groups share a register; a result to ZERO is none (R56). -/
def sharesReg (a : RegNum) (n : Nat) (b : RegNum) (m : Nat) : Bool :=
  Kind.of a != .zero && Kind.of a != .none && Kind.of b != .zero && overlaps a.toNat n b.toNat m

/-- Why an instruction cannot issue now. -/
inductive Block where
  | free
  | wait
  | moor
  | raise (d : Deferral) (isOp : Bool) (id : Nat)
  deriving DecidableEq, Repr

/-- One pending piece of work as a wait or a use meets it: its fault, its place in the replay list, or neither. -/
def Req.block (q : Req) : Block := match q.fault with
  | some d => .raise d false q.id
  | none => if q.replay then .moor else .wait
def Op.block (o : Op) : Block := match o.fault with
  | some d => .raise d true o.id
  | none => if o.replay then .moor else .wait

/-- The first of several blocks: a fault before a mooring before a wait (DEDUCED, log entry 81). -/
def worst (bs : List Block) : Block :=
  match bs.find? (fun b => match b with | .raise _ _ _ => true | _ => false) with
  | some b => b
  | none => if bs.contains .moor then .moor else if bs.contains .wait then .wait else .free

/-- The tag mask of the release that an operation makes: FQUEUE's publication (R218), and TILEDONE's (R311). -/
def Op.releaseMask (o : Op) : Option (BitVec 8) := match o.instr with
  | .fqueue f => some f.imm
  | .tiledone _ => some 0xFF
  | _ => none
/-- A request stands before a release with a mask: it is counted under a tag of it (R84), or it is an ordered access; one
of the replay list that the mask does not cover stands before none (R93). -/
def Req.beforeRelease (q : Req) (mask : BitVec 8) : Bool := (q.tags &&& mask) != 0 || ((q.acq || q.rel) && !q.replay)
/-- The work of its raft that the release of an operation covers, and the raft's earlier ordered accesses (R84, R218). -/
def State.covered (s : State) (o : Op) (mask : BitVec 8) : List Block :=
  (s.reqs.filter (fun q => some q.raft == o.raft && decide (q.born < o.id) && q.beforeRelease mask)).map Req.block ++
  (s.ops.filter (fun x => x.raft == o.raft && decide (x.id < o.id) && (x.tags &&& mask) != 0)).map Op.block
/-- An operation as a wait or a use meets it. One whose release waits for work that has stopped stands at that work's fault
or mooring (R93, R226, R311). -/
def State.opBlock (s : State) (o : Op) : Block :=
  match o.block, o.releaseMask with
  | .wait, some m => worst (.wait :: s.covered o m)
  | b, _ => b

/-- A destination meets an operand. -/
def Dest.meets (d : Dest) (c : Ctx) (os : List Opd) : Bool :=
  os.any (fun o => sharesReg (c.reg o.first) o.n d.first (if Kind.of d.first = .vec then min d.n (d.cap - d.first.toNat) else d.n))

/-- The interlock of R146: earlier writes to a register that the operands read or write, and read locks (R235). -/
def State.interlock (s : State) (c : Ctx) (os : List Opd) : Block :=
  worst (
    (s.reqs.filter (fun q => q.raft == c.r.id && (match q.dest with | some d => d.meets c os | none => false))).map Req.block ++
    (s.ops.filter (fun o => o.raft == some c.r.id && (match o.dest with | some d => d.meets c os | none => false))).map s.opBlock ++
    (if s.ops.any (fun p => p.locks.any (fun (rid, reg) => rid == c.r.id &&
        os.any (fun o => o.wr && Kind.of o.first == .vec && overlaps (c.reg o.first).toNat o.n reg 1))) then [.wait] else []))

/-- A tile-memory line is empty for work of a number: later work that marked it when it was full does not make it so
(R88, R90). -/
def State.emptyFor (s : State) (id core line : Nat) : Bool :=
  s.isEmpty core line && !s.ops.any (fun o => decide (id < o.id) && o.marked.contains (core, line))

/-- A load waits for an empty tile-memory line (R90). -/
def State.onEmpty (s : State) (q : Req) : Bool := !q.replay && q.fault.isNone && (match q.kind with
  | .load _ _ | .loadRec _ _ _ => q.parts.any (fun p => match p.space with
    | .tile core => s.emptyFor q.id core (p.addr / 128)
    | .virt _ => false)
  | _ => false)
/-- The interlock waits for a load of an empty tile-memory line (R90, R381). -/
def State.emptyAhead (s : State) (c : Ctx) (os : List Opd) : Bool :=
  s.reqs.any (fun q => q.raft == c.r.id && (match q.dest with | some d => d.meets c os | none => false) && s.onEmpty q)

/-! ### Merges and pops (R111 to R113) -/

/-- A record can merge: every live lane it expects has arrived, and some lane has. -/
def JoinRec.mergeable (j : JoinRec) (live : LaneMask) : Bool := (j.expect &&& live &&& ~~~j.arrived) == 0 && j.arrived != 0

/-- A sub-raft as it starts at an address. -/
def Entry.at (pc : DWord) (mask : LaneMask) (now : Nat) : Entry := ⟨pc, mask, 0, .none, now, none, false, none, false, 0, false⟩

/-- The merges, frees and pops that a raft's tables allow: merges first, by ascending JID (R112, R113). -/
def settleFuel (now : Nat) : Nat → Raft → Raft
  | 0, r => r
  | fuel + 1, r =>
    let r := { r with joins := r.joins.filter (fun j => !(j.expect == 0 && j.arrived == 0)) }
    match r.freeEntry with
    | none => r
    | some e =>
      match leastBy (fun j => j.jid.toNat) (r.joins.filter (fun j => j.mergeable r.live)) with
      | some j =>
        settleFuel now fuel
          { (r.setEntry e (some (Entry.at (j.cont.getD 0) j.arrived now))) with joins := r.joins.filter (fun k => k.jid != j.jid) }
      | none =>
        match r.stack with
        | [] => r
        | d :: ds => settleFuel now fuel { (r.setEntry e (some (Entry.at d.pc d.mask now))) with stack := ds }
def Raft.settle (r : Raft) (now : Nat) : Raft := settleFuel now 48 r

/-- A raft with live lanes that no sub-raft, no deferred part and no mergeable record holds (R113). -/
def Raft.deadlocked (r : Raft) : Bool := r.live != 0 && r.subs.isEmpty && r.stack.isEmpty && !r.joins.any (fun j => j.mergeable r.live)

/-! ### Trap records and reports (R369 to R377) -/

/-- A trap table entry (R369). -/
structure TrapEntry where
  tring : Nat
  mbox : Nat
  tcount : Nat
  log2 : Nat
  /-- 0 KILL, 1 NOTIFY, 2 DEBUG. -/
  policy : Nat
  spolicy : Nat
  /-- The reserved bits are zero. -/
  sound : Bool
  deriving DecidableEq, Repr

/-- The address of an ASID's trap table entry. -/
def State.ttAt (s : State) (asid : Nat) : Nat := s.csr.ttBase.toNat + 32 * asid
/-- The trap table entry of an ASID (R369). -/
def State.trapEntry (s : State) (asid : Nat) : TrapEntry :=
  let at_ := s.ttAt asid
  let w := (s.phys64 (at_ + 24)).toNat
  let sound := field w 63 8 == 0
  let pol (x : Nat) := if sound && decide (x < 3) then x else 0
  { tring := (s.phys64 at_).toNat, mbox := (s.phys64 (at_ + 8)).toNat, tcount := (s.phys64 (at_ + 16)).toNat
    log2 := field w 7 4, policy := pol (field w 1 0), spolicy := pol (field w 3 2), sound := sound }
/-- The policy of a team (R369). -/
def State.policyOf (s : State) (t : Team) : Nat :=
  let te := s.trapEntry t.asid
  if t.supv then te.spolicy else te.policy

/-- A 64-bit address names a whole aligned 64-byte unit (R369). -/
def aligned64 (a : Nat) : Bool := canonical a && a % 64 == 0

/-- A record of 64 bytes written into the trap ring of an ASID, and its index; none where it is dropped (R370). -/
def State.postTrapRecord (s : State) (asid : Nat) (bytes : List Byte) : State × Option Nat :=
  let te := s.trapEntry asid
  let dropped : State × Option Nat := ({ s with csr := { s.csr with trapDrop := s.csr.trapDrop + 1 } }, none)
  if !(te.sound && aligned64 te.tring) then dropped
  else
    match s.writeAt asid (te.tring + te.tcount % 2 ^ te.log2 * 64) bytes with
    | (s1, .ok) => (s1.setPhys64 (s1.ttAt asid + 16) (BitVec.ofNat 64 (te.tcount + 1)), some te.tcount)
    | (s1, _) => ({ s1 with csr := { s1.csr with trapDrop := s1.csr.trapDrop + 1 } }, none)
/-- The next slot of an ASID's trap ring lies under a hold, or its page's walk waits, so that its record waits (R21, R294). -/
def State.ringHeld (s : State) (asid : Nat) : Bool :=
  let te := s.trapEntry asid
  te.sound && aligned64 te.tring && s.mustWait asid (te.tring + te.tcount % 2 ^ te.log2 * 64)

/-- The claim step of R338 on a header: the claim index, or none where the queue is full or its LOG2SIZE is bad. -/
def claimStep (hdr : List Byte) : Option (Nat × Nat) :=
  let claim := ofBytes (hdr.take 8)
  let released := ofBytes ((hdr.drop 8).take 8)
  let log2 := ofBytes ((hdr.drop 24).take 4) % 32
  if log2 < 4 ∨ 16 < log2 then none
  else if (claim + 2 ^ 64 - released) % 2 ^ 64 ≥ 2 ^ log2 then none
  else some (claim, log2)

/-- A 60-byte report claimed and published in a mailbox (R338, R339, R376): 0 posted, 1 the mailbox is full, 2 its page is
not resident or not writable, 3 a hold covers it, or the walkers keep it waiting (R21, R294) (DEDUCED, log entry 67). -/
def State.postMail (s : State) (asid mbox : Nat) (bytes : List Byte) : State × Nat :=
  let barred (va : Nat) : Nat := if s.mustWait asid va then 3 else 2
  match s.readAt asid mbox 64 .write with
  | (s1, .ok, hdr) =>
    match claimStep hdr with
    | none => (s1, 1)
    | some (i, log2) =>
      let at_ := mbox + 64 + i % 2 ^ log2 * 64
      match State.ensureAll asid .write false (linePieces at_ 64) s1 with
      | (s2, .ok) =>
        let s3 := (s2.writeAt asid mbox (toBytes 8 (i + 1)) true).1
        ((s3.writeAt asid at_ (bytes.take 60 ++ toBytes 4 (i + 1)) true).1, 0)
      | (s2, _) => (s2, barred at_)
  | (s1, _, _) => (s1, barred mbox)

/-- The TREF of a raft, ALL clear (R375). -/
def trefOf (t : Team) (index : Nat) : Nat :=
  t.linear % 2 ^ 32 + t.lnum.toNat % 2 ^ 16 * 2 ^ 32 + (t.cores.getD 0 0) * 2 ^ 48 + index % 64 * 2 ^ 56

/-- A report (R377): TREF, KIND, CAUSE, SLOT, CLU, PC, MASK, ADDR, AUX. -/
def reportBytes (tref kind cause slot : Nat) (clu : Bool) (pc mask addr aux : Nat) : List Byte :=
  toBytes 8 tref ++ toBytes 8 (kind + cause * 2 ^ 8 + slot % 16 * 2 ^ 16 + (if clu then 2 ^ 20 else 0)) ++ toBytes 8 pc ++
  toBytes 8 mask ++ toBytes 8 addr ++ toBytes 8 aux ++ toBytes 12 0

/-- A report to the mailbox of an ASID (R376): one that cannot be posted adds to REPORT_DROP, an entry without a mailbox
takes none, and one that a hold keeps waiting (R294) has not been posted yet. -/
def State.mail (s : State) (asid : Nat) (bytes : List Byte) : State × Bool :=
  let te := s.trapEntry asid
  let dropped (s : State) : State := { s with csr := { s.csr with reportDrop := s.csr.reportDrop + 1 } }
  if te.mbox = 0 then (s, true)
  else if !te.sound || !aligned64 te.mbox then (dropped s, true)
  else
    match s.postMail asid te.mbox bytes with
    | (s1, 0) => (s1, true)
    | (s1, 3) => (s1, false)
    | (s1, _) => (dropped s1, true)
/-- A trap record and its report as far as no hold stands in their way, and what is left of them (R294, R370, R376). -/
def State.tryPost (s : State) (p : Post) : State × Option Post :=
  let send (s : State) (mail : Option (List Byte)) : State × Option Post := match mail with
    | none => (s, none)
    | some m => match s.mail p.asid m with
      | (s1, true) => (s1, none)
      | (s1, false) => (s1, some ⟨p.asid, none, some m, false⟩)
  match p.record with
  | none => send s p.mail
  | some b =>
    if s.ringHeld p.asid then (s, some p)
    else
      match s.postTrapRecord p.asid b with
      | (s1, i) => send s1 (p.mail.map (fun m => if p.indexed then overlay m 32 (toBytes 8 (i.getD (2 ^ 64 - 1))) else m))
/-- A trap record and a report written in the order in which an ASID's are made: behind those that a hold keeps waiting
(R294, R370) (DEDUCED, log entry 67). -/
def State.post (s : State) (p : Post) : State :=
  if s.posts.any (fun x => x.asid == p.asid) then { s with posts := s.posts ++ [p] }
  else match s.tryPost p with
    | (s1, none) => s1
    | (s1, some q) => { s1 with posts := s1.posts ++ [q] }
/-- What has waited is written once a hold or a walk has ended (R21, R294). -/
def State.flushPosts (s : State) : State := s.posts.foldl State.post { s with posts := [] }
/-- A report of the part to the mailbox of an ASID (R376). -/
def State.report (s : State) (asid : Nat) (bytes : List Byte) : State := s.post ⟨asid, none, some bytes, false⟩

/-- What a trap record says of the trap (R371). -/
structure TrapInfo where
  cause : Nat
  kind : Nat
  pc : DWord
  slot : Nat
  lanes : LaneMask
  detail : List Byte
  deriving DecidableEq, Repr

/-- DETAIL of most causes (R372) (DEDUCED, log entry 35). -/
def detailOf (pc : DWord) (aux slot op : Nat) (addr : Nat) (instr : DWord) : List Byte :=
  toBytes 8 pc.toNat ++ toBytes 8 (aux % 2 ^ 32 * 2 ^ 32 + slot % 16 * 2 ^ 28 + op % 256 * 2 ^ 16) ++ toBytes 8 addr ++ toBytes 8 instr.toNat

/-- PASS of a record (R371): the pass of a sub-raft in the spindle; without a sub-raft, the raft's as saved. -/
def passField (r : Raft) (e : Option Nat) : Nat := match r.spindle with
  | some sp => if e.isNone || e == some sp.owner then sp.pass % 2 ^ 16 else 0xFFFF
  | none => 0xFFFF
/-- The 64 bytes of a trap record (R371). -/
def trapBytes (t : Team) (r : Raft) (policy pass : Nat) (ti : TrapInfo) : List Byte :=
  toBytes 8 ti.pc.toNat ++
  toBytes 8 (t.lnum.toNat + r.index % 64 * 2 ^ 34 + r.here % 256 * 2 ^ 40 + policy % 4 * 2 ^ 48 + ti.kind % 4 * 2 ^ 50 +
    ti.slot % 16 * 2 ^ 52 + ti.cause % 256 * 2 ^ 56) ++
  toBytes 8 ti.lanes.toNat ++ toBytes 8 (t.linear % 2 ^ 32 + t.asid % 2 ^ 16 * 2 ^ 32 + pass * 2 ^ 48) ++ (ti.detail ++ toBytes 32 0).take 32

/-- The record of a team that is killed or has met an uncorrectable error (R371, R387, R414): of its lowest raft
(DEDUCED, log entry 82). -/
def State.asyncRecord (s : State) (t : Team) (cause : Nat) : State :=
  match leastBy (fun (r : Raft) => r.index) (s.raftsOf t.id) with
  | none => s
  | some r =>
    let slot := field r.haltInfo.toNat 11 8
    s.post ⟨t.asid, some (trapBytes t r 0 (passField r none) ⟨cause, 3, r.haltPc, slot, r.live, detailOf r.haltPc 0 slot 0 0 0⟩), none, false⟩

/-! ### Debug operations that wait for their effect (R380, R381, R387) -/

/-- A debug operation's effect is complete. One whose raft is gone is forgotten. -/
def State.endDebug (s : State) (d : DebugOp) (status : Nat) : State :=
  let ds := s.debugs.map (fun x => if x = d then { x with status := some status } else x)
  { s with debugs := ds.filter (fun x => x.status.isNone || s.rafts.any (fun r => r.id == x.raft)) }
/-- The report of a halt (R377, R387). -/
def State.haltReport (s : State) (t : Team) (r : Raft) : State :=
  s.report t.asid (reportBytes (trefOf t r.index) 4 0 (field r.haltInfo.toNat 11 8) false r.haltPc.toNat r.live.toNat 0 0)
/-- The report of a step (R377, R381): STEP_BLOCKED where the sub-raft has not ended its clause (DEDUCED, log entry 68). -/
def State.stepReport (s : State) (t : Team) (r : Raft) (st : Stepping) (blocked : Bool) : State :=
  let now : Option Entry := match r.entry? st.ent with
    | some en => if en.mask &&& st.mask ≠ 0 then some en else none
    | none => none
  let next : Option Entry := match now with
    | some en => some en
    | none => (r.subs.find? (fun x => x.2.mask &&& st.mask != 0)).map (·.2)
  s.report t.asid (reportBytes (trefOf t r.index) (if blocked then 6 else 5) 0 ((next.map (·.slot)).getD 0) false st.pc.toNat
    st.mask.toNat ((next.map (·.pc.toNat)).getD 0) st.ent)
/-- What has become of a debug operation. -/
def State.concludeOne (s : State) (d : DebugOp) : State :=
  match d.status, s.team? d.team with
  | some _, _ => s
  | none, none => s.endDebug d (if d.kind = 2 then 0 else 1)
  | none, some t =>
    let rs := s.raftsOf t.id
    if t.ended then s.endDebug d (if d.kind = 2 then 0 else 1)
    else if d.kind = 0 then
      match d.target with
      | some rid =>
        match rs.find? (fun r => r.id == rid) with
        | none => s.endDebug d 1
        | some r => if r.halted then (s.haltReport t r).endDebug d 0 else s
      | none =>
        if rs.all (·.halted) then
          match leastBy (fun (r : Raft) => r.index) rs with
          | some r => (s.haltReport t r).endDebug d 0
          | none => s.endDebug d 1
        else s
    else if d.kind = 1 then
      match t.stepping with
      | none => s
      | some st =>
        match rs.find? (fun r => r.id == st.raft) with
        | none => s.endDebug d 1
        | some r =>
          if r.halted then
            let blocked := match r.entry? st.ent with
              | some en => !st.started || en.inside
              | none => false
            ((s.stepReport t r st blocked).mapTeam t.id (fun x => { x with stepping := none })).endDebug d (if blocked then 7 else 0)
          else s
    else s
/-- What has become of the debug operations on a team. -/
def State.conclude (s : State) (team : Nat) : State := (s.debugs.filter (fun d => d.team == team)).foldl State.concludeOne s

/-! ### Stopping (R367), and the end of teams (R121, R374) -/

/-- A raft is issuing a clause. -/
def State.issuing (s : State) (rid : Nat) : Bool := s.running.any (fun x => x.1 == rid)
/-- A sub-raft leaves the quadrant. -/
def State.unrun (s : State) (rid e : Nat) : State := { s with running := s.running.filter (fun x => x != (rid, e)) }

/-- HALTPC and HALTINFO (R367), of the lowest split-table entry; a step leaves SKID 0 (R381). -/
def Raft.noteAt (r : Raft) (reason : Nat) : Raft :=
  let skid := if reason = 5 then 0 else r.skid % 32
  match r.subs with
  | [] => { r with haltInfo := BitVec.ofNat 64 (skid + reason % 256 * 4096) }
  | (_, en) :: _ => { r with haltPc := en.pc, haltInfo := BitVec.ofNat 64 (skid + en.slot % 16 * 256 + reason % 256 * 4096) }
/-- A sub-raft holds moored (R141). -/
def Wait.isMoored (w : Wait) : Bool := match w with
  | .moored _ | .mooredIn _ _ => true
  | _ => false
/-- A wait that ends when the slot can start (R54, R133). -/
def Wait.polls (w : Wait) : Bool := w == .slot || w == .spindle || w == .empty
/-- A wait that is part of its instruction's effect: the instruction has issued, and has read its sources (R132, R139,
R396). -/
def Wait.begun (w : Wait) : Bool := match w with
  | .mem _ _ _ _ _ _ | .quota _ _ | .migrate _ _ => true
  | _ => false
/-- An age that stops becomes what `since` holds, and one that goes on counts from where it stood (R105, R141, R368). -/
def Entry.turnAge (en : Entry) (now : Nat) : Entry := { en with since := now - en.since }
/-- The ages of a raft's sub-rafts stop or go on with a halt; those of moored ones stand still in any case. -/
def Raft.turnAges (r : Raft) (now : Nat) : Raft :=
  { r with split := r.split.map (fun x => x.map (fun en => if en.wait.isMoored then en else en.turnAge now)) }
/-- A raft halts (R367), and its age stops (R368). -/
def Raft.haltAt (r : Raft) (reason now : Nat) : Raft := { ((r.noteAt reason).turnAges now) with halted := true, stopping := none }

/-- Work without a further write: a suspended operation, or one in a replay list (R374). -/
def Op.idle (o : Op) : Bool := o.susp.isSome || o.replay || o.fault.isSome
def Req.idle (q : Req) : Bool := q.replay || q.fault.isSome

/-- A load of a killed team, which ends without effect (R374). -/
def Req.forsaken (q : Req) : Bool := match q.kind with
  | .load _ _ | .loadRec _ _ _ => true
  | _ => false
/-- A fragment that the blend unit can apply as far as the scoreboard goes: submitted, and the lowest of its sample
(R322). -/
def State.fragNext (s : State) (f : Frag) : Bool :=
  f.blend.isSome && !s.frags.any (fun g => g.grant == f.grant && g.pixel == f.pixel && g.sample == f.sample && decide (g.seq.toNat < f.seq.toNat))
/-- A render operation that waits for a grant or for another fragment, which a killed team gives up with its grants
(R312, R374) (DEDUCED, log entry 40): a TILEGET, and a BLEND or VIS that the scoreboard holds up. -/
def State.stuck (s : State) (o : Op) : Bool := match o.instr with
  | .tileget _ => true
  | .blend _ => !s.frags.any (fun f => (f.blend.map (·.1)) == some o.id && s.fragNext f)
  | .vis _ => o.phase == 1 && decide (8192 ≤ (s.frags.filter (fun f => f.core == o.core)).length) && !s.frags.any (fun f => f.core == o.core && s.fragNext f)
  | _ => false
/-- Work of a killed team that still completes: its running operations, and its pending stores, atomics and barrier
arrivals (R374). -/
def State.teamBusy (s : State) (rids : List Nat) : Bool :=
  s.reqs.any (fun q => rids.contains q.raft && !q.idle && !q.forsaken) ||
  s.ops.any (fun o => (match o.raft with | some x => rids.contains x | none => false) && !o.idle && !s.stuck o)

/-- A team's contexts freed and its launch told (R121, R348, R374): `trapped` says that it ended by a trap or a kill.
A ring-set member keeps its tile memory until its group has ended (R99) (DEDUCED, log entry 40). -/
def State.endTeam (s : State) (t : Team) (trapped : Bool) : State :=
  let rids := (s.raftsOf t.id).map (·.id)
  let held := s.grants.filter (fun g => g.team == t.id && !g.retiring)
  let s1 : State := { s with
    rafts := s.rafts.filter (fun r => r.team != t.id)
    running := s.running.filter (fun x => !rids.contains x.1)
    leases := s.leases.filter (fun l => !rids.contains l.raft)
    reqs := if trapped then s.reqs.filter (fun q => !(rids.contains q.raft && (q.idle || q.forsaken))) else s.reqs
    ops := if trapped then s.ops.filter (fun o => !((match o.raft with | some x => rids.contains x | none => false) &&
      (o.idle || s.stuck o))) else s.ops
    grants := if trapped then s.grants.filter (fun g => !held.contains g) else
      s.grants.map (fun g => if held.contains g then { g with retiring := true } else g)
    regrants := if trapped then s.regrants ++ held else s.regrants
    slotsFreed := if t.stowed.isSome then s.clock else s.slotsFreed
    frags := if trapped then s.frags.filter (fun f => !held.any (fun g => g.id == f.grant)) else s.frags
    launches := s.launches.map (fun l => if l.id = t.launch then
      { l with ended := l.ended + 1, trapped := l.trapped + (if trapped then 1 else 0) } else l) }
  -- grants of a team that ends of itself are retired as TILEDONE would (R312)
  let s2 : State := if trapped then s1 else
    { s1 with
      ops := s1.ops ++ (numbered held).map (fun (k, g) =>
        { Op.blank (s1.nextId + k) (.tiledone ⟨0, 0, 0, 0, 384#9, 0, 0⟩) with
          core := g.core, asid := g.asid, cls := 2, since := s1.clock, amount := g.id })
      nextId := s1.nextId + held.length }
  let s3 : State := match t.group with
    | none => { s2 with teams := s2.teams.filter (fun x => x.id != t.id) }
    | some g =>
      let s3 := s2.setTeam { t with ended := true }
      let members := s3.teams.filter (fun x => x.group == some g)
      if members.all (·.ended) then { s3 with teams := s3.teams.filter (fun x => x.group != some g) } else s3
  s3.conclude t.id

/-- A dying team whose rafts have all stopped is terminated once its running operations are complete (R374). A kill or
an uncorrectable error has its record written (R371). -/
def State.settleTeam (s : State) (tid : Nat) : State :=
  match s.team? tid with
  | none => s
  | some t =>
    if t.dying.isSome && !t.ended && ((s.raftsOf tid).all (·.halted) || t.stowed.isSome) && !s.teamBusy ((s.raftsOf tid).map (·.id)) then
      (match t.dying with
       | some cause => if 41 ≤ cause then s.asyncRecord t cause else s
       | none => s).endTeam t true
    else s

/-- A single step goes on while its sub-raft has not ended the clause and waits only for what completes without another
raft: no full/empty wait, at a slot or behind a header wait for loads (R381). -/
def State.stepGoes (s : State) (r : Raft) : Bool :=
  match s.team? r.team with
  | none => false
  | some t =>
    match t.stepping with
    | none => false
    | some st =>
      st.raft == r.id && !st.stopped && (match r.entry? st.ent with
        | none => false
        | some en => (!st.started || en.inside) && (match en.wait with
          | .none => en.inside || !(en.clause.any (fun cl => cl.hdr.getLsbD 52) && s.reqs.any (fun q => q.raft == r.id && s.onEmpty q))
          | .slot | .moored _ | .yield _ _ | .migrate _ _ => true
          | _ => false))

/-- A raft's mooring count stops (R368). -/
def State.stopMooring (s : State) (r : Raft) : Raft := match r.mooredAt with
  | some m => { r with mooredSum := r.mooredSum + s.elapsed r.here m, mooredAt := some (s.cycles r.here) }
  | none => r
/-- A barrier arrival of the raft is on its way: a halt waits until it has been performed (R380) (DEDUCED, log entry 20). -/
def State.arriving (s : State) (rid : Nat) : Bool := s.reqs.any (fun q => q.raft == rid && !q.idle && (match q.kind with
  | .arrive _ _ => true
  | _ => false))
/-- A stopping raft that issues nothing more is halted, its merges and pops made (R367, R368); for a stow it only
stands (R362). -/
def State.settleStop (s : State) (rid : Nat) : State :=
  match s.raft? rid with
  | none => s
  | some r =>
    match r.stopping with
    | none => s
    | some reason =>
      if s.issuing rid || (reason == 5 && s.stepGoes r) then s
      else if reason = 6 then s.setRaft (r.settle s.clock)
      else if s.arriving rid then s
      else ((s.setRaft (((s.stopMooring r).settle s.clock).haltAt reason s.clock)).conclude r.team).settleTeam r.team

/-- A stop reaches a raft (R367); one that is stopping or halted already is not reached again, but for a raft that stops
for a stow. -/
def State.stopRaft (s : State) (rid reason : Nat) : State :=
  match s.raft? rid with
  | none => s
  | some r =>
    if r.halted || (r.stopping.isSome && r.stopping != some 6) then s
    else (s.setRaft { r with stopping := some reason, skid := 0 }).settleStop rid
/-- A stop reaches every raft of a team (R366). -/
def State.stopTeam (s : State) (tid reason : Nat) : State :=
  ((s.raftsOf tid).map (·.id)).foldl (fun s rid => s.stopRaft rid reason) s

/-- A stow stops every raft of some teams (R362). -/
def State.stopGroup (s : State) (teams : List Nat) : State := teams.foldl (fun s tid => s.stopTeam tid 6) s

/-! ### The end of a slot -/

/-- The address past a clause (R49). -/
def Clause.nextPc (cl : Clause) : DWord := cl.pc + BitVec.ofNat 64 (8 * (cl.words.length + 1))

/-- A sub-raft at the header of a clause that it has not fetched. -/
def Entry.goto (en : Entry) (pc : DWord) (now : Nat) : Entry :=
  { en with pc := pc, slot := 0, wait := .none, since := now, clause := none, inside := false, cover := none, resv := 0 }
/-- A sub-raft at the header of a clause of the spindle. -/
def Entry.spin (en : Entry) (cl : Clause) (now : Nat) : Entry :=
  { en with pc := cl.pc, slot := 0, wait := .none, since := now, clause := some cl, inside := false, cover := none, resv := 0 }

/-- The flag that until mode looks at (R133). -/
def Raft.streamFlag (r : Raft) (k j : Nat) : Bool := (streamFlags r).getLsbD (8 * k + j)

/-- The end of a clause for the sub-raft in entry e: a taken target, the next body clause of the spindle, its next
pass or its end, or the clause that follows (R49, R133). -/
def Raft.endClause (r : Raft) (e : Nat) (target : Option DWord) (now : Nat) : Raft :=
  match r.entry? e with
  | none => r
  | some en =>
    match en.clause with
    | none => r
    | some cl =>
      match target with
      | some pc => r.setEntry e (some (en.goto pc now))
      | none =>
        match r.spindle with
        | none => r.setEntry e (some (en.goto cl.nextPc now))
        | some sp =>
          if sp.owner ≠ e then r.setEntry e (some (en.goto cl.nextPc now))
          else
            match sp.body[sp.pos + 1]? with
            | some next => { (r.setEntry e (some (en.spin next now))) with spindle := some { sp with pos := sp.pos + 1 } }
            | none =>
              let pass := sp.pass + 1
              let again := match sp.until? with
                | some (k, j) => !r.streamFlag k j
                | none => decide (pass < sp.count)
              match again, sp.body with
              | true, first :: _ =>
                { (r.setEntry e (some (en.spin first now))) with spindle := some { sp with pos := 0, pass := pass } }
              | _, _ => { (r.setEntry e (some (en.goto cl.nextPc now))) with spindle := none }

/-- What follows an issued instruction. -/
inductive Flow where
  /-- The next slot, or the clause that follows. -/
  | next
  /-- A taken control transfer. -/
  | goto (pc : DWord)
  /-- The instruction has issued; its sub-raft waits before it goes on. -/
  | hold (w : Wait)
  /-- The sub-raft has given up its entry (JOIN, EXIT). -/
  | gone
  deriving DecidableEq, Repr

/-- The slot of a sub-raft has issued: the next slot, or the end of the clause. One that goes on past a wait has issued
before (`issued` false), and counts in no SKID (R367). -/
def State.passSlot (s : State) (rid e : Nat) (fl : Flow) (issued : Bool := true) : State :=
  match s.raft? rid with
  | none => s
  | some r =>
    let r := { r with skid := if r.stopping.isSome && issued then r.skid + 1 else r.skid }
    match r.entry? e with
    | none => ((s.setRaft r).unrun rid e).settleStop rid
    | some en =>
      match en.clause with
      | none => ((s.setRaft r).unrun rid e).settleStop rid
      | some cl =>
        match fl with
        | .gone => ((s.setRaft r).unrun rid e).settleStop rid
        | .goto pc => ((s.setRaft (r.endClause e (some pc) s.clock)).unrun rid e).settleStop rid
        | .next =>
          if en.slot + 1 < cl.words.length then
            s.setRaft (r.setEntry e (some { en with
              slot := en.slot + 1, wait := .none, inside := true
              cover := match en.cover with
                | some k => if en.slot + 1 ≤ k.last then some k else none
                | none => none }))
          else ((s.setRaft (r.endClause e none s.clock)).unrun rid e).settleStop rid
        | .hold w =>
          let r1 := if en.slot + 1 < cl.words.length then r.setEntry e (some { en with slot := en.slot + 1, inside := true })
            else r.endClause e none s.clock
          ((s.setRaft (r1.setEntry e ((r1.entry? e).map (fun x => { x with wait := w })))).unrun rid e).settleStop rid

/-- A slot that cannot start: the sub-raft waits at it, off the quadrant (R54). Its wait counts from now. -/
def State.holdAt (s : State) (rid e : Nat) (w : Wait) : State :=
  ((s.mapEntry rid e (fun en => { en with wait := w, since := s.clock, inside := true, able := false })).unrun rid e).settleStop rid

/-! ### Mooring (R93, R141, R356) -/

/-- A raft that has a moored sub-raft is moored, since the time one first held. -/
def State.markMoored (s : State) (rid : Nat) : State :=
  s.mapRaft rid (fun r =>
    if r.subs.any (fun x => x.2.wait.isMoored) then { r with mooredAt := some (r.mooredAt.getD (s.cycles r.here)) }
    else { r with mooredAt := none, mooredSum := 0 })
/-- A sub-raft moors where it stands, with its age stopped (R141). -/
def State.moorWith (s : State) (rid e : Nat) (w : Wait) : State :=
  let s1 := (s.mapRaft rid (fun r => r.setEntry e ((r.entry? e).map (fun en =>
    { (if en.wait.isMoored || r.halted then en else en.turnAge s.clock) with wait := w })))).unrun rid e
  (s1.markMoored rid).settleStop rid
def State.moorAt (s : State) (rid e : Nat) (va : Option Nat) : State := s.moorWith rid e (.moored va)
/-- A sub-raft that waits moors, and goes on with its wait afterwards. -/
def State.moorIn (s : State) (rid e : Nat) (va : Option Nat) (back : Wait) : State := s.moorWith rid e (.mooredIn va back)

/-! ### Taking a trap, and the return (R364 to R377) -/

/-- A step that traps ends as such (R381): its operation returns TRAPPED, and the raft stops for the trap. -/
def State.trapStep (s : State) (team rid : Nat) : State :=
  match (s.team? team).bind (·.stepping) with
  | none => s
  | some st =>
    if st.raft ≠ rid then s
    else
      let s1 := (s.mapTeam team (fun t => { t with stepping := none })).mapRaft rid (fun r => { r with stopping := some 1, skid := 0 })
      (s1.debugs.filter (fun d => d.team == team && d.kind == 1 && d.status.isNone)).foldl (fun s d => s.endDebug d 8) s1

/-- TAKING A TRAP (R366, R370, R373): the record is written; the trapping raft, whose sub-raft in entry e has been
left at the trap point, and every other raft of the team stop; then the policy takes effect: KILL terminates the team
once it has stopped, NOTIFY and DEBUG report (DEDUCED, log entry 90). -/
def State.takeTrap (s : State) (rid : Nat) (e : Option Nat) (ti : TrapInfo) : State :=
  match s.raft? rid with
  | none => s
  | some r =>
    match s.team? r.team with
    | none => s
    | some t =>
      let policy := s.policyOf t
      let s1 := match e with
        | some k => s.unrun rid k
        | none => s
      let record := trapBytes t r policy (match e with | none => 0xFFFF | some k => passField r (some k)) ti
      let mail := reportBytes (trefOf t r.index) 1 ti.cause ti.slot false ti.pc.toNat ti.lanes.toNat 0 0
      let s2 := (s1.post ⟨t.asid, some record, if policy = 0 then none else some mail, true⟩).trapStep t.id rid
      if policy = 0 then
        let s3 := match s2.team? t.id with
          | some t' => s2.setTeam { t' with dying := some (t'.dying.getD ti.cause) }
          | none => s2
        -- a raft that halts last ends the team
        ((s3.stopTeam t.id 1).settleStop rid).settleTeam t.id
      else (s2.stopTeam t.id 1).settleStop rid

/-- A sub-raft left at its slot, off the quadrant, as at a precise trap. -/
def State.leaveAt (s : State) (rid e : Nat) : State :=
  (s.mapEntry rid e (fun en => { en with wait := .none, inside := true })).unrun rid e

/-- A precise trap of the instruction that issues (R364): it has no effect, and the trap point is its slot. Of a
uniform slot the record names the lane of R53 (R371). -/
def State.trapAt (s : State) (c : Ctx) (cause : Nat) (lanes : LaneMask) (addr aux : Nat) (detail : List Byte := []) : State :=
  let lanes := if c.uni then maskOf (c.lanes.take 1) else lanes
  (s.leaveAt c.r.id c.e).takeTrap c.r.id (some c.e)
    ⟨cause, 0, c.cl.pc, c.en.slot, lanes,
      if detail.isEmpty then detailOf c.cl.pc aux c.en.slot (opOf c.word).toNat addr c.word else detail⟩

/-- A deferred fault raised at a trap point of a sub-raft (R179, R364), and the work that carried it gone. -/
def State.raiseAt (s : State) (rid e : Nat) (pc : DWord) (slot : Nat) (d : Deferral) (isOp : Bool) (id : Nat) : State :=
  let s1 := if isOp then s.dropOp id else s.dropReq id
  (s1.mapEntry rid e (fun en => { en with wait := .none })).takeTrap rid (some e)
    ⟨d.cause, 1, pc, slot, d.lanes,
      if d.detail.isEmpty then detailOf d.pc 0 d.slot (opOf d.instr).toNat d.addr d.instr else d.detail⟩

/-- THE RETURN FROM A TRAP or halt (R373, R380): what DBGRES names goes on where it stopped. Every sub-raft's next
clause is one on which no breakpoint hits (R378), and ages go on (R368). -/
def State.resumeRaft (s : State) (rid : Nat) : State :=
  s.mapRaft rid (fun r =>
    if r.halted then
      { r with
        halted := false, stopping := none, skid := 0
        mooredAt := r.mooredAt.map (fun _ => s.cycles r.here)
        split := (r.turnAges s.clock).split.map (fun x => x.map (fun en => { en with fresh := true })) }
    else r)

/-! ### Issuing an instruction -/

/-- What an instruction does when it issues. -/
inductive Res where
  /-- It takes effect. -/
  | done (s : State) (fl : Flow)
  /-- It traps precisely with no effect: cause, lanes, address and AUX (R372). -/
  | trap (cause : Nat) (lanes : LaneMask) (addr aux : Nat)
  /-- As `trap`, from a state in which the check has read memory, with a detail of its own. -/
  | trapIn (s : State) (cause : Nat) (lanes : LaneMask) (addr aux : Nat) (detail : List Byte)
  /-- Its slot cannot start now. -/
  | stall (s : State) (w : Wait)
  /-- A deferred fault is raised at it (R179). -/
  | raise (s : State) (d : Deferral) (isOp : Bool) (id : Nat)
  /-- It has no effect, and its team has been stopped at it (R379); or it has stopped its team and is complete (R384). -/
  | stop (s : State)
  /-- It waits at its slot for an effect that it has begun (R382). -/
  | stay (s : State)
  deriving DecidableEq, Repr

/-- The streams that some operands read. -/
def streamsOf (os : List Opd) : List Nat := (List.range 4).filter (fun k => os.any (fun o => o.rd && overlaps o.first.toNat o.n (444 + k) 1))
/-- The streams that an instruction's sources name; a uniform instruction without an enabled lane reads none (R53, R57)
(DEDUCED, log entry 28). -/
def Ctx.streamsRead (c : Ctx) (i : Instr) : List Nat := if c.uni && c.lanes.isEmpty then [] else streamsOf (opds i)

/-- The walks that an issued instruction has read advance, once each (R135). -/
def State.stepStreams (s : State) (rid : Nat) (ks : List Nat) : State :=
  s.mapRaft rid (fun r => ks.foldl Raft.stepStream r)
/-- The walks of a raft as they stood when an instruction of it came to its slot: one that stops without effect has read
nothing (R55, R135). -/
def Ctx.unread (c : Ctx) (s : State) : State := s.mapRaft c.r.id (fun r => { r with s := c.r.s, streams := c.r.streams })
/-- A WAITMEM, QUOTA or MIGRATE whose wait is over goes on; it has issued when the wait began. -/
def State.passWait (s : State) (rid e : Nat) : State := s.passSlot rid e .next false
/-- An instruction that has issued after a stop reached its raft counts in SKID (R367). -/
def State.countSkid (s : State) (rid : Nat) : State :=
  s.mapRaft rid (fun r => if r.stopping.isSome then { r with skid := r.skid + 1 } else r)

/-- The walks advance before the instruction writes its registers, so that its own write to a stream register stands
(R135); what it reads is what the walks stood at. -/
def State.issueWith (s : State) (c : Ctx) (i : Instr) (body : State → Ctx → Res) : State :=
  match c.refuse i with
  | some cause => s.trapAt c cause c.active 0 0
  | none =>
    match s.interlock c (opds i) with
    | .wait => s.holdAt c.r.id c.e (if s.emptyAhead c (opds i) then .empty else .slot)
    | .moor => s.moorAt c.r.id c.e none
    | .raise d isOp id => s.raiseAt c.r.id c.e c.cl.pc c.en.slot d isOp id
    | .free =>
      match body (s.stepStreams c.r.id (c.streamsRead i)) c with
      | .done s1 fl => s1.passSlot c.r.id c.e fl
      | .trap cause lanes addr aux => s.trapAt c cause lanes addr aux
      | .trapIn s1 cause lanes addr aux detail =>
        ({ s1 with rafts := s.rafts } : State).trapAt c cause lanes addr aux detail
      | .stall s1 (.moored va) => ({ s1 with rafts := s.rafts } : State).moorAt c.r.id c.e va
      | .stall s1 w =>
        if w.begun then (s1.countSkid c.r.id).holdAt c.r.id c.e w else ({ s1 with rafts := s.rafts } : State).holdAt c.r.id c.e w
      | .raise s1 d isOp id => ({ s1 with rafts := s.rafts } : State).raiseAt c.r.id c.e c.cl.pc c.en.slot d isOp id
      | .stop s1 => s1
      | .stay s1 => (c.unread s1).holdAt c.r.id c.e .slot

/-- An instruction issues for the sub-raft whose turn it is; where none is issuing, nothing happens (DESIGN CHOICE, log entry 1). -/
def issue (i : Instr) (s : State) (body : State → Ctx → Res) : Out :=
  match s.ctx with
  | none => .next s
  | some c => .next (s.issueWith c i body)

/-- A source operand in a lane, read through its renaming and permute (R59, R134): `x` the permute code, `k` its
parameter. Permutes read a lane whatever its state. -/
def permLane (x k w i : Nat) : Nat :=
  match x with
  | 1 => k % w
  | 2 => (i + k) % w
  | 3 => Nat.xor i (k % w)
  | 4 => w - 1 - i
  | 5 => i / 4 * 4 + k % 4
  | 6 => if i + k ≥ w then i else i + k
  | _ => i

/-- A source register's value in a lane, from the contents at issue. -/
def Ctx.src (c : Ctx) (s : State) (n : RegNum) (x : BitVec 3) (k : BitVec 6) (lane : Nat) : Nat :=
  (s.readReg c.r c.t (c.reg n) (permLane x.toNat k.toNat c.r.width lane)).toNat
/-- The register that follows within a group; ZERO stands for every word of a wide zero. -/
def nextReg (n : RegNum) (j : Nat) : RegNum := if Kind.of n = .zero then n else n + BitVec.ofNat 9 j
/-- A pair's value. CYCLE is sampled once (R57). -/
def Ctx.src64 (c : Ctx) (s : State) (n : RegNum) (x : BitVec 3) (k : BitVec 6) (lane : Nat) : Nat :=
  let l := permLane x.toNat k.toNat c.r.width lane
  (s.readReg c.r c.t (c.reg n) l).toNat + 2 ^ 32 * (s.readReg c.r c.t (nextReg (c.reg n) 1) l).toNat
/-- A predicate source in a lane. -/
def Ctx.pred (c : Ctx) (n : RegNum) (lane : Nat) : Bool := (c.r.preg (n.toNat - 480)).getLsbD lane

/-- An s register, pair or word of a descriptor, as read at issue. -/
def Ctx.sval (c : Ctx) (n : RegNum) : Word := if Kind.of n = .zero then 0 else c.r.sreg (n.toNat - 384)
def Ctx.sval64 (c : Ctx) (n : RegNum) : DWord := c.sval (nextReg n 1) ++ c.sval n
def Ctx.swords (c : Ctx) (n : RegNum) (count : Nat) : List Word := (List.range count).map (fun j => c.sval (nextReg n j))

/-- Results written to a destination (R53, R143): `val` is the value of a lane. In a uniform slot, and for an s
destination, the lowest enabled lane's value is written, to every enabled lane or once; with no enabled lane nothing is. -/
def Ctx.put (c : Ctx) (s : State) (d : RegNum) (val : Nat → List Word) : State :=
  match c.lanes with
  | [] => s
  | l :: ls =>
    s.mapRaft c.r.id (fun r =>
      if Kind.of d = .scl then r.setGroup d l (val l)
      else r.setLanes (c.reg d) (if c.uni then fun _ => val l else val) (l :: ls))
/-- A predicate result written (R53, R143). -/
def Ctx.putP (c : Ctx) (s : State) (d : RegNum) (val : Nat → Bool) : State :=
  match c.lanes with
  | [] => s
  | l :: ls =>
    let bits := if c.uni then (if val l then c.active else 0) else maskOf ((l :: ls).filter val)
    s.mapRaft c.r.id (fun r => r.setP (d.toNat - 480) (maskOf (l :: ls)) bits)

/-- A 32-bit or 64-bit result as registers. -/
def words1 (x : Nat) : List Word := [BitVec.ofNat 32 x]
def words2 (x : Nat) : List Word := [BitVec.ofNat 32 x, BitVec.ofNat 32 (x / 2 ^ 32)]
def wordsW (w : Bool) (x : Nat) : List Word := if w then words2 x else words1 x

end Sys2Proof.Machine
end

