-- ==== Sys2Proof/Machine/Control.lean ====
section
/-!
DEFINITION. The issue engine's own work (chapter 05): clause fetch and start, branches and joins, counters and batches,
waits and releases, barriers and memory waits, the spindle, streams, REORDER, QUOTA and YIELD.
-/

namespace Sys2Proof.Machine

open Sys2Proof

/-! ### Fetch (R48 to R51) -/

/-- The number of instructions that a header names. -/
def hdrCount (hdr : DWord) : Nat := field hdr.toNat 3 0 + 1
/-- The class of slot i: 0 VEC, 1 MEM, 2 ASYNC, 3 CTRL. -/
def hdrClass (hdr : DWord) (i : Nat) : Nat := field hdr.toNat (5 + 2 * i) (4 + 2 * i)
/-- The fates of a header (R48). -/
def hdrOk (hdr : DWord) : Bool :=
  let n := hdrCount hdr
  field hdr.toNat 63 58 == 0 &&
  (List.range 16).all (fun i =>
    let cls := hdrClass hdr i
    let unif := hdr.getLsbD (36 + i)
    if i < n then (!unif || cls ≤ 1) && (cls != 3 || i + 1 == n) else !unif && cls == 0)
/-- The class that an assigned OP belongs to; NOP and unassigned values stand anywhere (R50). -/
def wordClass (w : DWord) : Option Nat :=
  let op := (opOf w).toNat
  match decodeFields w with
  | .error .unassignedOp => none
  | _ => if op = 0xC0 then none else some (if op < 0x80 then 0 else if op < 0xA0 then 1 else if op < 0xC0 then 2 else 3)
/-- A fetched clause passes the checks of R51. -/
def Clause.ok (cl : Clause) : Bool :=
  hdrOk cl.hdr && (numbered cl.words).all (fun (i, w) => match wordClass w with
    | none => true
    | some k => k == hdrClass cl.hdr i)

/-- What a fetch gives. -/
inductive Fetched where
  | clause (cl : Clause)
  | moor (va : Nat)
  | wait
  /-- The cause, the address of the word that the fetch failed at, and the header word where it was read, else 0. -/
  | fault (cause addr : Nat) (hdr : DWord)
  deriving DecidableEq, Repr

/-- A word read for execution: the value that its home holds now, also where it has been stored to since the launch was
dispatched (DESIGN CHOICE, log entry 91). -/
def State.fetchWord (s : State) (asid : Nat) (pc : DWord) : State × Verdict × DWord :=
  match s.readAt asid pc.toNat 8 .fetch with
  | (s1, .ok, bs) => (s1, .ok, BitVec.ofNat 64 (ofBytes bs))
  | (s1, v, _) => (s1, v, 0)
/-- The words of a clause's slots. -/
def State.fetchWords (asid : Nat) (pc : DWord) : Nat → State → State × Verdict × List DWord
  | 0, s => (s, .ok, [])
  | n + 1, s =>
    match s.fetchWord asid pc with
    | (s1, .ok, w) =>
      match State.fetchWords asid (pc + 8) n s1 with
      | (s2, v, ws) => (s2, v, w :: ws)
    | (s1, v, _) => (s1, v, [])
/-- All the words of a clause (R49) (DEDUCED, log entry 44). An address that is not canonical names the line of its low 57
bits (DESIGN CHOICE, log entry 92). -/
def State.fetchClause (s : State) (asid : Nat) (pc : DWord) : State × Fetched :=
  match s.fetchWord asid pc with
  | (s1, .ok, hdr) =>
    match State.fetchWords asid (pc + 8) (hdrCount hdr) s1 with
    | (s2, .ok, ws) => (s2, .clause ⟨pc, hdr, ws⟩)
    | (s2, .wait, _) => (s2, .wait)
    | (s2, .moor, ws) => (s2, .moor (pc.toNat + 8 + 8 * ws.length))
    | (s2, .fault c, ws) => (s2, .fault c (pc.toNat + 8 + 8 * ws.length) hdr)
  | (s1, .wait, _) => (s1, .wait)
  | (s1, .moor, _) => (s1, .moor pc.toNat)
  | (s1, .fault c, _) => (s1, .fault c pc.toNat 0)

/-- A clause trap at a header (R49, R51, R364 KIND 2); ADDR is the address that a fetch failed at (R372). -/
def State.trapHeader (s : State) (r : Raft) (e : Nat) (en : Entry) (cause addr : Nat) (hdr : DWord) : State :=
  s.takeTrap r.id (some e) ⟨cause, 2, en.pc, 0, en.mask, detailOf en.pc 0 0 (opOf hdr).toNat addr hdr⟩

/-- CLAUSE_FETCH: all words of a sub-raft's next clause, and its checks (R49, R51). -/
def execClauseFetch (raft ent : Nat) (s : State) : Out :=
  .next (match s.raft? raft with
    | none => s
    | some r =>
      match s.team? r.team, r.entry? ent with
      | some t, some en =>
        if en.clause.isSome || en.wait != .none || r.halted || r.migrating || r.stopping.isSome && !s.stepGoes r || t.stowed.isSome then s
        else
          match s.fetchClause t.asid en.pc with
          | (s1, .clause cl) =>
            if cl.ok then s1.mapEntry raft ent (fun x => { x with clause := some cl, since := s.clock })
            else s1.trapHeader r ent en 2 0 cl.hdr
          | (s1, .moor va) => s1.moorAt raft ent (some va)
          | (s1, .wait) => s1
          | (s1, .fault cause addr hdr) => s1.trapHeader r ent en cause addr hdr
      | _, _ => s)

/-! ### Waits, releases and what they cover (R52, R84, R85, R124, R416) -/

/-- A load, an atomic's returning half, or BAR.arrive's reply (R52, R124). -/
def Req.isLoad (q : Req) : Bool := match q.kind with
  | .load _ _ | .loadRec _ _ _ | .atom _ | .cas _ => true
  | .arrive _ ent => ent.isNone
  | _ => false
/-- A store, SETFE, RROT, or an atomic's writing half (R52, R124, R205). -/
def Req.isStore (q : Req) : Bool := match q.kind with
  | .store | .setfe _ | .rrot | .atom _ | .cas _ => true
  | _ => false
/-- An operation whose D counts as a load's destination: FQUEUE and MSTAT (R52, R124). -/
def Op.loadsD (o : Op) : Bool := match o.instr with
  | .fqueue _ | .mstat _ => (match o.dest with | some d => Kind.of d.first != .zero | none => false)
  | _ => false

/-- The work of a raft behind the six counters (R124): counter k, as blocks. -/
def State.counterWork (s : State) (rid k : Nat) : List Block :=
  match k with
  | 4 => (s.reqs.filter (fun q => q.raft == rid && q.isLoad)).map Req.block ++
         (s.ops.filter (fun o => o.raft == some rid && o.loadsD)).map s.opBlock
  | 5 => (s.reqs.filter (fun q => q.raft == rid && q.isStore)).map Req.block
  | _ => (s.ops.filter (fun o => o.raft == some rid && o.cls == k)).map s.opBlock

/-- A piece of work that is not complete: a faulted one has stopped. -/
def Block.pending (b : Block) : Bool := match b with
  | .raise _ _ _ => false
  | _ => true
/-- A request carries the lanes that a request still in flight has left to it: the two are one access (R93, R124). -/
def State.shadow (s : State) (q : Req) : Bool := q.twin.any (fun i => s.reqs.any (fun x => x.id == i && x.fault.isNone))
/-- Counter k of a raft (R124). -/
def State.counter (s : State) (rid k : Nat) : Nat :=
  ((s.counterWork rid k).filter Block.pending).length -
    (s.reqs.filter (fun q => q.raft == rid && q.fault.isNone && (k == 4 && q.isLoad || k == 5 && q.isStore) && s.shadow q)).length

/-- The operations of a raft's batch h. -/
def State.batchOps (s : State) (rid : Nat) (h : Word) : List Op := s.ops.filter (fun o => o.raft == some rid && o.batch == h)
/-- The operations of a raft's closed batches. -/
def State.closedOps (s : State) (r : Raft) : List Op := s.ops.filter (fun o => o.raft == some r.id && o.batch != r.batchCount)
/-- The closed batches that are incomplete (R125). -/
def State.openBatches (s : State) (r : Raft) : List Word :=
  (((s.closedOps r).filter (fun o => o.fault.isNone)).map (·.batch)).eraseDups

/-- What a header's waits cover (R52, R416). -/
def State.headerWork (s : State) (r : Raft) (hdr : DWord) : List Block :=
  (if hdr.getLsbD 52 then s.counterWork r.id 4 else []) ++ (if hdr.getLsbD 53 then s.counterWork r.id 5 else []) ++
  ((s.closedOps r).filter (fun o => hdr.getLsbD (54 + o.cls))).map s.opBlock

/-- What a release with a tag mask orders before it, and the raft's earlier ordered accesses (R84, R85)
(DEDUCED, log entry 52). -/
def State.releaseWork (s : State) (rid : Nat) (mask : BitVec 8) : List Block :=
  (s.reqs.filter (fun q => q.raft == rid && q.beforeRelease mask)).map Req.block ++
  (s.ops.filter (fun o => o.raft == some rid && (o.tags &&& mask) != 0)).map s.opBlock
/-- What an acquire fence waits for: the reads that stand before it (R83), those in the replay list too
(DEDUCED, log entry 29). -/
def State.acquireWork (s : State) (rid : Nat) : List Block :=
  (((s.reqs.filter (fun q => q.raft == rid && q.isLoad)).map Req.block).filter Block.pending).map (fun _ => .wait)

/-- A block as the result of an instruction that waits at its slot; free goes on. -/
def Block.orElse (b : Block) (s : State) (go : Res) : Res :=
  match b with
  | .free => go
  | .wait => .stall s .slot
  | .moor => .stall s (.moored none)
  | .raise d isOp id => .raise s d isOp id

/-- A range of a virtual tag, for L1 drops (R85, R86). -/
def TagBind.virtRange : TagBind → Option (Nat × Nat)
  | .virt lo n => some (lo, n)
  | .record 0 _ lo n => some (lo, n)
  | _ => none
/-- The bound virtual ranges of a raft, as tag, start and length. -/
def Raft.virtBinds (r : Raft) : List (Nat × Nat × Nat) :=
  (numbered r.tags).filterMap (fun (i, b) => (b.bind TagBind.virtRange).map (fun x => (i + 1, x)))
/-- The lines of a core's L1 that a mask names, with these bindings, dropped; tag 0 names every line of the ASID that no
bound tag covers (R85). -/
def State.dropNamed (s : State) (core asid : Nat) (bound : List (Nat × Nat × Nat)) (mask : BitVec 8) : State :=
  let hits (l : L1Line) (x : Nat × Nat) := overlaps (128 * l.line) 128 (va57 x.1) x.2
  { s with l1 := s.l1.filter (fun l =>
      !(l.core == core && l.asid == asid &&
        (bound.any (fun (i, x) => mask.getLsbD i && hits l x) ||
         (mask.getLsbD 0 && !(bound.any (fun (_, x) => inside (128 * l.line) 128 (va57 x.1) x.2)))))) }
/-- The scope at which a team's synchronisation is performed: team scope as cluster scope for a team pair (R77), and for a
team with a raft in a landing slot, whose rafts share no L1 (R91, R397) (DEDUCED, log entry 107). -/
def State.scopeOf (s : State) (team n : Nat) : Nat :=
  if n = 1 && ((s.team? team).any (fun t => t.kernel.pair) || (s.raftsOf team).any (fun r => r.landed.isSome)) then 2 else n
/-- An acquire's L1 drop, at cluster scope or above (R85). -/
def State.acquireDrop (s : State) (r : Raft) (asid scope : Nat) (mask : BitVec 8) : State :=
  if s.scopeOf r.team scope < 2 then s else s.dropNamed r.here asid r.virtBinds mask
/-- The L1's copies of the lines of some bytes leave a core: it has read or written them at their home (R80, R81). -/
def State.dropRead (s : State) (core asid va n : Nat) : State :=
  { s with l1 := s.l1.filter (fun l => !(l.core == core && l.asid == asid && overlaps (128 * l.line) 128 (va57 va) n)) }
/-- A store of the core, of whatever raft, shows in its L1 and has not been performed (R80, R81). -/
def State.earlyOn (s : State) (core asid va n : Nat) : Bool :=
  s.reqs.any (fun x => x.early && x.core == core && x.fault.isNone && x.parts.any (fun y => match y.space with
    | .virt b => s.meets asid va n b y.addr y.len
    | .tile _ => false))

/-! ### Starting a clause (R52, R105, R378) -/

/-- A breakpoint of a DEBUG team names the clause that a sub-raft is about to start (R378). -/
def State.breakHit (s : State) (t : Team) (en : Entry) : Option Nat :=
  if s.policyOf t = 2 && !en.inside && !en.fresh && t.stepping.isNone then
    ((numbered t.breaks).find? (fun (_, b) => b.getLsbD 0 && (b &&& ~~~1#64) == en.pc)).map (·.1)
  else none

/-- What a quadrant would do with a sub-raft whose clause is fetched: nothing while a wait stands (R105). -/
def State.startBlock (s : State) (r : Raft) (en : Entry) : Block :=
  match en.clause with
  | none => .wait
  | some cl => if en.inside then .free else worst (s.headerWork r cl.hdr)

/-- A change that lets some work of a raft complete: sub-rafts whose header waits it meets become ready, and their ages
count from now (R105) (DEDUCED, log entry 19). -/
def State.nowReady (s t : State) (rid : Nat) : State :=
  t.mapRaft rid (fun r => { r with split := r.split.map (fun x => x.map (fun en =>
    if en.wait = .none ∧ r.halted = false ∧ s.startBlock r en = .wait ∧ t.startBlock r en ≠ .wait then { en with since := t.clock } else en)) })

/-- The clause holds a vector slot, so that it starts only with a current reservation (R404). -/
def Entry.needsVec (en : Entry) : Bool := match en.clause with
  | some cl => (List.range cl.words.length).any (fun i => hdrClass cl.hdr i == 0)
  | none => false

/-- Cycles per beat of a vector instruction (R147). -/
def beatCycles (i : Instr) : Nat :=
  match i with
  | .iadd f | .isub f | .imul f | .imad f | .imin f | .imax f | .iabs f | .and f | .or f | .xor f | .andn f | .shl f | .shr f | .sar f
  | .rotl f | .popc f | .clz f | .brev f | .bfe f | .bfi f | .icmp f | .sel f | .mov f => if f.w then 2 else 1
  | .frcp _ | .frsq _ | .fexp2 _ | .flog2 _ | .fsin _ | .fcos _ | .dadd _ | .dmul _ | .dfma _ => 4
  | .fsqrt _ | .fdiv _ => 8
  | .cvt _ => (opds i).foldl (fun m o => max m o.n) 1
  | _ => 1
/-- The cycles that the vector slots among the first n of a clause occupy their quadrant (R147, R404). -/
def Clause.vecCycles (cl : Clause) (width n : Nat) : Nat :=
  total ((numbered (cl.words.take n)).map (fun (i, w) =>
    if hdrClass cl.hdr i ≠ 0 then 0
    else
      let c := match decodeFields w with
        | .ok x => beatCycles x
        | .error _ => 1
      if cl.hdr.getLsbD (36 + i) then c else width / 16 * c))

/-- The reservations that a sub-raft needs to run the slot it stands at (R404): one for a clause that holds vector slots, and
one more at each boundary of 256 cycles of theirs. -/
def Entry.needs (en : Entry) (width : Nat) : Nat := match en.clause with
  | some cl => if en.needsVec then max 1 (ceilDiv (cl.vecCycles width (en.slot + 1)) 256) else 0
  | none => 0

/-- A sub-raft that a quadrant may take up: neither waiting nor moored, of a team on its core that is not stopped. -/
def State.startable (s : State) (core quad : Nat) : List (Raft × Nat × Entry) :=
  (s.rafts.filter (fun r => r.here == core && r.quad == quad && !r.halted && !r.migrating && (r.stopping.isNone || s.stepGoes r) &&
    (match s.team? r.team with | some t => t.stowed.isNone | none => false))).flatMap (fun r =>
      (r.subs.filter (fun x => x.2.clause.isSome && decide (x.2.needs r.width ≤ x.2.resv) && (x.2.wait == .none || x.2.wait == .slot || x.2.wait == .spindle || x.2.wait == .empty) &&
        (match s.team? r.team with
         | some t => (match t.stepping with
           | some st => st.raft == r.id && st.ent == x.1
           | none => true) && ((s.breakHit t x.2).isSome || s.startBlock r x.2 != .wait)
         | none => false))).map (fun x => (r, x.1, x.2)))

/-- The lowest lane of a mask. -/
def lowestLane (m : LaneMask) : Nat := ((lanesOf 64 m).head?).getD 64

/-- A breakpoint stops the team (R366, R378) and posts BREAK (R377). -/
def State.breakStop (s : State) (t : Team) (r : Raft) (en : Entry) (n : Nat) : State :=
  (s.report t.asid (reportBytes (trefOf t r.index) 2 0 0 false en.pc.toNat en.mask.toNat 0 n)).stopTeam t.id 2

/-- CLAUSE_START: the quadrant takes up the ready sub-raft of greatest age (R105); a tie that R105 leaves between two
teams' rafts goes to the older raft (DESIGN CHOICE, log entry 93). A quadrant whose clause runs takes the next turn with
it. -/
def execClauseStart (core quad : Nat) (s : State) : Out :=
  .next (match s.running.find? (fun x => match s.raft? x.1 with | some r => r.here == core && r.quad == quad | none => false) with
    | some x => { s with running := x :: s.running.filter (fun y => y != x) }
    | none =>
      match leastByKeys (fun (x : Raft × Nat × Entry) =>
          [x.2.2.since, if x.1.landed.isSome then 1 else 0, x.1.index, lowestLane x.2.2.mask, x.1.id]) (s.startable core quad) with
      | none => s
      | some (r, e, en) =>
        match s.team? r.team with
        | none => s
        | some t =>
          match s.breakHit t en with
          | some n => s.breakStop t r en n
          | none =>
            match s.startBlock r en with
            | .wait => s
            | .moor => s.moorAt r.id e none
            | .raise d isOp id => s.raiseAt r.id e en.pc 0 d isOp id
            | .free =>
              let s1 := s.mapEntry r.id e (fun x => { x with wait := .none, inside := true, fresh := if x.inside then x.fresh else false })
              let s2 := match t.stepping with
                | some st => s1.setTeam { t with stepping := some { st with started := true } }
                | none => s1
              { s2 with running := (r.id, e) :: s2.running })

/-! ### Branches, joins and calls (R110 to R122) -/

/-- The target of OFF24 (R63). -/
def offTarget (c : Ctx) (off : BitVec 24) : DWord := c.cl.pc + (off.signExtend 64) * 8

/-- NOP (R122). -/
def execNop (f : CF) (s : State) : Out := issue (.nop f) s (fun s1 _ => .done s1 .next)

/-- BRU (R114). -/
def execBru (f : CF) (s : State) : Out :=
  issue (.bru f) s (fun s1 c =>
    let taken (b : Bool) : Res := .done s1 (if b != f.fn.getLsbD 0 then .goto (offTarget c f.off) else .next)
    if Kind.of f.a = .pred then
      let ps := c.lanes.map (c.pred f.a)
      if ps.any id && !ps.all id then .trap 16 c.active 0 0 else taken ((ps.head?).getD false)
    else taken (c.sval f.a != 0))

/-- The split of a sub-raft into groups (R115, R118): the first keeps the entry; later ones take free entries in
order, and what is left is pushed so that the first of them is on top. -/
def Raft.spread (r : Raft) (jid : BitVec 8) (now : Nat) : List (DWord × LaneMask) → Raft
  | [] => r
  | (pc, m) :: rest =>
    match r.freeEntry with
    | some e => Raft.spread (r.setEntry e (some (Entry.at pc m now))) jid now rest
    | none => { r with stack := ((pc, m) :: rest).map (fun x => ⟨x.1, x.2, jid⟩) ++ r.stack }

/-- The checks of a split (R115): a record for J, and room in the tables for the groups beyond the first. -/
def Raft.splitOverflow (r : Raft) (jid : BitVec 8) (extra : Nat) : Bool :=
  (!r.joins.any (fun j => j.jid == jid) && r.joins.length == 8) ||
  decide (32 < r.stack.length + (extra - (4 - r.subs.length)))

/-- Record J expects these lanes too, if it is live; a split creates it (R115). -/
def Raft.expectLanes (r : Raft) (jid : BitVec 8) (m : LaneMask) (create : Bool) : Raft :=
  if r.joins.any (fun j => j.jid == jid) then
    { r with joins := r.joins.map (fun j => if j.jid = jid then { j with expect := j.expect ||| m } else j) }
  else if create then { r with joins := r.joins ++ [⟨jid, m, 0, none⟩] }
  else r

/-- The groups of a divergent branch, in order: the first stays in the issuing sub-raft (R115, R118). -/
def splitTo (c : Ctx) (s : State) (jid : BitVec 8) (stay : Option DWord) (keep : LaneMask) (rest : List (DWord × LaneMask)) : Res :=
  let flow : Flow := match stay with
    | some pc => .goto pc
    | none => .next
  if rest.isEmpty then
    .done (s.mapRaft c.r.id (fun r => r.expectLanes jid c.en.mask false)) flow
  else if c.r.splitOverflow jid rest.length then .trap 17 c.en.mask 0 jid.toNat
  else
    .done (s.mapRaft c.r.id (fun r =>
      ((r.expectLanes jid c.en.mask true).setEntry c.e (some { c.en with mask := keep })).spread jid s.clock rest)) flow

/-- BRD (R115). -/
def execBrd (f : CF) (s : State) : Out :=
  issue (.brd f) s (fun s1 c =>
    let p := c.r.preg (f.a.toNat - 480)
    let t := c.en.mask &&& (if f.fn.getLsbD 0 then ~~~p else p)
    let fall := c.en.mask &&& ~~~t
    let target := offTarget c f.off
    if t = 0 then splitTo c s1 f.jid none c.en.mask []
    else if fall = 0 then splitTo c s1 f.jid (some target) c.en.mask []
    else splitTo c s1 f.jid none fall [(target, t)])

/-- JOIN (R116). -/
def execJoin (f : CF) (s : State) : Out :=
  issue (.join f) s (fun s1 c =>
    match c.r.joins.find? (fun j => j.jid == f.jid) with
    | none => .done s1 .next
    | some j =>
      let next := c.cl.nextPc
      if j.cont.isSome && j.cont != some next then .trap 19 c.en.mask 0 f.jid.toNat
      else
        let parked : Raft := { (c.r.setEntry c.e none) with
          joins := c.r.joins.map (fun k => if k.jid = f.jid then
            { k with cont := some next, expect := k.expect ||| c.en.mask, arrived := k.arrived ||| c.en.mask } else k) }
        let r' := parked.settle s1.clock
        if r'.deadlocked then .trap 18 c.en.mask 0 f.jid.toNat
        else .done ((s1.unrun c.r.id c.e).setRaft r') .gone)

/-- JMP (R117). -/
def execJmp (f : CF) (s : State) : Out := issue (.jmp f) s (fun s1 c => .done s1 (.goto (offTarget c f.off)))

/-- A computed target of the whole sub-raft, checked (R63, R120). -/
def jumpTo (s : State) (c : Ctx) (target : DWord) (go : Res) : Res :=
  if target.toNat % 8 ≠ 0 then .trap 1 c.en.mask target.toNat 0
  else if !canonical target.toNat then .trap 5 c.en.mask target.toNat 0
  else match go with
    | .done s1 _ => .done s1 (.goto target)
    | _ => .done s (.goto target)

/-- JMPI (R118). -/
def execJmpi (f : CF) (s : State) : Out := issue (.jmpi f) s (fun s1 c => jumpTo s1 c (c.sval64 f.a) (.done s1 .next))

/-- The lanes of a sub-raft grouped by target, ranked by their lowest lane (R118). -/
def targetGroups (lanes : List Nat) (target : Nat → DWord) : List (DWord × LaneMask) :=
  ((lanes.map target).eraseDups).map (fun pc => (pc, maskOf (lanes.filter (fun l => target l == pc))))

/-- JMPI_DIV (R118, R120). -/
def execJmpiDiv (f : CF) (s : State) : Out :=
  issue (.jmpiDiv f) s (fun s1 c =>
    let lanes := lanesOf c.r.width c.en.mask
    let target (l : Nat) : DWord := BitVec.ofNat 64 (c.src64 s1 f.a 0 0 l)
    let odd := lanes.filter (fun l => (target l).toNat % 8 != 0)
    let wild := lanes.filter (fun l => !canonical (target l).toNat)
    if !odd.isEmpty then .trap 1 (maskOf odd) (target (odd.headD 0)).toNat 0
    else if !wild.isEmpty then .trap 5 (maskOf wild) (target (wild.headD 0)).toNat 0
    else
      match targetGroups lanes target with
      | [] => .done s1 .next
      | [(pc, _)] => .done s1 (.goto pc)
      | (pc, m) :: rest => splitTo c s1 f.jid (some pc) m rest)

/-- The link of a call, written (R119). -/
def linkTo (s : State) (c : Ctx) (d : RegNum) : State := c.put s d (fun _ => words2 c.cl.nextPc.toNat)
/-- CALL (R119). -/
def execCall (f : CF) (s : State) : Out := issue (.call f) s (fun s1 c => .done (linkTo s1 c f.d) (.goto (offTarget c f.off)))
/-- CALL_IND (R119). -/
def execCallInd (f : CF) (s : State) : Out :=
  issue (.callInd f) s (fun s1 c => jumpTo s1 c (c.sval64 f.a) (.done (linkTo s1 c f.d) .next))
/-- RET (R120). -/
def execRet (f : CF) (s : State) : Out := issue (.ret f) s (fun s1 c => jumpTo s1 c (c.sval64 f.a) (.done s1 .next))

/-- EXIT's effect on the raft: the lanes end, records forget them, merges and pops follow (R121). -/
def Raft.exitLanes (r : Raft) (e : Nat) (m : LaneMask) (now : Nat) : Raft :=
  let r1 : Raft := { (r.setEntry e none) with live := r.live &&& ~~~m, joins := r.joins.map (fun j => { j with expect := j.expect &&& ~~~m }) }
  r1.settle now

/-- EXIT (R121); a deferred fault that nothing has raised is raised here when the last lane ends (R416)
(DEDUCED, log entry 45). -/
def execExit (f : CF) (s : State) : Out :=
  issue (.exit f) s (fun s1 c =>
    let r' := c.r.exitLanes c.e c.en.mask s1.clock
    if r'.deadlocked then .trap 18 c.en.mask 0 0
    else
      let faults := worst (((s1.reqs.filter (fun q => q.raft == c.r.id)).map Req.block ++
        (s1.ops.filter (fun o => o.raft == some c.r.id)).map s1.opBlock).filter (fun b => !b.pending))
      match r'.live == 0, faults with
      | true, .raise d isOp id => .raise s1 d isOp id
      | last, _ =>
        -- a lease ends when its raft exits (R406)
        let s2 : State := if last then { s1 with leases := s1.leases.filter (fun l => l.raft != c.r.id) } else s1
        .done ((s2.unrun c.r.id c.e).setRaft { (r' : Raft) with exitAt := if last then some (c.cl.pc, c.en.slot) else none }) .gone)

/-- RAFT_FREE: an exited raft whose outstanding work is complete gives back its registers and context; its last raft
ends the team (R121). A fault or an absent page among the work acts at the EXIT (R93, R416). A raft of a dying team is
freed with its team (R374). -/
def execRaftFree (raft : Nat) (s : State) : Out :=
  .next (match s.raft? raft with
    | none => s
    | some r =>
      match s.team? r.team with
      | none => s
      | some t =>
        if t.dying.isSome then s.settleTeam t.id
        else
          match r.exitAt with
          | none => s
          | some (pc, slot) =>
            if r.halted || r.stopping.isSome || t.stowed.isSome then s
            else
              match worst ((s.reqs.filter (fun q => q.raft == raft)).map Req.block ++ (s.ops.filter (fun o => o.raft == some raft)).map s.opBlock) with
              | .free =>
                let s1 : State := { s with rafts := s.rafts.filter (fun x => x.id != raft), leases := s.leases.filter (fun l => l.raft != raft) }
                if (s1.raftsOf t.id).isEmpty then s1.endTeam t false else s1
              | .wait => s
              | .moor => s.mapRaft raft (fun x => { x with mooredAt := some (x.mooredAt.getD (s.cycles x.here)) })
              | .raise d isOp id => s.raiseAt raft 4 pc slot d isOp id)

/-! ### Batches and completion waits (R125 to R128) -/

/-- BATCH (R126). -/
def execBatch (f : AF) (s : State) : Out :=
  issue (.batch f) s (fun s1 c =>
    if 16 ≤ (s1.openBatches c.r).length then .stall s1 .slot
    else
      let s2 := s1.mapRaft c.r.id (fun r => { r with batchCount := r.batchCount + 1 })
      .done (if Kind.of f.d = .scl then s2.mapRaft c.r.id (fun r => r.setS (f.d.toNat - 384) c.r.batchCount) else s2) .next)

/-- WAITC (R127, R416). -/
def execWaitc (f : CF) (s : State) : Out :=
  issue (.waitc f) s (fun s1 c =>
    let named := (List.range 6).filter (fun k => f.off.getLsbD k)
    let n := field f.off.toNat 23 8
    if n = 0 then (worst (named.flatMap (s1.counterWork c.r.id))).orElse s1 (.done s1 .next)
    else if total (named.map (s1.counter c.r.id)) ≤ n then .done s1 .next
    else .stall s1 .slot)

/-- WAITB (R128). -/
def execWaitb (f : CF) (s : State) : Out :=
  issue (.waitb f) s (fun s1 c =>
    let h := c.sval f.a
    if (h - c.r.batchCount).toNat < 2 ^ 31 then .trap 20 c.active 0 0
    else (worst ((s1.batchOps c.r.id h).map s1.opBlock)).orElse s1 (.done s1 .next))
/-- WAITB_KEEP: the return covers every closed batch that is complete (R128, R416). -/
def execWaitbKeep (f : CF) (s : State) : Out :=
  issue (.waitbKeep f) s (fun s1 c =>
    let still := s1.openBatches c.r
    if field f.off.toNat 3 0 < still.length then .stall s1 .slot
    else (worst (((s1.closedOps c.r).filter (fun o => !still.contains o.batch)).map s1.opBlock)).orElse s1 (.done s1 .next))

/-! ### Barriers and memory waits (R129 to R132) -/

/-- The fields of a barrier that its lathe unit reads and writes (R129). -/
structure Barrier where
  arrived : Nat
  expected : Nat
  tx : Nat
  gen : Word
  waiters : Nat
  deriving DecidableEq, Repr

/-- The object's bytes as fields. -/
def Barrier.ofBytes (b : List Byte) : Barrier :=
  let at_ (o n : Nat) := Machine.ofBytes ((b.drop o).take n)
  ⟨at_ 0 4, at_ 4 4, at_ 8 8, BitVec.ofNat 32 (at_ 16 4), at_ 24 32⟩
/-- The fields written over the object's bytes; reserved bytes are never written. -/
def Barrier.into (x : Barrier) (b : List Byte) : List Byte :=
  overlay (overlay (overlay b 0 (toBytes 4 x.arrived)) 8 (toBytes 8 x.tx ++ toBytes 4 x.gen.toNat)) 24 (toBytes 32 x.waiters)

/-- The completion check: the new object and the cores that are told (R130). -/
def Barrier.check (x : Barrier) : Barrier × List Nat :=
  if 1 ≤ x.expected ∧ x.arrived = x.expected ∧ x.tx = 0 then
    ({ x with arrived := 0, gen := x.gen + 1, waiters := 0 }, (List.range 256).filter (fun c => x.waiters.testBit c))
  else (x, [])
/-- An arrival (R130): none where it is one too many; else the new object, the cores told, and the GEN it replies. -/
def Barrier.arrive (x : Barrier) (txb : Nat) : Option (Barrier × List Nat × Word) :=
  if x.expected ≤ x.arrived then none
  else
    let y := { x with tx := (x.tx + txb) % 2 ^ 64, arrived := x.arrived + 1 }
    some (y.check.1, y.check.2, x.gen)
/-- A credit of bytes (R130). -/
def Barrier.credit (x : Barrier) (bytes : Nat) : Barrier × List Nat := ({ x with tx := (x.tx + 2 ^ 64 - bytes % 2 ^ 64) % 2 ^ 64 } : Barrier).check

/-- Wake notices on their way to cores (R130). -/
def State.sendWakes (s : State) (asid va : Nat) (cores : List Nat) : State :=
  { s with
    notices := s.notices ++ (numbered cores).map (fun (i, k) => ⟨s.nextId + i, .wake k asid va⟩)
    nextId := s.nextId + cores.length }

/-- The common checks of BAR (R131): converged, canonical, aligned; then the release with mask 0xFF (R91). The arrival sets out once
the link to its home is clear (R24). -/
def barrierIssue (i : Instr) (f : CF) (s : State) (ent : Ctx → Option Nat) (dest : Ctx → Option Dest) : Out :=
  issue i s (fun s1 c =>
    let va := (c.sval64 f.a).toNat
    let txb := (c.sval (nextReg f.a 2)).toNat
    if !c.r.converged then .trap 16 c.active 0 0
    else if !canonical va then .trap 5 c.active va 0
    else if va % 64 ≠ 0 then .trap 7 c.active va 0
    else if (ent c).isNone && decide (65535 ≤ s1.counter c.r.id 4) then .stall s1 .slot
    else
      (worst (s1.releaseWork c.r.id 0xFF)).orElse s1 (
        let q : Req :=
          { id := s1.nextId, raft := c.r.id, core := c.r.here, kind := .arrive txb (ent c), acq := false, rel := true
            scope := field f.off.toNat 2 0, mask := 0xFF, lanes := c.active, dest := dest c
            parts := [⟨0, .virt c.t.asid, va, 64, 0, none⟩], data := [], got := [], tags := 0, tagLanes := [], binds := []
            missed := [], twin := none, born := s1.nextId, early := false, checked := false, replay := false, fault := none, pc := c.cl.pc, slot := c.en.slot, instr := c.word }
        let s2 : State := { s1 with reqs := s1.reqs ++ [q], nextId := s1.nextId + 1 }
        if !s1.sendable q then .stall s1 .slot
        else match ent c with
        | none => .done s2 .next
        | some _ => .done ((s2.mapEntry c.r.id c.e (fun en => { en with wait := .barrier va none })).unrun c.r.id c.e) .gone))

/-- BAR_SYNC: the sub-raft waits at the BAR until the phase has completed (R131). -/
def execBarSync (f : CF) (s : State) : Out := barrierIssue (.barSync f) f s (fun c => some c.e) (fun _ => none)
/-- BAR_ARRIVE: D receives the phase when the reply returns (R131). -/
def execBarArrive (f : CF) (s : State) : Out :=
  barrierIssue (.barArrive f) f s (fun _ => none) (fun c => some ⟨f.d, 1, c.active, true, 384⟩)

/-! ### Raft areas of stow frames (R360) -/

/-- STATE codes of R360: a sub-raft whose header's waits are not met waits (R106), one that waits at a slot until it could
start, and so does an exited raft. One whose next clause is still to be fetched shows as ready (DEDUCED, log entry 41). -/
def State.entryState (s : State) (r : Raft) (en : Entry) : Nat := if r.halted then 4 else match en.wait with
  | .none => if en.clause.isSome && s.startBlock r en == .wait then 1 else 0
  | .slot | .spindle | .empty => if en.able then 0 else 1
  | .moored _ | .mooredIn _ _ => 3
  | _ => 1
def State.raftState (s : State) (r : Raft) : Nat :=
  if r.halted then 4 else if r.mooredAt.isSome then 3 else if r.exitAt.isSome then 1 else if r.subs.isEmpty then 2
  else if r.subs.any (fun x => s.entryState r x.2 == 0) then 0 else 1
/-- Entries of a raft's replay list (R355). -/
def State.replayEntries (s : State) (rid : Nat) : Nat :=
  (s.reqs.filter (fun q => q.raft == rid && q.replay)).length + (s.ops.filter (fun o => o.raft == some rid && o.replay)).length
/-- Words of 8 bytes laid side by side. -/
def dwords (xs : List Nat) : List Byte := xs.flatMap (toBytes 8)
/-- No page serves an address now: it is marked, or a walk finds none (R93). -/
def State.absent (s : State) (asid va : Nat) : Bool :=
  (s.l2At asid va).isNone && (s.marked asid va ||
    ((s.tlbAt (s.homeOf asid va) asid va).isNone && (match s.walk asid va with | .absent _ _ _ => true | _ => false)))
/-- A part whose page is not resident. -/
def State.partAbsent (s : State) (p : Part) : Bool := match p.space with
  | .virt asid => s.absent asid p.addr
  | .tile _ => false
/-- The page of a raft's oldest replay entry: the first of its pages that is not resident (R360). -/
def State.faultVa (s : State) (rid : Nat) : Nat :=
  let reqs := (s.reqs.filter (fun q => q.raft == rid && q.replay)).filterMap (fun q =>
    (((q.parts.find? s.partAbsent).or q.parts.head?)).map (fun p => (q.id, p.addr)))
  let ops := (s.ops.filter (fun o => o.raft == some rid && o.replay)).filterMap (fun o => o.susp.map (fun va => (o.id, va)))
  match leastBy (fun (x : Nat × Nat) => x.1) (reqs ++ ops) with
  | some x => x.2 / 65536 * 65536
  | none => 0
/-- A bound tag as R360 shows it. -/
def tagDwords : Option TagBind → List Nat
  | some (.virt lo n) => [1, lo, n, 0]
  | some (.tile lo n) => [2, lo, n, 0]
  | some (.record _ _ lo n) => [3, lo, n, 0]
  | none => [0, 0, 0, 0]
/-- The 4 KiB area of a raft whose v registers lie at `vbase` of the slot (R360). -/
def State.raftArea (s : State) (r : Raft) (vbase moored : Nat) : List Byte :=
  let split := (List.range 4).flatMap (fun e => match r.entry? e with
    | some en => [en.pc.toNat, en.mask.toNat, en.slot % 16 + s.entryState r en * 16, 0]
    | none => [0, 0, 0, 0])
  let joins := (List.range 8).flatMap (fun j => match r.joins[j]? with
    | some x => [x.jid.toNat + 256, x.expect.toNat, x.arrived.toNat, (x.cont.getD 0).toNat]
    | none => [0, 0, 0, 0])
  let defers := (List.range 32).flatMap (fun k => match r.stack.reverse[k]? with
    | some d => [d.pc.toNat, d.mask.toNat, d.jid.toNat]
    | none => [0, 0, 0])
  let head := dwords [vbase * 2 ^ 32 + r.count * 32 + r.quad * 8 + r.width / 32 * 2 + 1, r.live.toNat,
    moored % 2 ^ 32 * 2 ^ 32 + s.replayEntries r.id * 256 + s.raftState r, r.haltPc.toNat, r.haltInfo.toNat, s.faultVa r.id, 0, 0]
  let upto (n : Nat) (b : List Byte) := (b ++ toBytes n 0).take n
  upto 4096 (
    upto 0x780 (upto 0x500 (head ++ dwords split ++ dwords joins ++ dwords (r.stack.length :: defers)) ++
      (List.range 64).flatMap (fun k => toBytes 4 (r.sreg k).toNat) ++ dwords ((List.range 8).map (fun k => (r.preg k).toNat)) ++
      (List.range 64).map (fun l => BitVec.ofNat 8 (r.origin.getD l 0)) ++ (List.range 64).flatMap (fun l => toBytes 4 (sget r.srUse l).toNat)) ++
    upto 0x20 ((List.range 6).flatMap (fun k => toBytes 2 (s.counter r.id k)) ++ toBytes 4 r.batchCount.toNat ++ toBytes 4 r.drain.toNat) ++
    dwords (r.tags.flatMap tagDwords))
/-- The v registers of a raft as a slot holds them (R361). -/
def Raft.vBytes (r : Raft) : List Byte :=
  (List.range r.count).flatMap (fun k => (List.range r.width).flatMap (fun l => toBytes 4 (r.vreg k l).toNat))
/-- The live rafts of a team on its core number i, each with the slot offset of its v registers (R360). -/
def State.slotRafts (s : State) (t : Team) (i : Nat) : List (Raft × Nat) :=
  ((s.raftsOf t.id).filter (fun r => r.index / 32 == (if t.kernel.pair then i else r.index / 32))).foldl
    (fun acc r => acc ++ [(r, 0x240000 + total (acc.map (fun x => x.1.count * x.1.width * 4)))]) []
/-- A raft's area and registers written into its team's frame (R20, R360). -/
def State.saveRaft (s : State) (st : Stow) (i : Nat) (x : Raft × Nat) : State :=
  let at_ := s.slotAt (st.slots.getD i 0)
  (s.physPut (at_ + 0x1000 + 0x1000 * (x.1.index % 32)) (s.raftArea x.1 x.2 (if x.1.mooredAt.isSome then x.1.mooredSum else 0))).physPut (at_ + x.2) x.1.vBytes
/-- What has reached a stowed raft shows in its frame (R20). -/
def State.refresh (s : State) (rid : Nat) : State :=
  match (s.raft? rid).bind (fun r => s.team? r.team) with
  | none => s
  | some t =>
    match t.stowed with
    | none => s
    | some st =>
      (List.range t.cores.length).foldl (fun s i => ((s.slotRafts t i).filter (fun x => x.1.id == rid)).foldl (fun s x => s.saveRaft st i x) s) s

/-- A reply written to its destination in the raft that waits for it, if that raft still lives (R53, R124). -/
def State.deliver (s : State) (rid : Nat) (d : Dest) (val : Nat → List Word) : State :=
  State.refresh (rid := rid) <| s.mapRaft rid (fun r =>
    let r' := { r with count := min r.count (if Kind.of d.first = Kind.vec then d.cap else r.count) }
    let lanes := lanesOf 64 d.lanes
    match lanes with
    | [] => r
    | l :: _ =>
      let w := if Kind.of d.first = .scl then r'.setGroup d.first l (val l)
        else r'.setLanes d.first (if d.uniform then fun _ => val l else val) lanes
      { w with count := r.count })

/-- A sub-raft's wait at a barrier is over: the acquire of R91, and the sub-raft goes on past the BAR (R131). -/
def State.leaveBarrier (s : State) (r : Raft) (e : Nat) (asid scope : Nat) : State :=
  (s.acquireDrop r asid scope 0xFF).passSlot r.id e .next false

/-- A raft's request becomes an entry of its replay list, or carries a deferred fault (R93, R179) (DEDUCED, log entry 46). -/
def State.failReq (s : State) (q : Req) (v : Verdict) (lanes : LaneMask) (addr : Nat) : State :=
  match v with
  | .moor => s.parkReq { q with replay := true }
  | .fault cause => s.parkReq { q with fault := some ⟨cause, q.pc, q.slot, lanes, addr, q.instr, []⟩ }
  | _ => s

/-- BARRIER_ARRIVE: an arrival performed at the barrier's home (R130, R131). One too many traps at the BAR; where the
arrival does not complete the phase, the same step sets the waiter's bit. -/
def execBarrierArrive (req : Nat) (s : State) : Out :=
  .next (match s.req? req with
    | none => s
    | some q =>
      match q.kind, q.parts with
      | .arrive txb ent, [⟨_, .virt asid, va, _, _, _⟩] =>
        if q.replay || q.fault.isSome then s
        else
          match s.readAt asid va 64 .write with
          | (s1, .ok, bytes) =>
            match (Barrier.ofBytes bytes).arrive txb with
            | none =>
              let s2 := s1.dropReq q.id
              match ent with
              | some e =>
                (s2.mapEntry q.raft e (fun en => { en with wait := .none })).takeTrap q.raft (some e)
                  ⟨21, 0, q.pc, q.slot, q.lanes, detailOf q.pc 0 q.slot (opOf q.instr).toNat va q.instr⟩
              | none =>
                s2.takeTrap q.raft none ⟨21, 0, q.pc, q.slot, q.lanes, detailOf q.pc 0 q.slot (opOf q.instr).toNat va q.instr⟩
            | some (b, told, g) =>
              let complete := b.gen != g
              let b' := if ent.isSome && !complete then { b with waiters := Nat.lor b.waiters (2 ^ (q.core % 256)) } else b
              let s2 := (((s1.writeAt asid va (b'.into bytes) true).1.sendWakes asid va told).dropReq q.id).dropRead q.core asid va 64
              let s3 := match ent, q.dest with
                | some e, _ =>
                  match s2.raft? q.raft with
                  | none => s2
                  | some r =>
                    if complete && !r.halted && r.stopping != some 5 then s2.leaveBarrier r e asid q.scope
                    else
                      -- a halted raft reads GEN when it goes on, and so does one whose step the BAR ends (R381)
                      (if complete then s2.sendWakes asid va [q.core] else s2).mapEntry q.raft e (fun en => { en with wait := .barrier va (some g) })
                | none, some d => (s1.nowReady s2 q.raft).deliver q.raft d (fun _ => [g])
                | none, none => s2
              s3.settleStop q.raft
          | (s1, .moor, _) =>
            let s2 := s1.parkReq { q with replay := true }
            match ent with
            | some e => s2.moorAt q.raft e none
            | none => s2
          | (s1, .fault cause, _) =>
            let d : Deferral := ⟨cause, q.pc, q.slot, q.lanes, va, q.instr, []⟩
            match ent with
            | some e => (s1.parkReq { q with fault := some d }).raiseAt q.raft e q.pc q.slot d false q.id
            | none => s1.parkReq { q with fault := some d }
          | (s1, .wait, _) => s1
      | _, _ => s)

/-- The raft may be told of a completion that lets it issue on. -/
def Raft.hears (r : Raft) : Bool := !r.halted && (r.stopping.isNone || r.stopping == some 5)

/-- The word that a sub-raft stands at. -/
def Entry.slotWord (en : Entry) : DWord := ((en.clause.bind (fun cl => cl.words[en.slot]?))).getD 0
/-- A fault of a word that a waiting sub-raft reads again: its trap point is the slot at which it waits (R131, R132, R179). -/
def State.trapWaiting (s : State) (rid e : Nat) (en : Entry) (cause va : Nat) : State :=
  let pc := (en.clause.map (·.pc)).getD en.pc
  s.takeTrap rid (some e) ⟨cause, 1, pc, en.slot, en.mask, detailOf pc 0 en.slot (opOf en.slotWord).toNat va en.slotWord⟩
/-- A raft that waits on a barrier object reads GEN again, and goes on where it has changed (R130, R131). A page that is not
resident moors it, one without read permission traps it at the BAR, and its wait goes on afterwards. False where the read is
still to be made: behind a hold, or after the trap. -/
def State.rereadBarrier (s : State) (rid e asid : Nat) : State × Bool :=
  match s.raft? rid with
  | none => (s, true)
  | some r =>
    match r.entry? e with
    | some en =>
      match en.wait with
      | .barrier va (some g) =>
        if !r.hears then (s, false)
        else
          match s.readAt asid (va + 16) 4 .read with
          | (s1, .ok, bs) =>
            let s2 := s1.dropRead r.here asid (va + 16) 4
            (if BitVec.ofNat 32 (ofBytes bs) = g then s2 else s2.leaveBarrier r e asid (field en.slotWord.toNat 42 40), true)
          | (s1, .moor, _) => (s1.moorIn rid e (some (va + 16)) en.wait, true)
          | (s1, .fault cause, _) => (s1.trapWaiting rid e en cause (va + 16), false)
          | (s1, .wait, _) => (s1, false)
      | _ => (s, true)
    | none => (s, true)

/-- A raft on a core with a sub-raft that waits on a barrier object, its arrival performed, in a team that is not stowed. The
raft may name the object through a synonym (R76). -/
def State.waitsOn (s : State) (core asid va : Nat) (r : Raft) : Bool :=
  r.here == core && (match s.team? r.team with
    | some t => t.stowed.isNone && r.subs.any (fun x => match x.2.wait with
      | .barrier a (some _) => s.sameByte t.asid a asid va
      | _ => false)
    | none => false)
/-- The ASID of a raft. -/
def State.asidOf (s : State) (r : Raft) : Nat := ((s.team? r.team).map (·.asid)).getD 0
/-- WAKE_NOTICE: the rafts of a core that wait on the object read GEN again; a notice for a core whose team has gone
is dropped (R20, R130). One that finds a waiting raft halted, or a read that has to wait, stays until it can act (R294). -/
def execWakeNotice (notice : Nat) (s : State) : Out :=
  .next (match s.notices.find? (fun n => n.id == notice) with
    | some ⟨_, .wake core asid va⟩ =>
      let ready := s.rafts.filter (s.waitsOn core asid va)
      if ready.any (fun r => !r.hears) then s
      else
        match ready.foldl (fun (acc : State × Bool) r => r.subs.foldl (fun acc x =>
            let (s1, made) := acc.1.rereadBarrier r.id x.1 (s.asidOf r)
            (s1, acc.2 && made)) acc) (s, true) with
        | (s1, true) => { s1 with notices := s1.notices.filter (fun n => n.id != notice) }
        | (s1, false) => s1
    | _ => s)

/-- The conditions of WAITMEM (R132). -/
def waitCond (cond x d : Nat) : Bool :=
  match cond with
  | 0 => x != d
  | 1 => x == d
  | 2 => decide (d ≤ x)
  | _ => decide (x < d)

/-- The lathe unit of a line: a bank, or one of the far port's 16 (R264, R275); of an uncached-shared page the bank that
the frame's physical address selects (R76, R265). -/
def State.unitOf (s : State) (asid va : Nat) : Nat :=
  match s.frameOf asid va with
  | some pa => 32 * (physUnit pa).1 + (physUnit pa).2
  | none =>
    let die := s.homeOf asid va
    if die = 8 then 256 + field (va57 va) 10 7 else 32 * die + hashBank asid (va57 va)

/-- A watch registered for a raft or an FQUEUE, if one of the unit's 48 entries is free (R277). -/
def State.watchFor (s : State) (asid va : Nat) (target : Target) : State :=
  let u := s.unitOf asid va
  let mine := s.watches.filter (fun w => w.unit == u && (match w.target with | .wait _ _ | .fqueue _ | .peer _ _ => true | _ => false))
  if 48 ≤ mine.length || s.watches.any (fun w => w.asid == asid && w.line == va57 va / 128 && w.target == target) then s
  else { s with watches := s.watches ++ [⟨asid, va57 va / 128, u, target⟩] }

/-- Atomics, which race with no other (R87), and ordered accesses: a raft's are performed in program order. -/
def Req.ordered (q : Req) : Bool := q.acq || q.rel || (match q.kind with
  | .atom _ | .cas _ => true
  | _ => false)
/-- What a WAITMEM's read of its word stands behind: its raft's accesses to those bytes (R79), its atomics and ordered
accesses (R84, R87), and stores of its core that L1 already shows (R80). Of the replay list's, an access to those bytes
moors it, and the others stand before nothing (R93) (DEDUCED, log entry 108). -/
def State.waitmemBlock (s : State) (r : Raft) (asid va n : Nat) : Block :=
  worst ((s.reqs.filter (fun q => q.raft == r.id && q.fault.isNone)).map (fun q =>
      if q.parts.any (fun p => s.shares (.virt asid) va n p.space p.addr p.len) then q.block
      else if q.ordered && !q.replay then .wait else .free) ++
    [if s.earlyOn r.here asid va n then .wait else .free])
/-- One read of a waited word (R132): the wait ends, or a watch is registered and the wait counts anew. The core's L1 copy
of the word's line is dropped (R81). -/
def State.rereadWord (s : State) (rid e asid : Nat) : State :=
  match s.raft? rid with
  | none => s
  | some r =>
    match r.entry? e with
    | some en =>
      match en.wait with
      | .mem va n cond value scope _ =>
        match s.waitmemBlock r asid va n with
        | .wait => s
        | .free =>
          match s.readAt asid va n .read with
          | (s0, .ok, bs) =>
            let s1 := s0.dropRead r.here asid va n
            if waitCond cond (ofBytes bs) value then (s1.acquireDrop r asid scope 0xFF).passWait rid e
            else (s1.watchFor asid va (.wait rid e)).mapEntry rid e (fun x => { x with wait := .mem va n cond value scope (s.cycles r.here) })
          | (s1, .moor, _) => s1.moorIn rid e (some va) en.wait
          | (s1, .fault cause, _) => s1.trapWaiting rid e en cause va
          | (s1, .wait, _) => s1
        | _ => s.moorIn rid e none en.wait
      | _ => s
    | none => s

/-- WAITMEM (R132) (DEDUCED, log entry 47). -/
def execWaitmem (f : CF) (s : State) : Out :=
  issue (.waitmem f) s (fun s1 c =>
    let va := (c.sval64 f.a).toNat
    let n := if f.fn.getLsbD 2 then 8 else 4
    let value := if f.fn.getLsbD 2 then (c.sval64 f.d).toNat else (c.sval f.d).toNat
    let scope := field f.off.toNat 2 0
    if !canonical va then .trap 5 c.active va 0
    else if va % n ≠ 0 then .trap 7 c.active va 0
    else
      (s1.waitmemBlock c.r c.t.asid va n).orElse s1 (
      match s1.readAt c.t.asid va n .read with
      | (s0, .ok, bs) =>
        let s2 := s0.dropRead c.r.here c.t.asid va n
        if waitCond (field f.fn.toNat 1 0) (ofBytes bs) value then .done (s2.acquireDrop c.r c.t.asid scope 0xFF) .next
        else .stall (s2.watchFor c.t.asid va (.wait c.r.id c.e)) (.mem va n (field f.fn.toNat 1 0) value scope (s.cycles c.r.here))
      | (s2, .moor, _) => .stall s2 (.moored (some va))
      | (s2, .fault cause, _) => .raise s2 ⟨cause, c.cl.pc, c.en.slot, c.active, va, c.word, []⟩ false s2.nextId
      | (s2, .wait, _) => .stall s2 .slot))

/-- The read of a sub-raft at WAITMEM has to wait, for its raft's own accesses or for a hold. -/
def State.wordWaits (s : State) (r : Raft) (e asid : Nat) : Bool := match (r.entry? e).map (·.wait) with
  | some (Wait.mem va n _ _ _ _) => s.waitmemBlock r asid va n == .wait || s.held asid va
  | _ => false
/-- WRITE_NOTICE: a fired watch's notice reaches a WAITMEM, which reads its word again (R132), or goes to the peer whose
claim it answers (R400). -/
def execWriteNotice (notice : Nat) (s : State) : Out :=
  .next (match s.notices.find? (fun n => n.id == notice) with
    | some ⟨_, .fired (.peer m a)⟩ =>
      ({ s with notices := s.notices.filter (fun n => n.id != notice) } : State).replyPeer ⟨m, a, 3, []⟩
    | some ⟨_, .fired (.wait rid e)⟩ =>
      let s1 : State := { s with notices := s.notices.filter (fun n => n.id != notice) }
      match s.raft? rid with
      | none => s1
      | some r =>
        match s.team? r.team with
        | none => s1
        | some t => if t.stowed.isSome then s1 else if r.hears && !s.wordWaits r e t.asid then s1.rereadWord rid e t.asid else s
    | _ => s)

/-- WAITMEM_RETRY: after 4,096 cycles the word is read again (R132). -/
def execWaitmemRetry (raft ent : Nat) (s : State) : Out :=
  .next (match s.raft? raft with
    | none => s
    | some r =>
      match s.team? r.team, r.entry? ent with
      | some t, some en =>
        match en.wait with
        | .mem _ _ _ _ _ since =>
          if r.hears && t.stowed.isNone && decide (4096 ≤ s.elapsed r.here since) then s.rereadWord raft ent t.asid else s
        | _ => s
      | _, _ => s)

/-! ### The spindle and streams (R133 to R137) -/

/-- What a body clause may hold (R134): VEC, MEM, ASYNC and PBLK, and NOP, WAITC, WAITB or YIELD in a CTRL slot. Of the
words that are no instruction, one with an OP of a CTRL or SYS instruction's range is refused here, at the LOOP, and one of a
lower OP raises ILLOP when it issues (DESIGN CHOICE, log entry 109). -/
def bodyOk (cl : Clause) : Bool :=
  cl.words.all (fun w =>
    let op := (opOf w).toNat
    decide (op < 0xC0) || op == 0xC0 || op == 0xC9 || op == 0xCA || op == 0xD1)

/-- What a capture gives. -/
inductive Capture where
  | body (cls : List Clause)
  | moor (va : Nat)
  | wait
  /-- NOEXEC or PTE_FORMAT at a fetch, ILLCLAUSE of a clause, or ILLOP: the cause, the clause's address and header, and
  the address that a fetch failed at. -/
  | fail (cause : Nat) (pc hdr : DWord) (addr : Nat)
  deriving DecidableEq, Repr

/-- The capture of n clauses from an address, each checked by R51 and then by R134 (R133). -/
def State.capture (asid : Nat) : Nat → DWord → State → State × Capture
  | 0, _, s => (s, .body [])
  | n + 1, pc, s =>
    match s.fetchClause asid pc with
    | (s1, .clause cl) =>
      if !cl.ok then (s1, .fail 2 pc cl.hdr 0)
      else if !bodyOk cl then (s1, .fail 1 pc cl.hdr 0)
      else
        match State.capture asid n cl.nextPc s1 with
        | (s2, .body rest) => (s2, .body (cl :: rest))
        | r => r
    | (s1, .moor va) => (s1, .moor va)
    | (s1, .wait) => (s1, .wait)
    | (s1, .fault cause addr _) => (s1, .fail cause pc 0 addr)

/-- The address past the last clause of a body. -/
def bodyEnd (cls : List Clause) (dflt : DWord) : DWord := match cls.getLast? with
  | some cl => cl.nextPc
  | none => dflt

/-- LOOP in both modes (R133, R134): `until?` the stream and flag, `count` the passes of count mode. -/
def loopIssue (i : Instr) (f : CF) (s : State) (until? : Option (Nat × Nat)) (count : Ctx → Nat) : Out :=
  issue i s (fun s1 c =>
    let unbound := match until? with
      | some (k, _) => ((c.r.streams[k]?).getD none).isNone
      | none => false
    if unbound || decide (c.r.count < f.d.toNat + f.jid.toNat) then .trap 1 c.active 0 0
    else if c.r.spindle.isSome then .stall s1 .spindle
    else
      match State.capture c.t.asid (field f.off.toNat 2 0 + 1) c.cl.nextPc s1 with
      | (s2, .body cls) =>
        match decide (count c = 0) && until?.isNone, cls with
        | false, first :: _ =>
          let sp : Spindle := ⟨c.e, cls, f.d.toNat, f.jid.toNat, field f.off.toNat 7 4, until?, count c, 0, 0⟩
          .done ((s2.mapRaft c.r.id (fun r => { r with
              spindle := some sp
              split := setAt r.split c.e (some (c.en.spin first s2.clock)) })).unrun c.r.id c.e) .gone
        | _, _ => .done s2 (.goto (bodyEnd cls c.cl.nextPc))
      | (s2, .moor va) => .stall s2 (.moored (some va))
      | (s2, .wait) => .stall s2 .slot
      | (s2, .fail cause pc hdr addr) =>
        .trapIn s2 cause c.active 0 0 (detailOf pc 0 c.en.slot (opOf c.word).toNat addr (if cause = 2 then hdr else if cause = 4 then 0 else c.word)))

/-- LOOP (R133). -/
def execLoop (f : CF) (s : State) : Out := loopIssue (.loop f) f s none (fun c => (c.sval f.a).toNat)
/-- LOOP_UNTIL (R133). -/
def execLoopUntil (f : CF) (s : State) : Out :=
  loopIssue (.loopUntil f) f s (some (field f.off.toNat 9 8, field f.off.toNat 11 10)) (fun _ => 0)

/-- STRM (R137). -/
def execStrm (f : CF) (s : State) : Out :=
  issue (.strm f) s (fun s1 c =>
    let w := c.swords f.a 8
    let k := f.fn.toNat % 4
    let at_ (j : Nat) := w.getD j 0
    let dims := (at_ 7).toNat
    let zero (j : Nat) := at_ j == 0
    if dims < 1 || 3 < dims || zero 1 || (2 ≤ dims && zero 3) || (dims == 3 && zero 5) then .trap 1 c.active 0 0
    else
      let walk : Walk := ⟨at_ 0, (at_ 1).toNat, (at_ 3).toNat, (at_ 5).toNat, at_ 2, at_ 4, at_ 6, dims, 0, 0, 0, false, false, false⟩
      .done (s1.mapRaft c.r.id (fun r => { r with s := sset r.s (60 + k) (at_ 0), streams := setAt r.streams k (some walk) })) .next)
/-- STRM_OFF (R137). -/
def execStrmOff (f : CF) (s : State) : Out :=
  issue (.strmOff f) s (fun s1 c => .done (s1.mapRaft c.r.id (fun r => { r with streams := setAt r.streams (f.fn.toNat % 4) none })) .next)

/-! ### REORDER, QUOTA, YIELD (R138 to R140) -/

/-- REORDER's moves: lane q takes what lane src held (R138). -/
def Raft.moveLanes (r : Raft) (old : Raft) (d n : Nat) : List (Nat × Nat) → Raft
  | [] => r
  | (q, src) :: rest =>
    let r1 := (span d n).foldl (fun (x : Raft) reg => { x with v := sset x.v (vKey reg q) (old.vreg reg src) }) r
    let r2 := (List.range 8).foldl (fun (x : Raft) k => x.setP k (maskOf [q]) (if (old.preg k).getLsbD src then maskOf [q] else 0)) r1
    Raft.moveLanes { r2 with origin := setAt r2.origin q src } old d n rest

/-- A result that names a register; one to ZERO is discarded (R56). -/
def Dest.real (d : Option Dest) : Bool := d.any (fun x => Kind.of x.first != .zero)
/-- REORDER (R138) (DEDUCED, log entry 89). -/
def execReorder (f : CF) (s : State) : Out :=
  issue (.reorder f) s (fun s1 c =>
    if !c.r.converged then .trap 16 c.active 0 0
    else
      (worst ((s1.reqs.filter (fun q => q.raft == c.r.id && Dest.real q.dest)).map Req.block ++
        (s1.ops.filter (fun o => o.raft == some c.r.id && Dest.real o.dest)).map s1.opBlock)).orElse s1 (
        let live := lanesOf c.r.width c.r.live
        let order := sortBy (fun l => (c.r.vreg f.a.toNat l).toNat) live
        let kept := maskOf (List.range live.length)
        .done (s1.mapRaft c.r.id (fun r =>
          let r1 := r.moveLanes c.r f.d.toNat f.off.toNat (numbered order)
          { (r1.setEntry c.e (some { c.en with mask := kept })) with live := kept })) .next))

/-- A count lowered: registers go back, and pending writes into them are discarded (R139). -/
def State.lowerCount (s : State) (rid n : Nat) : State :=
  let cut (d : Dest) : Dest := if Kind.of d.first = .vec then { d with cap := min d.cap n } else d
  { (s.mapRaft rid (fun r => { r with count := n, v := r.v.filter (fun x => decide (x.1 < vKey n 0)) })) with
    reqs := s.reqs.map (fun q => if q.raft = rid then { q with dest := q.dest.map cut } else q)
    ops := s.ops.map (fun o => if o.raft = some rid then { o with dest := o.dest.map cut } else o) }

/-- QUOTA (R139); PEER_GONE in a landing slot (R397). -/
def execQuota (f : CF) (s : State) : Out :=
  issue (.quota f) s (fun s1 c =>
    let n := if f.fn = 0 then f.off.toNat else (c.sval f.a).toNat
    let others := (s1.poolRafts c.r).length - 1
    if c.r.landed.isSome then .trap 12 c.active 0 0
    else if n = 0 ∨ 384 < n ∨ c.t.pool c.r < n + others then .trap 22 c.active 0 0
    else if n < c.r.count then
      if s1.ops.any (fun o => o.locks.any (fun (rid, reg) => rid == c.r.id && decide (n ≤ reg))) then .stall s1 .slot
      else .done (s1.lowerCount c.r.id n) .next
    else if n = c.r.count then .done s1 .next
    else .stall s1 (.quota n s.clock))

/-- QUOTA_GRANT: a waiting increase is granted, in arrival order among its pool's requests (R139); of a raft that has
landed meanwhile it raises PEER_GONE (R397). Where another sub-raft has raised the count beyond n meanwhile, the grant
lowers it to n (DESIGN CHOICE, log entry 94). -/
def execQuotaGrant (raft ent : Nat) (s : State) : Out :=
  .next (match s.raft? raft with
    | none => s
    | some r =>
      match s.team? r.team, r.entry? ent with
      | some t, some en =>
        match en.wait with
        | .quota n since =>
          let older := (s.poolRafts r).any (fun x => x.subs.any (fun y => match y.2.wait with
            | .quota _ t0 => decide (t0 < since) || (t0 == since && decide (x.id < r.id))
            | _ => false))
          if !r.hears || t.stowed.isSome then s
          else if r.landed.isSome then
            (s.leaveAt raft ent).takeTrap raft (some ent) ⟨12, 0, (en.clause.map (·.pc)).getD en.pc, en.slot, en.mask,
              detailOf ((en.clause.map (·.pc)).getD en.pc) 0 en.slot (opOf en.slotWord).toNat 0 en.slotWord⟩
          else if older || s.poolFree t r < n - r.count then s
          else (if n < r.count then s.lowerCount raft n else s.mapRaft raft (fun x => { x with count := n })).passWait raft ent
        | _ => s
      | _, _ => s)

/-- YIELD (R140). -/
def execYield (f : CF) (s : State) : Out :=
  issue (.yield f) s (fun s1 c => .done s1 (if f.off = 0 then .next else .hold (.yield f.off.toNat (s.cycles c.r.here))))
/-- YIELD_EXPIRY (R140). -/
def execYieldExpiry (raft ent : Nat) (s : State) : Out :=
  .next (match s.raft? raft with
    | none => s
    | some r =>
      match r.entry? ent with
      | some en =>
        match en.wait with
        | .yield n since => if n ≤ s.elapsed r.here since ∧ r.hears ∧ (s.team? r.team).all (fun t => t.stowed.isNone) then s.mapEntry raft ent (fun x => { x with wait := .none, since := s.clock }) else s
        | _ => s
      | none => s)

end Sys2Proof.Machine
end

