-- ==== Sys2Proof/Machine/Num.lean ====
section
/-!
DEFINITION. Number formats and rounding (R25 to R36, R46, R47): every finite value is an exact dyadic number, an
operation is exact, and its result is narrowed once. Square roots, quotients and the functions of R162 are narrowed
from exact quotients or from a bracket far finer than the format's grid.
-/

namespace Sys2Proof.Machine

/-- The floating-point formats of R27 (E8M0 scales apart). -/
inductive FFmt where
  | fp64 | fp32 | fp16 | bf16 | e4m3 | e5m2 | e2m1
  deriving DecidableEq, Repr

/-- Exponent bits, mantissa bits and bias (R27). -/
def FFmt.ebits : FFmt → Nat
  | .fp64 => 11 | .fp32 => 8 | .fp16 => 5 | .bf16 => 8 | .e4m3 => 4 | .e5m2 => 5 | .e2m1 => 2
def FFmt.mbits : FFmt → Nat
  | .fp64 => 52 | .fp32 => 23 | .fp16 => 10 | .bf16 => 7 | .e4m3 => 3 | .e5m2 => 2 | .e2m1 => 1
def FFmt.bias : FFmt → Nat
  | .fp64 => 1023 | .fp32 => 127 | .fp16 => 15 | .bf16 => 127 | .e4m3 => 7 | .e5m2 => 15 | .e2m1 => 1
/-- The code of the largest finite magnitude (R27). -/
def FFmt.maxCode : FFmt → Nat
  | .fp64 => 0x7FEFFFFFFFFFFFFF | .fp32 => 0x7F7FFFFF | .fp16 => 0x7BFF | .bf16 => 0x7F7F
  | .e4m3 => 0x7E | .e5m2 => 0x7B | .e2m1 => 7
/-- The canonical NaN (R28); a NaN carried into E2M1 becomes 0 (R35). -/
def FFmt.nanCode : FFmt → Nat
  | .fp64 => 0x7FF8000000000000 | .fp32 => 0x7FC00000 | .fp16 => 0x7E00 | .bf16 => 0x7FC0
  | .e4m3 => 0x7F | .e5m2 => 0x7E | .e2m1 => 0
/-- The width of an element, its sign bit included. -/
def FFmt.width (f : FFmt) : Nat := 1 + f.ebits + f.mbits
/-- The code of +Inf where the format has one (R27). -/
def FFmt.infCode (f : FFmt) : Nat := (2 ^ f.ebits - 1) * 2 ^ f.mbits
/-- FP64, FP32, FP16 and BF16, which keep infinities under saturation (R35). -/
def FFmt.wide : FFmt → Bool
  | .fp64 | .fp32 | .fp16 | .bf16 => true
  | _ => false

/-- A value: NaN, an infinity, or ± n · 2^e, exactly. -/
inductive FVal where
  | nan
  | inf (neg : Bool)
  | fin (neg : Bool) (n : Nat) (e : Int)
  deriving DecidableEq, Repr

/-- The value of a code (R27). -/
def FFmt.value (f : FFmt) (code : Nat) : FVal :=
  let neg := code.testBit (f.ebits + f.mbits)
  let ex := field code (f.ebits + f.mbits - 1) f.mbits
  let man := code % 2 ^ f.mbits
  let mag := code % 2 ^ (f.ebits + f.mbits)
  let isNan := match f with
    | .e4m3 => mag == 0x7F
    | .e2m1 => false
    | _ => ex == 2 ^ f.ebits - 1 && man != 0
  let isInf := match f with
    | .e4m3 | .e2m1 => false
    | _ => ex == 2 ^ f.ebits - 1 && man == 0
  if isNan then .nan
  else if isInf then .inf neg
  else if ex = 0 then .fin neg man (1 - (f.bias : Int) - f.mbits)
  else .fin neg (2 ^ f.mbits + man) ((ex : Int) - f.bias - f.mbits)

/-- Rounding modes (R31); stochastic rounding carries its 32 bits (R34). -/
inductive Rnd where
  | rne | rtz | rdn | rup
  | sr (bits : Nat)
  deriving DecidableEq, Repr

/-- The mode of a rounding code 0 to 3. -/
def Rnd.ofCode (c : Nat) : Rnd :=
  match c % 4 with
  | 0 => .rne
  | 1 => .rtz
  | 2 => .rdn
  | _ => .rup

/-- The quotient n / d (d > 0), of the given sign, rounded to a natural magnitude. -/
def roundQuot (mode : Rnd) (neg : Bool) (n d : Nat) : Nat :=
  let q := n / d
  let r := n % d
  match mode with
  | .rne => if 2 * r > d || (2 * r == d && q % 2 == 1) then q + 1 else q
  | .rtz => q
  | .rdn => if neg && r != 0 then q + 1 else q
  | .rup => if !neg && r != 0 then q + 1 else q
  | .sr b => if b < r * 2 ^ 32 / d then q + 1 else q

/-- The floor of the base-2 logarithm of n / d, both positive. -/
def log2Quot (n d : Nat) : Int :=
  let g : Int := (Nat.log2 n : Int) - Nat.log2 d
  -- g − 1 ≤ log2 (n/d) < g + 1
  if g ≥ 0 then (if n ≥ d * 2 ^ g.toNat then g else g - 1)
  else (if n * 2 ^ (-g).toNat ≥ d then g else g - 1)

/-- n / d · 2^(−u), as a numerator and a denominator. -/
def scaleQuot (n d : Nat) (u : Int) : Nat × Nat :=
  if u ≥ 0 then (n, d * 2 ^ u.toNat) else (n * 2 ^ (-u).toNat, d)

/-- The exponent of the grid of a format at magnitude n / d, subnormals included, with an unbounded exponent above. -/
def FFmt.gridExp (f : FFmt) (n d : Nat) : Int :=
  max (1 - (f.bias : Int)) (log2Quot n d) - f.mbits

/-- The sign bit of a format. -/
def FFmt.signBit (f : FFmt) (neg : Bool) : Nat := if neg then 2 ^ (f.ebits + f.mbits) else 0

/-- The result of an overflow (R32, R35): saturation gives the largest finite value; E4M3 without it gives NaN. -/
def FFmt.overflow (f : FFmt) (mode : Rnd) (sat neg : Bool) : Nat :=
  let big := f.signBit neg + f.maxCode
  let inf := f.signBit neg + f.infCode
  if sat then big
  else match f with
    | .e4m3 => f.nanCode
    | .e2m1 => big
    | _ =>
      match mode with
      | .rne | .sr _ => inf
      | .rtz => big
      | .rdn => if neg then inf else big
      | .rup => if neg then big else inf

/-- The code of ± k · 2^u, where k · 2^u lies on the format's grid and within its range. -/
def FFmt.pack (f : FFmt) (neg : Bool) (k : Nat) (u : Int) : Nat :=
  let k' := if k = 2 ^ (f.mbits + 1) then 2 ^ f.mbits else k
  let u' := if k = 2 ^ (f.mbits + 1) then u + 1 else u
  f.signBit neg +
    (if k' < 2 ^ f.mbits then k' else (u' + f.mbits + f.bias).toNat * 2 ^ f.mbits + (k' - 2 ^ f.mbits))

/-- ± n / d rounded to a format (R31, R32, R34, R35); a zero keeps its sign. -/
def FFmt.roundQ (f : FFmt) (mode : Rnd) (sat neg : Bool) (n d : Nat) : Nat :=
  if n = 0 then f.signBit neg
  else
    let u := f.gridExp n d
    let (a, b) := scaleQuot n d u
    let k := roundQuot mode neg a b
    let (x, y) := scaleQuot k 1 (-u)
    match f.value f.maxCode with
    | .fin _ kmax umax =>
      let (p, q) := scaleQuot kmax 1 (-umax)
      if x * q > p * y then f.overflow mode sat neg else f.pack neg k u
    | _ => f.overflow mode sat neg

/-- A value converted to a format (R34, R35). -/
def FFmt.ofVal (f : FFmt) (mode : Rnd) (sat : Bool) : FVal → Nat
  | .nan => f.nanCode
  | .inf neg =>
    if f.wide then f.signBit neg + f.infCode
    else match f with
      | .e5m2 => if sat then f.signBit neg + f.maxCode else f.signBit neg + f.infCode
      | .e4m3 => if sat then f.signBit neg + f.maxCode else f.nanCode
      | _ => f.signBit neg + f.maxCode
  | .fin neg n e =>
    let (a, b) := scaleQuot n 1 (-e)
    f.roundQ mode sat neg a b

/-- The negated value. -/
def FVal.neg : FVal → FVal
  | .nan => .nan
  | .inf s => .inf (!s)
  | .fin s n e => .fin (!s) n e

/-- The exact product (R158): 0 × ∞ is NaN. -/
def FVal.mul : FVal → FVal → FVal
  | .nan, _ | _, .nan => .nan
  | .inf s, .inf t => .inf (s != t)
  | .inf s, .fin t n _ => if n = 0 then .nan else .inf (s != t)
  | .fin s n _, .inf t => if n = 0 then .nan else .inf (s != t)
  | .fin s n e, .fin t m g => .fin (s != t) (n * m) (e + g)

/-- The sign of a value; of a zero too. -/
def FVal.sign : FVal → Bool
  | .nan => false
  | .inf s => s
  | .fin s _ _ => s

/-- The signed integer of a finite value over 2^low. -/
def FVal.over (low : Int) : FVal → Int
  | .fin s n e => let v : Int := n * 2 ^ (e - low).toNat; if s then -v else v
  | _ => 0

/-- The least exponent among finite values. -/
def lowExp (vs : List FVal) : Int :=
  vs.foldl (fun m v => match v with | .fin _ _ e => min m e | _ => m) 0

/-- A sum of values formed exactly and rounded once (R28, R47, R158): the exact zero is −0 when every term is
negative, or when the signs differ and the mode is RDN. -/
def FFmt.sum (f : FFmt) (mode : Rnd) (vs : List FVal) : Nat :=
  if vs.any (· == .nan) then f.nanCode
  else
    let pinf := vs.any (· == .inf false)
    let ninf := vs.any (· == .inf true)
    if pinf && ninf then f.nanCode
    else if pinf then f.infCode
    else if ninf then f.signBit true + f.infCode
    else
      let low := lowExp vs
      let t := (vs.map (·.over low)).foldl (· + ·) (0 : Int)
      if t = 0 then
        f.signBit (vs.all FVal.sign || (vs.any FVal.sign && mode == .rdn))
      else
        let (a, b) := scaleQuot t.natAbs 1 (-low)
        f.roundQ mode false (t < 0) a b

/-- The order of two finite or infinite values: the sign of a − b over a common scale, zeros equal. -/
def FVal.lt : FVal → FVal → Bool
  | .nan, _ | _, .nan => false
  | .inf s, .inf t => s && !t
  | .inf s, .fin _ _ _ => s
  | .fin _ _ _, .inf t => !t
  | .fin s n e, .fin t m g =>
    let low := min e g
    decide ((FVal.fin s n e).over low < (FVal.fin t m g).over low)
/-- Equality of values, −0 equal to +0 (R160). -/
def FVal.eqv (x y : FVal) : Bool := x != .nan && y != .nan && !x.lt y && !y.lt x

/-- The lesser or greater of two codes, R159; −0 ranks below +0. -/
def FFmt.minMax (f : FFmt) (wantMax : Bool) (a b : Nat) : Nat :=
  let x := f.value a
  let y := f.value b
  if x == .nan && y == .nan then f.nanCode
  else if x == .nan then b
  else if y == .nan then a
  else
    let aLess := x.lt y || (x.eqv y && x.sign && !y.sign)
    if wantMax then (if aLess then b else a) else (if aLess then a else if y.lt x || (x.eqv y && y.sign && !x.sign) then b else a)

/-- The condition codes of FCMP (R160). -/
def fcmpCond (cond : Nat) (x y : FVal) : Bool :=
  let un := x == .nan || y == .nan
  match cond with
  | 0 => !un && x.eqv y
  | 1 => un || !x.eqv y
  | 2 => x.lt y
  | 3 => !un && !y.lt x
  | 4 => y.lt x
  | 5 => !un && !x.lt y
  | 6 => !un
  | _ => un

/-- FCLASS (R161). -/
def fclass32 (a : Nat) : Nat :=
  let neg := a.testBit 31
  let ex := field a 30 23
  let man := a % 2 ^ 23
  if ex = 255 then
    if man = 0 then (if neg then 1 else 2 ^ 7) else if man.testBit 22 then 2 ^ 9 else 2 ^ 8
  else if ex = 0 then
    if man = 0 then (if neg then 2 ^ 3 else 2 ^ 4) else if neg then 2 ^ 2 else 2 ^ 5
  else if neg then 2 else 2 ^ 6

/-! ### Quotient and square root (R163) -/

/-- The quotient of two values, rounded once. -/
def FFmt.div (f : FFmt) (mode : Rnd) : FVal → FVal → Nat
  | .nan, _ | _, .nan => f.nanCode
  | .inf _, .inf _ => f.nanCode
  | .inf s, .fin t _ _ => f.signBit (s != t) + f.infCode
  | .fin s _ _, .inf t => f.signBit (s != t)
  | .fin s n e, .fin t m g =>
    if m = 0 then (if n = 0 then f.nanCode else f.signBit (s != t) + f.infCode)
    else
      let (a, b) := scaleQuot n m (g - e)
      f.roundQ mode false (s != t) a b

/-- The integer square root: the greatest r with r² ≤ n, for r below 2^fuel. -/
def isqrtFrom (n : Nat) : Nat → Nat → Nat
  | 0, r => r
  | fuel + 1, r => if (r + 2 ^ fuel) * (r + 2 ^ fuel) ≤ n then isqrtFrom n fuel (r + 2 ^ fuel) else isqrtFrom n fuel r
def isqrt (n : Nat) : Nat := isqrtFrom n (Nat.log2 n / 2 + 1) 0

/-- A quotient that lies on the same side of every point of a grid of spacing 2^(-64) relative to it as √(n/d) does:
the root of a scaled square, with a half unit added when it is not exact. -/
def sqrtQuot (n d : Nat) : Nat × Nat :=
  let k := 64 + Nat.log2 d
  let t := n * d * 2 ^ (2 * k)
  let r := isqrt t
  (if r * r = t then 2 * r else 2 * r + 1, 2 * d * 2 ^ k)

/-- FSQRT (R163). -/
def FFmt.sqrt (f : FFmt) (mode : Rnd) : FVal → Nat
  | .nan => f.nanCode
  | .inf s => if s then f.nanCode else f.infCode
  | .fin s n e =>
    if n = 0 then f.signBit s
    else if s then f.nanCode
    else
      let (a, b) := scaleQuot n 1 (-e)
      let (p, q) := sqrtQuot a b
      f.roundQ mode false false p q

/-! ### The functions of R162

A result is the opaque proposal of the part where that lies inside the bound, and the nearest value otherwise; so
nothing but the bound is known of it. The bounds of the last four are checked against a fixed-point value whose own
error is below 2^(-64), and are narrowed by more than that, so that no result leaves R162's bound: a proposal inside the
bound by less than the narrowing is replaced as well (DESIGN CHOICE, log entry 8). -/

/-- Fixed point: 96 fraction bits. -/
def fxp : Nat := 96
/-- π and ln 2 in fixed point, 96 fraction bits. -/
def fxPi : Int := 248902613312231085230521944622
def fxLn2 : Int := 54916777467707473351141471128

/-- Σ x^k / k!·sign by Horner from the last term: each step r := one − x·r / k, or + x·r/(k). -/
def fxHorner (x : Int) (one : Int) (step : Int) : List Nat → Int
  | [] => one
  | k :: ks => one + step * (x * fxHorner x one step ks / (2 ^ fxp * k))

/-- 2^f for 0 ≤ f < 1 in fixed point: the exponential series of f·ln 2. -/
def fxExp2 (f : Int) : Int := fxHorner (f * fxLn2 / 2 ^ fxp) (2 ^ fxp) 1 ((List.range 32).map (· + 1))

/-- sin r for |r| ≤ π in fixed point. -/
def fxSinSmall (r : Int) : Int :=
  r * fxHorner (r * r / 2 ^ fxp) (2 ^ fxp) (-1) ((List.range 24).map (fun k => (2 * k + 2) * (2 * k + 3))) / 2 ^ fxp
/-- cos r for |r| ≤ π in fixed point. -/
def fxCosSmall (r : Int) : Int :=
  fxHorner (r * r / 2 ^ fxp) (2 ^ fxp) (-1) ((List.range 24).map (fun k => (2 * k + 1) * (2 * k + 2)))
/-- The argument reduced to −π … π. -/
def fxReduce (x : Int) : Int :=
  let r := x % (2 * fxPi)
  if r > fxPi then r - 2 * fxPi else r

/-- log2 of m / 2^96 for 1 ≤ m/2^96 < 2: 2·artanh((m−1)/(m+1)) / ln 2. -/
def fxLog2 (m : Int) : Int :=
  let z := (m - 2 ^ fxp) * 2 ^ fxp / (m + 2 ^ fxp)
  let z2 := z * z / 2 ^ fxp
  let series : Int := (List.range 60).foldr (fun (k : Nat) (acc : Int) => 2 ^ fxp / (2 * (k : Int) + 1) + z2 * acc / 2 ^ fxp) 0
  2 * z * series / fxLn2

/-- A dyadic value in fixed point, rounded down. -/
def FVal.fixed (v : FVal) : Int :=
  match v with
  | .fin s n e =>
    let x : Int := if e + fxp ≥ 0 then n * 2 ^ (e + fxp).toNat else n / 2 ^ (-(e + fxp)).toNat
    if s then -x else x
  | _ => 0

/-- The nearest FP32 to a fixed-point number. -/
def fixed32 (x : Int) : Nat := FFmt.fp32.roundQ .rne false (x < 0) x.natAbs (2 ^ fxp)

/-- An FP32 proposal kept when it lies within `tol` less 2^-64 of x, both in fixed point, so that the series' own error does not
matter; one that is nearer to the bound is replaced by the nearest value (DESIGN CHOICE, log entry 8). -/
def withinFixed (proposal : Nat) (x tol : Int) : Nat :=
  match FFmt.fp32.value proposal with
  | .fin s n e =>
    let y := (FVal.fin s n e).fixed
    if (y - x).natAbs + 2 ^ 32 ≤ tol.natAbs then proposal else fixed32 x
  | _ => fixed32 x

/-- FRCP. -/
def frcp32 (a proposal : Nat) : Nat :=
  match FFmt.fp32.value a with
  | .nan => FFmt.fp32.nanCode
  | .inf s => FFmt.fp32.signBit s
  | .fin s n e =>
    if n = 0 then FFmt.fp32.signBit s + FFmt.fp32.infCode
    else
      let (p, q) := scaleQuot 1 n e
      let near := FFmt.fp32.roundQ .rne false s p q
      match FFmt.fp32.value near, FFmt.fp32.value proposal with
      | .fin _ nn ne, .fin ps pn pe =>
        let u := FFmt.fp32.gridExp p q
        let (ea, eb) := scaleQuot nn 1 (-ne)
        let exact := ea * q == p * eb
        -- |proposal − p/q| < 2^u
        let (ya, yb) := scaleQuot pn 1 (-pe)
        let (ua, ub) := scaleQuot 1 1 (-u)
        let gap : Int := (ya * q : Int) - (p * yb : Int)
        if !exact && ps == s && gap.natAbs * ub < ua * (yb * q) then proposal else near
      | _, _ => near

/-- FRSQ. -/
def frsq32 (a proposal : Nat) : Nat :=
  match FFmt.fp32.value a with
  | .nan => FFmt.fp32.nanCode
  | .inf s => if s then FFmt.fp32.nanCode else 0
  | .fin s n e =>
    if n = 0 then FFmt.fp32.signBit s + FFmt.fp32.infCode
    else if s then FFmt.fp32.nanCode
    else
      let (p, q) := scaleQuot 1 n e
      let (rp, rq) := sqrtQuot p q
      let near := FFmt.fp32.roundQ .rne false false rp rq
      match FFmt.fp32.value proposal with
      | .fin ps pn pe =>
        let u := FFmt.fp32.gridExp rp rq
        let low := min pe u
        let y : Int := pn * 2 ^ (pe - low).toNat
        let w : Int := 2 ^ (u - low).toNat
        -- (y − w)·2^low < √(p/q) < (y + w)·2^low
        let sq (x : Int) : Nat × Nat := scaleQuot (x * x).natAbs 1 (-(2 * low))
        let (ha, hb) := sq (y + w)
        let (la, lb) := sq (y - w)
        if !ps && decide (ha * q > p * hb) && (decide (y ≤ w) || decide (la * q < p * lb)) then proposal else near
      | _ => near

/-- FEXP2. A proposal within 2^-60 ulp of the bound is replaced by the nearest value, and so is a negative one, which lies in the
bound only where the result is a least subnormal or two (DESIGN CHOICE, log entry 8). -/
def fexp232 (a proposal : Nat) : Nat :=
  match FFmt.fp32.value a with
  | .nan => FFmt.fp32.nanCode
  | .inf s => if s then 0 else FFmt.fp32.infCode
  | .fin s n e =>
    let v := FVal.fin s n e
    if !(v.lt (.fin false 128 0)) then FFmt.fp32.infCode
    else if !((FVal.fin true 151 0).lt v) then 0
    else
      let x := v.fixed - (if s && v.fixed == 0 then 1 else 0)
      let i := x / 2 ^ fxp
      let m := fxExp2 (x % 2 ^ fxp)
      let (p, q) := scaleQuot m.natAbs (2 ^ fxp) (-i)
      let near := FFmt.fp32.roundQ .rne false false p q
      if (decide (0 ≤ e) || n % 2 ^ (-e).toNat == 0) && decide (-149 * 2 ^ fxp ≤ x) then near
      else match FFmt.fp32.value near, FFmt.fp32.value proposal with
        | .fin _ _ _, .fin ps pn pe =>
          -- an ulp where 2^i ≤ 2^a < 2^(i+1)
          let u := max (i - 23) (-149)
          let (ya, yb) := scaleQuot pn 1 (-pe)
          let (ua, ub) := scaleQuot 1 1 (-u)
          let gap : Int := (ya * q : Int) - (p * yb : Int)
          -- at most 2 ulp, whatever the series' own error
          if (!ps || pn == 0) && decide (gap.natAbs * ub * 2 ^ 60 ≤ (2 ^ 61 - 1) * ua * (yb * q)) then proposal else near
        | _, _ => near

/-- FLOG2. -/
def flog232 (a proposal : Nat) : Nat :=
  match FFmt.fp32.value a with
  | .nan => FFmt.fp32.nanCode
  | .inf s => if s then FFmt.fp32.nanCode else FFmt.fp32.infCode
  | .fin s n e =>
    if n = 0 then FFmt.fp32.signBit true + FFmt.fp32.infCode
    else if s then FFmt.fp32.nanCode
    else
      let k := Nat.log2 n
      let m : Int := n * 2 ^ fxp / 2 ^ k
      let x := (e + k) * 2 ^ fxp + fxLog2 m
      if n = 2 ^ k then fixed32 ((e + k) * 2 ^ fxp)
      else
        let v := FVal.fin s n e
        let inner := !(v.lt (.fin false 1 (-1))) && !((FVal.fin false 2 0).lt v)
        let ulp2 : Int := 2 ^ ((FFmt.fp32.gridExp x.natAbs (2 ^ fxp)) + 1 + fxp).toNat
        withinFixed proposal x (if inner then 2 ^ 74 else ulp2)

/-- FSIN and FCOS: `cosine` selects. -/
def fsincos32 (cosine : Bool) (a proposal : Nat) : Nat :=
  match FFmt.fp32.value a with
  | .nan | .inf _ => FFmt.fp32.nanCode
  | .fin s n e =>
    let v := FVal.fin s n e
    if n = 0 then (if cosine then 0x3F800000 else FFmt.fp32.signBit s)
    else if !cosine && (FVal.fin false n e).lt (.fin false 1 (-12)) then a
    else if (FVal.fin false 1 20).lt (.fin false n e) then
      match FFmt.fp32.value proposal with
      | .fin ps pn pe => if (FVal.fin false 1 0).lt (.fin false pn pe) then FFmt.fp32.signBit ps + 0x3F800000 else proposal
      | _ => 0
    else
      let r := fxReduce v.fixed
      let x := if cosine then fxCosSmall r else fxSinSmall r
      withinFixed proposal x (2 ^ 74)

/-! ### Conversions (R35, R36, R167 to R169) -/

/-- A format of CVT's code table (R167): a float format, or an integer of a width and signedness. -/
inductive NFmt where
  | flt (f : FFmt)
  | int (signed : Bool) (bits : Nat)
  deriving DecidableEq, Repr

/-- R167's codes; code 15 is unassigned and never reaches this. -/
def NFmt.ofCode (c : Nat) : NFmt :=
  match c with
  | 0 => .flt .fp32 | 1 => .flt .fp16 | 2 => .flt .bf16 | 3 => .flt .e4m3 | 4 => .flt .e5m2 | 5 => .flt .e2m1 | 6 => .flt .fp64
  | 7 => .int true 32 | 8 => .int false 32 | 9 => .int true 16 | 10 => .int false 16 | 11 => .int true 8 | 12 => .int false 8
  | 13 => .int true 64 | _ => .int false 64

/-- Width of an element in bits. -/
def NFmt.bits : NFmt → Nat
  | .flt f => f.width
  | .int _ b => b

/-- The integers of a width and signedness. -/
def intLo (signed : Bool) (b : Nat) : Int := if signed then -(2 ^ (b - 1)) else 0
def intHi (signed : Bool) (b : Nat) : Int := if signed then 2 ^ (b - 1) - 1 else 2 ^ b - 1
/-- An element read as an integer. -/
def intOf (signed : Bool) (b x : Nat) : Int := if signed then asSigned b (x % 2 ^ b) else (x % 2 ^ b : Nat)

/-- Narrowing of an exact integer: wrapped, or clamped under saturation (R25). -/
def narrowInt (sat signed : Bool) (b : Nat) (x : Int) : Nat :=
  if sat then wrapN b (clampInt (intLo signed b) (intHi signed b) x) else wrapN b x

/-- A float rounded to an integer and always saturated (R36). -/
def floatToInt (mode : Rnd) (signed : Bool) (b : Nat) : FVal → Nat
  | .nan => 0
  | .inf neg => wrapN b (if neg then intLo signed b else intHi signed b)
  | .fin neg n e =>
    let (p, q) := scaleQuot n 1 (-e)
    let k := roundQuot mode neg p q
    narrowInt true signed b (if neg then -(k : Int) else k)

/-- The element of a source format as an exact value. -/
def NFmt.value : NFmt → Nat → FVal
  | .flt f, x => f.value (x % 2 ^ f.width)
  | .int sg b, x => let v := intOf sg b x; .fin (v < 0) v.natAbs 0

/-- One conversion (R35, R36). -/
def convertNum (src dst : NFmt) (mode : Rnd) (sat : Bool) (x : Nat) : Nat :=
  match src, dst with
  | .int ss sb, .int ds db => narrowInt sat ds db (intOf ss sb x)
  | .flt _, .int ds db => floatToInt mode ds db (src.value x)
  | _, .flt f => f.ofVal mode sat (src.value x)

/-- The bits of D above a lone element narrower than a register: a signed one is sign-extended, others are zero (R26). -/
def extendElem (dst : NFmt) (x : Nat) : Nat :=
  match dst with
  | .int true b => if b < 32 then wrapN 32 (asSigned b (x % 2 ^ b)) else x
  | _ => x

/-- The stochastic bits of R33. -/
def srBits (srseed launch rnum idx n : Word) : Nat :=
  let x0 := srseed ^^^ (launch * 0x9E3779B9#32) ^^^ (rnum * 0x85EBCA6B#32) ^^^ (idx * 0xC2B2AE35#32) ^^^ (n * 0x27D4EB2F#32)
  let x := if x0 = 0 then 0x6A09E667#32 else x0
  let round (y : Word) : Word :=
    let a := y ^^^ (y <<< 13)
    let b := a ^^^ (a >>> 17)
    b ^^^ (b <<< 5)
  (round (round (round x))).toNat

/-! ### FX64 (R37 to R43) -/

/-- The value of an E8M0 scale (R27, R30). -/
def e8m0 (e : Nat) : FVal := if e = 0xFF then .nan else .fin false 1 ((e : Int) - 127)

/-- What one product gives (R38): the grid integer, its tag, and the two flags. -/
structure FxProd where
  x : DWord
  tag : BitVec 2
  sat : Bool
  small : Bool
  deriving DecidableEq, Repr

/-- The tag codes of R42. -/
def tagInf (neg : Bool) : BitVec 2 := if neg then 2 else 1

/-- An exact value on the grid of an anchor (R38, R248). -/
def fx64Grid (anc : Int) (v : FVal) : FxProd :=
  match v with
  | .nan => ⟨0, 3, false, false⟩
  | .inf s => ⟨0, tagInf s, false, false⟩
  | .fin s n e =>
    let (p, q) := scaleQuot n 1 (anc - e)
    let k := roundQuot .rne s p q
    let xp : Int := if s then -(k : Int) else k
    ⟨BitVec.ofInt 64 xp, 0, decide (k ≥ 2 ^ 62), k == 0 && n != 0⟩

/-- R38's product. -/
def fx64Product (anc : Int) (a b sa sb : FVal) : FxProd := fx64Grid anc (((a.mul b).mul sa).mul sb)

/-- The value of an FX64 element (R42, R43): X = 0 drains as +0. -/
def fx64Value (anc : Int) (x : DWord) (tag : BitVec 2) : FVal :=
  if tag = 0 then .fin (x.toInt < 0) x.toInt.natAbs anc
  else if tag = 3 then .nan else .inf (tag == 2)

end Sys2Proof.Machine
end

