-- ==== Sys2Proof/Machine/Records.lean ====
section
/-!
DEFINITION. Buffer records (R183 to R188): reading and checking one, locating an element, its extent, and the
conversion stage.
-/

namespace Sys2Proof.Machine

open Sys2Proof

/-- The CVT format of a storage code's elements (R185). -/
def storeFmt (code : Nat) : NFmt :=
  match code with
  | 16 => .flt .e4m3
  | 17 => .flt .e5m2
  | 18 => .flt .e2m1
  | c => .ofCode c
/-- MX storage (R185). -/
def isMx (code : Nat) : Bool := decide (16 ≤ code) && decide (code ≤ 18)
/-- An integer format code of R167. -/
def isInt (code : Nat) : Bool := decide (7 ≤ code) && decide (code ≤ 14)

namespace Rec

/-- Element width in bits, and element size in bytes, at least 1. -/
def bits (r : BRec) : Nat := (storeFmt r.fmt).bits
def size (r : BRec) : Nat := max 1 (bits r / 8)
/-- N of R186. -/
def count (r : BRec) : Nat := r.ext0 * r.ext1 * r.ext2
/-- The base as an address or offset within its space, and the member of space 2. -/
def base0 (r : BRec) : Nat := if r.space = 2 then r.base % 2 ^ 24 else r.base
def member (r : BRec) : Nat := r.base / 2 ^ 24 % 4
/-- The peer module of a record in space 3, held in MXOFF (R228). -/
def peer (r : BRec) : Nat := wrapN 32 r.mxoff % 8192

/-- The five words of a record as fields (R184). -/
def parse (b : List Byte) : BRec :=
  let w (i : Nat) := ofBytes ((b.drop (8 * i)).take 8)
  { base := w 0, space := field (w 1) 62 61, fmt := field (w 1) 60 56, scale := asSigned 8 (field (w 1) 55 48)
    ext0 := field (w 1) 23 0, ext1 := field (w 1) 47 24, ext2 := field (w 3) 31 8
    stride1 := asSigned 32 (field (w 2) 31 0), stride2 := asSigned 32 (field (w 2) 63 32)
    mxoff := asSigned 32 (field (w 3) 63 32), inter := field (w 3) 7 4, rfmt := field (w 3) 3 0, oob := field (w 4) 1 0 }

/-- Every fate of R184 and R185; a record in space 3 (R228) passes only where `peerOk`. STRIDE1 is not checked under CB16 and CB32,
which ignore it (DESIGN CHOICE, log entry 118). -/
def sound (peerOk : Bool) (b : List Byte) : Bool :=
  let r := parse b
  let w (i : Nat) := ofBytes ((b.drop (8 * i)).take 8)
  let multiple (x : Int) := x % (size r : Int) == 0
  let mx := isMx r.fmt
  !bit (w 1) 63 && (decide (r.fmt ≤ 14) || mx) && r.ext0 != 0 && r.ext1 != 0 && r.ext2 != 0 &&
  (r.scale == 0 || !(isInt r.fmt && isInt r.rfmt)) && multiple r.stride2 && (r.inter == 1 || r.inter == 2 || multiple r.stride1) &&
  decide (r.inter ≤ 3) && (r.inter != 3 || r.ext0 % 64 == 0) && r.rfmt != 15 && !(mx && isInt r.rfmt) &&
  field (w 4) 63 2 == 0 && r.oob != 3 &&
  (match r.space with
   | 0 => canonical r.base && r.base % size r == 0 && (mx || r.mxoff == 0)
   | 3 => peerOk && canonical r.base && !mx && field (w 3) 63 45 == 0
   | _ => decide (r.base < 2 ^ 26) && (mx || r.mxoff == 0))

/-- Where element idx lies, in bits from address 0, and the byte of its MX scale (R186), before any wrap. -/
def locate (r : BRec) (idx : Nat) : Int × Int :=
  let i0 := idx % r.ext0
  let i1 := idx / r.ext0 % r.ext1
  let i2 := idx / (r.ext0 * r.ext1)
  let row : Int := 8 * ((base0 r : Int) + i2 * r.stride2)
  let b : Int :=
    match r.inter with
    | 1 | 2 =>
      let n := 16 * r.inter
      row + ((i0 / n * r.ext1 * n + i1 * n + i0 % n) * bits r : Nat)
    | 3 =>
      let g := i0 / 8
      let g' := g / 8 * 8 + Nat.xor g i1 % 8
      row + 8 * (i1 * r.stride1) + ((g' * 8 + i0 % 8) * bits r : Nat)
    | _ => row + 8 * (i1 * r.stride1) + (i0 * bits r : Nat)
  (b, (base0 r : Int) + r.mxoff + (i0 / 32 + ceilDiv r.ext0 32 * (i1 + r.ext1 * i2) : Nat))

/-- The extent: its first byte and its length (R186). -/
def extent (r : BRec) : Int × Nat :=
  let cb := r.inter == 1 || r.inter == 2
  let n := 16 * r.inter
  let top := if cb then (r.ext0 - 1) / n * r.ext1 * n + (r.ext1 - 1) * n + (r.ext0 - 1) % n else r.ext0 - 1
  let s1 : Int := if cb then 0 else (r.ext1 - 1 : Nat) * r.stride1
  let s2 : Int := (r.ext2 - 1 : Nat) * r.stride2
  let lo := (base0 r : Int) + min 0 s1 + min 0 s2
  let hi := (base0 r : Int) + max 0 s1 + max 0 s2 + ((top * bits r + bits r - 1) / 8 + 1 : Nat)
  let sc := (base0 r : Int) + r.mxoff
  let lo' := if isMx r.fmt then min lo sc else lo
  let hi' := if isMx r.fmt then max hi (sc + (ceilDiv r.ext0 32 * r.ext1 * r.ext2 : Nat)) else hi
  (lo', (hi' - lo').toNat)

/-- The formats are the same, so that bits pass unchanged (R187). -/
def plain (r : BRec) : Bool := r.fmt == r.rfmt && r.scale == 0

/-- A stored element as its exact value, its block scale applied (R30). -/
def value (r : BRec) (raw scale : Nat) : FVal :=
  let v := (storeFmt r.fmt).value raw
  if isMx r.fmt then v.mul (e8m0 scale) else v
/-- An exact value converted to a format by R35 or R36. -/
def toFmt (dst : NFmt) (mode : Rnd) (sat : Bool) (v : FVal) : Nat :=
  match dst with
  | .flt f => f.ofVal mode sat v
  | .int sg b => floatToInt mode sg b v
/-- v × 2^k, exact. -/
def scaleBy (k : Int) (v : FVal) : FVal := v.mul (.fin false 1 k)

/-- A loaded element in RFMT (R187). -/
def toReg (r : BRec) (mode : Rnd) (sat : Bool) (raw scale : Nat) : Nat :=
  if plain r then raw
  else if r.scale = 0 ∧ !isMx r.fmt then convertNum (storeFmt r.fmt) (.ofCode r.rfmt) mode sat raw
  else toFmt (.ofCode r.rfmt) mode sat (scaleBy r.scale (value r raw scale))
/-- A register value in the storage format (R187). -/
def toStore (r : BRec) (mode : Rnd) (sat : Bool) (x : Nat) : Nat :=
  let x := x % 2 ^ (NFmt.ofCode r.rfmt).bits
  if plain r then x
  else if r.scale = 0 then convertNum (.ofCode r.rfmt) (storeFmt r.fmt) mode sat x
  else toFmt (storeFmt r.fmt) mode sat (scaleBy (-r.scale) ((NFmt.ofCode r.rfmt).value x))

end Rec

/-- Bytes read through a core's L1, which keeps none of them (R176, R183): from its copy of a line, where it holds one and
has not replaced it, else at the home; a store of the core that only L1 shows is waited for (R80). -/
def State.readL1 (core asid : Nat) : List (Nat × Nat) → State → State × Verdict × List Byte
  | [], s => (s, .ok, [])
  | (va, n) :: rest, s =>
    let (hit, s0) := s.choose
    let early := s0.reqs.any (fun x => x.early && x.core == core && x.fault.isNone && x.parts.any (fun y =>
      y.space == .virt asid && y.addr / 128 == va / 128))
    let piece : State × Verdict × List Byte := match s0.l1At core asid va, hit || early with
      | some l, true => (s0, .ok, (l.data.drop (va % 128)).take n)
      | _, _ => if early then (s0, .wait, []) else s0.readAt asid va n .read
    match piece with
    | (s1, .ok, b) =>
      match State.readL1 core asid rest s1 with
      | (s2, v, bs) => (s2, v, b ++ bs)
    | r => r
/-- The record's bytes that a core has kept, or a read of them with the verdict (R183) (DEDUCED, log entry 27). -/
def State.recordBytes (s : State) (t : Team) (core idx : Nat) : State × Verdict × List Byte :=
  let at_ := (t.kernel.brecBase + 40 * idx) % 2 ^ 64
  let (again, s0) := s.choose
  match s.kept.find? (fun k => k.launch == t.launch && k.core == core && k.index == idx), again with
  | some k, false => (s0, .ok, k.bytes)
  | _, _ =>
    match State.readL1 core t.asid (linePieces at_ 40) s0 with
    | (s1, .ok, b) =>
      ({ s1 with kept := ⟨t.launch, core, idx, b⟩ :: s1.kept.filter (fun k => !(k.launch == t.launch && k.core == core && k.index == idx)) }, .ok, b)
    | r => r

/-- The layout of R227 and R259: `high` stands above the slot (a chunk, or a step in its upper half). -/
def placeDetail (pc : DWord) (slot : Nat) (word : DWord) (high side addr elem : Nat) : List Byte :=
  toBytes 8 pc.toNat ++ toBytes 8 (high % 2 ^ 32 * 2 ^ 32 + slot % 16 * 2 ^ 28 + (opOf word).toNat * 2 ^ 16 + side % 4) ++
  toBytes 8 addr ++ toBytes 8 elem

/-- A record read and checked for an instruction (R183, R184, R191 checks 1 to 3); what stops the instruction there. An engine
instruction gives the failure's place in its own detail (R227, R259) (DEDUCED, log entry 35). -/
def Ctx.withRec (c : Ctx) (s : State) (idx : Nat) (lanes : LaneMask) (peerOk : Bool) (place : Option (Nat × Nat)) (k : State → BRec → Res) : Res :=
  let detail (addr : Nat) : List Byte := place.elim [] (fun p => placeDetail c.cl.pc c.en.slot c.word p.1 p.2 addr 0)
  if c.t.kernel.brecCount ≤ idx then .trapIn s 23 lanes 0 0 (detail 0)
  else
    match s.recordBytes c.t c.r.here idx with
    | (s1, .ok, b) => if Rec.sound peerOk b then k s1 (Rec.parse b) else .trapIn s1 24 lanes 0 0 (detail 0)
    | (s1, .moor, _) => .stall s1 (.moored (some ((c.t.kernel.brecBase + 40 * idx) % 2 ^ 64)))
    | (s1, .wait, _) => .stall s1 .slot
    | (s1, .fault cause, _) => .trapIn s1 cause lanes ((c.t.kernel.brecBase + 40 * idx) % 2 ^ 64) 0 (detail ((c.t.kernel.brecBase + 40 * idx) % 2 ^ 64))

end Sys2Proof.Machine
end

