-- ==== Sys2Proof/Machine/LoadStore.lean ====
section
/-!
DEFINITION. The load-store unit and tile memory (chapter 07): issue and checks of every memory instruction, the events
that perform loads, stores, atomics and ring stores, the replay list, and the L1.
-/

namespace Sys2Proof.Machine

open Sys2Proof

/-! ### Places (R72, R180, R196, R397) -/

/-- Member m of a raft's team pair or ring set: its core and the first byte of its allocation there; none where it is
outside the group, has exited or has never started (R72, R99, R196). -/
def State.memberAt (s : State) (t : Team) (m : Nat) : Option (Nat × Nat) :=
  match (numbered t.cores).find? (fun x => x.2 % 4 == m) with
  | some (i, k) => some (k, 128 * t.bases.getD i 0)
  | none =>
    match t.group with
    | none => none
    | some g =>
      match s.teams.find? (fun x => x.group == some g && !x.ended && x.cores.any (fun k => k % 4 == m)) with
      | some x => some (x.cores.headD 0, 128 * x.bases.headD 0)
      | none => none
/-- The raft's own tile memory: its core and the first byte of the team's allocation there. -/
def State.ownTile (s : State) (t : Team) (r : Raft) : Option (Nat × Nat) := s.memberAt t (r.core % 4)
/-- The bytes of a team's allocation on each of its cores. -/
def Team.tileBytes (t : Team) : Nat := 128 * t.kernel.tmemLines

/-! ### Tags (R86) -/

/-- What is left of some intervals without one more. -/
def cutOut (lo len : Nat) (ivs : List (Nat × Nat)) : List (Nat × Nat) :=
  ivs.flatMap (fun (a, n) =>
    if overlaps a n lo len then
      (if a < lo then [(a, lo - a)] else []) ++ (if lo + len < a + n then [(lo + len, a + n - (lo + len))] else [])
    else [(a, n)])

/-- A bound tag's range where it lies now. -/
def State.tagRange (s : State) (r : Raft) (t : Team) : TagBind → Option (Space × Nat × Nat)
  | .virt lo len => some (.virt t.asid, lo, len)
  | .tile lo len => (s.ownTile t r).map (fun p => (.tile p.1, p.2 + lo, len))
  | .record sp m lo len =>
    match sp with
    | 0 => some (.virt t.asid, lo, len)
    | 1 => (s.ownTile t r).map (fun p => (.tile p.1, p.2 + lo, len))
    | _ => (s.memberAt t m).map (fun p => (.tile p.1, p.2 + lo, len))
/-- The bound tags of a raft with their ranges. -/
def State.tagRanges (s : State) (r : Raft) (t : Team) : List (Nat × Space × Nat × Nat) :=
  (numbered r.tags).filterMap (fun (i, b) => (b.bind (s.tagRange r t)).map (fun x => (i + 1, x)))

/-- The tags that some bytes are counted under: each bound one whose range they overlap, and tag 0 where a byte lies
outside every bound range (R86). -/
def State.tagsFor (s : State) (r : Raft) (t : Team) (bytes : List (Space × Nat × Nat)) : BitVec 8 :=
  let bound := s.tagRanges r t
  let hit (i : Nat) := bound.any (fun (k, sp, lo, len) => k == i && bytes.any (fun (sp', a, n) => sp' == sp && overlaps a n lo len))
  let free := bytes.any (fun (sp', a, n) =>
    !(((bound.filter (fun x => x.2.1 == sp')).foldl (fun ivs x => cutOut x.2.2.1 x.2.2.2 ivs) (if n = 0 then [] else [(a, n)])).isEmpty))
  BitVec.ofNat 8 ((if free then 1 else 0) + total ((List.range 7).map (fun i => if hit (i + 1) then 2 ^ (i + 1) else 0)))

/-! ### The checks of R191 -/

/-- One lane's access as it is formed: its bytes (none where none is made), the address that a record would give, and
the checks it fails, each with its place in the order of R191 and its cause. -/
structure LaneAcc where
  lane : Nat
  parts : List Part
  addr : Nat
  fails : List (Nat × Nat)
  deriving DecidableEq, Repr

/-- The first check that any lane fails: its cause, the lanes that fail it, and the address of the lowest (R191). -/
def firstFail (as : List LaneAcc) : Option (Nat × LaneMask × Nat) :=
  match leastBy (fun (x : Nat × Nat) => x.1) (as.flatMap (·.fails)) with
  | none => none
  | some f =>
    let bad := as.filter (fun a => a.fails.contains f)
    some (f.2, maskOf (bad.map (·.lane)), ((bad.head?).map (·.addr)).getD 0)

/-- A registered range meets bytes that a raft of a core accesses, in the table of that core or of the port that the access
reaches: R89's table, `write` for everything but a thread load. The lines of a waiting RROT count as registered destinations for all but another RROT, which queues
behind it (R205) (DEDUCED, log entry 43). -/
def State.conflicts (s : State) (core : Nat) (p : Part) (write rrot : Bool) : Bool :=
  let met (g : Range) := g.table == some core || (match p.space with
    | .virt _ => false
    | .tile k => g.table == some k)
  s.ops.any (fun o => o.ranges.any (fun g => (write || g.write) && met g && s.shares p.space p.addr p.len g.space g.lo g.len)) ||
  (!rrot && s.reqs.any (fun q => q.kind == .rrot && q.parts.any (fun y =>
    y.space == p.space && overlaps (y.addr / 128 * 128) 128 p.addr p.len)))
/-- A line that the bytes touch has a pending fill (R90). -/
def State.fillPending (s : State) (p : Part) : Bool :=
  match p.space with
  | .virt _ => false
  | .tile core => s.ops.any (fun o => o.fills.any (fun (k, line) => k == core && overlaps (128 * line) 128 p.addr p.len))

/-- Check 10 for some bytes; where both causes apply, RANGE_CONFLICT (DESIGN CHOICE, log entry 110). -/
def State.lockFails (s : State) (core : Nat) (write rrot : Bool) (p : Part) : List (Nat × Nat) :=
  (if s.conflicts core p write rrot then [(10, 13)] else []) ++
  (if write && !rrot && s.fillPending p then [(11, 14)] else [])

/-- A virtual access of n bytes (checks 5, 8 and 10). -/
def Ctx.virtAcc (c : Ctx) (s : State) (lane a n : Nat) (off : Nat) (nib : Option Nat) (ordered write : Bool) : LaneAcc :=
  let p : Part := ⟨lane, .virt c.t.asid, a, n, off, nib⟩
  { lane := lane, parts := [p], addr := a
    fails := (if canonical a && canonical (a + n - 1) then [] else [(5, 5)]) ++
      (if ordered && nib.isNone && a % n != 0 then [(8, 7)] else []) ++ s.lockFails c.r.here write false p }
/-- A tile-memory access at an offset of a member's allocation (checks 6, 8, 9 and 10); `place` is where that lies. -/
def Ctx.tileAcc (c : Ctx) (s : State) (place : Option (Nat × Nat)) (lane : Nat) (o : Int) (n off : Nat) (nib : Option Nat)
    (ordered write rrot : Bool) : LaneAcc :=
  let bad : Bool := decide (o < 0) || decide ((c.t.tileBytes : Int) < o + n)
  let addr := wrapN 64 o
  match (if c.r.landed.isSome then none else place) with
  | none =>
    { lane := lane, parts := [], addr := addr
      fails := (if bad && place.isSome then [(6, 6)] else []) ++ (if ordered && nib.isNone && o % n != 0 then [(8, 7)] else []) ++ [(9, 12)] }
  | some (core, base) =>
    let p : Part := ⟨lane, .tile core, base + o.toNat, n, off, nib⟩
    { lane := lane, parts := [p], addr := addr
      fails := (if bad then [(6, 6)] else []) ++ (if ordered && nib.isNone && o % n != 0 then [(8, 7)] else []) ++
        (if bad then [] else s.lockFails c.r.here write rrot p) }
/-- A member address t (R196). -/
def Ctx.memberAcc (c : Ctx) (s : State) (lane : Nat) (t : Int) (n : Nat) (ordered write : Bool) : LaneAcc :=
  if t < 0 ∨ (2 : Int) ^ 26 ≤ t then { lane := lane, parts := [], addr := wrapN 64 t, fails := [(6, 6)] }
  else
    let acc := c.tileAcc s (s.memberAt c.t (t.toNat / 2 ^ 24)) lane (t.toNat % 2 ^ 24 : Nat) n 0 none ordered write false
    { acc with addr := t.toNat }

/-- Parts of one access laid side by side. -/
def LaneAcc.also (a b : LaneAcc) : LaneAcc := { a with parts := a.parts ++ b.parts, fails := a.fails ++ b.fails }

/-- A record element's access (R186, R188, R195): `load` decides what an index out of bounds does. -/
def Ctx.recAcc (c : Ctx) (s : State) (r : BRec) (lane : Nat) (idx : Int) (load ordered : Bool) : LaneAcc :=
  let n : Int := Rec.count r
  let outside : Bool := decide (idx < 0) || decide (n ≤ idx)
  if outside && r.oob == 2 then { lane := lane, parts := [], addr := wrapN 64 idx, fails := [(7, 25)] }
  else if outside && (r.oob == 0 || !load) then { lane := lane, parts := [], addr := 0, fails := [] }
  else
    let j := if idx < 0 then 0 else if n ≤ idx then Rec.count r - 1 else idx.toNat
    let (b, sc) := Rec.locate r j
    let nib := if Rec.bits r = 4 then some (if b % 8 = 0 then 0 else 1) else none
    let at_ (byte : Int) (len off : Nat) (nib : Option Nat) (ord : Bool) : LaneAcc :=
      if r.space = 0 then c.virtAcc s lane (wrapN 64 byte) len off nib ord (!load)
      else
        let place := if r.space = 2 then s.memberAt c.t (Rec.member r) else s.ownTile c.t c.r
        c.tileAcc s place lane byte len off nib ord (!load) false
    let el := at_ (b / 8) (Rec.size r) 0 nib ordered
    if isMx r.fmt then el.also (at_ sc 1 32 none false) else el

/-! ### Watchpoints (R379) -/

/-- A watchpoint that an access of a DEBUG team's raft matches: its core and number, and the offset of the access
(DEDUCED, log entry 30). -/
def State.watchMatch (s : State) (t : Team) (write : Bool) (ps : List Part) : Option (Nat × Nat × Nat) :=
  if s.policyOf t != 2 then none
  else
    (ps.filterMap (fun p => match p.space with
      | .virt _ => none
      | .tile core =>
        (s.points.find? (fun x => x.1 / 4 == core && x.2.enable && (if write then x.2.write else x.2.read) &&
          overlaps p.addr p.len (8 * x.2.granule) 8)).map (fun x => (core, x.1 % 4, p.addr)))).head?

/-- A match stops the team with REASON 3, and with CLU every DEBUG team on the owning core's cluster; one report is
posted, and the access has no effect (R379). -/
def State.watchStop (s : State) (c : Ctx) (core n addr : Nat) (lanes : LaneMask) : State :=
  let clu := (s.points.find? (fun x => x.1 == 4 * core + n)).elim false (fun x => x.2.cluster)
  let s1 := s.leaveAt c.r.id c.e
  let s2 := s1.report c.t.asid (reportBytes (trefOf c.t c.r.index) 3 0 c.en.slot clu c.cl.pc.toNat lanes.toNat addr (core + 256 * n))
  -- a step that meets a match ends, and its sub-raft stays at the access (R381)
  let s2a := s2.mapTeam c.t.id (fun t => { t with stepping := t.stepping.map (fun st => { st with stopped := true }) })
  let s3 := (s2a.stopTeam c.t.id 3).settleStop c.r.id
  if clu then
    (s.teams.filter (fun x => x.id != c.t.id && x.stowed.isNone && x.cores.any (fun k => k / 4 == core / 4) && s.policyOf x == 2)).foldl
      (fun st x => st.stopTeam x.id 3) s3
  else s3

/-! ### Issue -/

/-- A part cut at line ends (R190). -/
def Part.cut (p : Part) : List Part := (linePieces p.addr p.len).map (fun (a, k) => { p with addr := a, len := k, off := p.off + (a - p.addr) })

/-- Request entries that a request holds (R177): the lines of a load that L1 did not hold, and the lines of a store or
atomic, one for all the lanes that touch it. -/
def Req.entries (q : Req) : Nat :=
  match q.kind with
  | .load _ _ | .loadRec _ _ _ =>
    (((q.parts.filter (fun p => match p.space with | .virt _ => q.missed.contains (p.addr / 128) | .tile _ => false)).map (fun p => p.addr / 128)).eraseDups).length
  | .store | .setfe _ | .rrot | .atom _ | .cas _ => ((q.parts.map (fun p => (p.space, p.addr / 128))).eraseDups).length
  | _ => 0

/-- Request entries of a core in use (R177). -/
def State.entriesUsed (s : State) (core : Nat) : Nat := total ((s.reqs.filter (fun x => x.core == core)).map Req.entries)

/-- Registered ranges in the table of a core (R89, R205). -/
def State.tableUse (s : State) (core : Nat) : Nat :=
  total (s.ops.map (fun o => (o.ranges.filter (fun g => g.table == some core)).length)) +
  total ((s.reqs.filter (fun q => q.kind == .rrot)).map (fun q => if q.parts.any (fun p => p.space == .tile core) then 1 else 0))

/-- A raft's accesses that are on their way to a page that is not resident, and so to its replay list (R355). -/
def State.replayComing (s : State) (rid : Nat) : Nat :=
  (s.reqs.filter (fun q => q.raft == rid && !q.replay && q.fault.isNone && q.parts.any s.partAbsent)).length

/-- A request that passes its checks goes on its way (R177, R355), the links to its homes being clear (R24), after what a release covers has been performed
(R85): the instruction's slot ends. -/
def Ctx.launchReq (c : Ctx) (s : State) (q : Req) : Res :=
  let block := if q.rel then worst (s.releaseWork c.r.id q.mask) else .free
  block.orElse s (
    if 64 ≤ s.replayEntries c.r.id + s.replayComing c.r.id && q.parts.any s.partAbsent then .stall s (.moored none)
    else if 2048 < s.entriesUsed q.core + q.entries ||
        q.isLoad && decide (65535 ≤ s.counter c.r.id 4) || q.isStore && decide (65535 ≤ s.counter c.r.id 5) ||
        q.kind == .rrot && q.parts.any (fun p => match p.space with
          | .tile k => decide (1024 ≤ s.tableUse k)
          | .virt _ => false) || !s.sendable q then .stall s .slot
    else .done { s with reqs := s.reqs ++ [q] } .next)

/-- The lanes that make an access: every enabled lane, or in a uniform slot the lowest (R53). -/
def Ctx.accLanes (c : Ctx) : List Nat := if c.uni then c.lanes.take 1 else c.lanes

/-- The lanes counted under each tag, given the tags of each lane (R86, R194), and the tags that some lanes are counted
under. -/
def tagLanesOf (per : List (Nat × BitVec 8)) : List LaneMask :=
  (List.range 8).map (fun k => maskOf ((per.filter (fun x => x.2.getLsbD k)).map (·.1)))
def tagsOver (ls : List LaneMask) (m : LaneMask) : BitVec 8 :=
  BitVec.ofNat 8 (total ((numbered ls).map (fun x => if x.2 &&& m = 0 then 0 else 2 ^ x.1)))
/-- The lines of some virtual bytes that a core's L1 does not serve: it does not hold them, or the access is to read at the
home (R81). -/
def State.linesMissed (s : State) (core : Nat) (fresh : Bool) (parts : List Part) : List Nat :=
  (parts.filterMap (fun p => match p.space with
    | .virt asid => if !fresh && (s.l1At core asid p.addr).isSome then none else some (p.addr / 128)
    | .tile _ => none)).eraseDups
/-- The request of an instruction whose lanes make these accesses (R177, R190, R192). -/
def Ctx.request (c : Ctx) (s : State) (f : MF) (kind : ReqKind) (dest : Option Dest) (data : Nat → List Byte) (accs : List LaneAcc) : Req :=
  let parts := (accs.flatMap (·.parts)).flatMap Part.cut
  let scope := s.scopeOf c.t.id f.scope.toNat
  let tagLanes := tagLanesOf (accs.map (fun a => (a.lane, s.tagsFor c.r c.t (a.parts.map (fun p => (p.space, p.addr, p.len))))))
  { id := s.nextId, raft := c.r.id, core := c.r.here, kind := kind, acq := f.ord.getLsbD 0, rel := f.ord.getLsbD 1
    scope := scope, mask := if f.ord = 0 then 0 else f.b.setWidth 8
    lanes := maskOf (accs.map (·.lane)), dest := dest, parts := parts
    data := accs.foldl (fun m a => ssets m (64 * a.lane) (data a.lane)) [], got := []
    tags := tagsOver tagLanes (maskOf (accs.map (·.lane))), tagLanes := tagLanes
    binds := if f.ord.getLsbD 0 then c.r.virtBinds else []
    missed := s.linesMissed c.r.here (f.ord.getLsbD 0 && decide (2 ≤ scope)) parts
    twin := none, born := s.nextId, early := false, checked := false, replay := false
    fault := none, pc := c.cl.pc, slot := c.en.slot, instr := c.word }

/-- A memory access after its lanes' checks: the trap, the watch, or the request (R191, R379). -/
def Ctx.access (c : Ctx) (s : State) (f : MF) (kind : ReqKind) (write : Bool) (dest : Option Dest) (data : Nat → List Byte)
    (accs : List LaneAcc) : Res :=
  match firstFail accs with
  | some (cause, lanes, addr) => .trapIn s cause lanes addr 0 []
  | none =>
    let parts := accs.flatMap (·.parts)
    match s.watchMatch c.t write parts with
    | some (core, n, addr) =>
      .stop ((c.unread s).watchStop c core n addr (maskOf ((accs.filter (fun a => (s.watchMatch c.t write a.parts).isSome)).map (·.lane))))
    | none =>
      match accs with
      | [] => .done s .next
      | _ =>
        c.launchReq { s with nextId := s.nextId + 1 } (c.request s f kind dest data accs)

/-- Where a load's result goes (R53). -/
def Ctx.dest (c : Ctx) (d : RegNum) (n : Nat) : Dest := ⟨c.reg d, n, c.active, c.uni, 384⟩

/-- The index of a plain access, and OFF12 (R192, R194). -/
def Ctx.index (c : Ctx) (s : State) (f : MF) (lane : Nat) : Int := if f.ord = 0 then asSigned 32 (c.src s f.b 0 0 lane) else 0
def offM (f : MF) : Int := f.off.toInt

/-- The address of a virtual access and the offset of a tile access (R194). -/
def Ctx.vaddr (c : Ctx) (s : State) (f : MF) (unit lane : Nat) : Nat :=
  wrapN 64 ((c.src64 s f.a 0 0 lane : Int) + c.index s f lane + offM f * unit)
def Ctx.toff (c : Ctx) (s : State) (f : MF) (unit lane : Nat) : Int :=
  (c.src s f.a 0 0 lane : Int) + c.index s f lane + offM f * unit

/-- The bytes of n registers in a lane. -/
def Ctx.regBytes (c : Ctx) (s : State) (d : RegNum) (n lane : Nat) : List Byte :=
  (List.range n).flatMap (fun j => toBytes 4 (s.readReg c.r c.t (nextReg (c.reg d) j) lane).toNat)

/-- The three places of a plain load or store (R194). -/
inductive MemForm where
  | virt | own | member
  deriving DecidableEq, Repr
/-- One lane's access by form. -/
def Ctx.formAcc (c : Ctx) (s : State) (f : MF) (form : MemForm) (write : Bool) (lane : Nat) : LaneAcc :=
  let n := memSize f.fn
  match form with
  | .virt => c.virtAcc s lane (c.vaddr s f n lane) n 0 none (f.ord != 0) write
  | .own => c.tileAcc s (s.ownTile c.t c.r) lane (c.toff s f n lane) n 0 none (f.ord != 0) write false
  | .member => c.memberAcc s lane (c.toff s f n lane) n (f.ord != 0) write

/-- A load of R194. -/
def loadIssue (i : Instr) (f : MF) (form : MemForm) (s : State) : Out :=
  issue i s (fun s1 c =>
    c.access s1 f (.load (memSize f.fn) (field f.fn.toNat 2 0 == 4 || field f.fn.toNat 2 0 == 5)) false
      (some (c.dest f.d (memRegs f.fn))) (fun _ => []) (c.accLanes.map (c.formAcc s1 f form false)))
/-- A store of R194. -/
def storeIssue (i : Instr) (f : MF) (form : MemForm) (s : State) : Out :=
  issue i s (fun s1 c =>
    c.access s1 f .store true none (fun lane => (c.regBytes s1 f.d (memRegs f.fn) lane).take (memSize f.fn))
      (c.accLanes.map (c.formAcc s1 f form true)))

/-- LD (R194). -/
def execLd (f : MF) (s : State) : Out := loadIssue (.ld f) f .virt s
/-- ST (R194). -/
def execSt (f : MF) (s : State) : Out := storeIssue (.st f) f .virt s
/-- LDT (R194). -/
def execLdt (f : MF) (s : State) : Out := loadIssue (.ldt f) f .own s
/-- STT (R194). -/
def execStt (f : MF) (s : State) : Out := storeIssue (.stt f) f .own s
/-- LDX (R194, R196). -/
def execLdx (f : MF) (s : State) : Out := loadIssue (.ldx f) f .member s
/-- STX (R194, R196). -/
def execStx (f : MF) (s : State) : Out := storeIssue (.stx f) f .member s

/-- The registers of an element in RFMT: a pair for 64 bits (R187). -/
def elemRegs (r : BRec) : Nat := if (NFmt.ofCode r.rfmt).bits == 64 then 2 else 1
/-- D as LDB or STB uses it, once the record has named its width. -/
def elemOpd (f : MF) (r : BRec) (load : Bool) : Opd := ⟨.d, f.d, elemRegs r, elemRegs r, !load, load, [.vec, .scl, .zero]⟩
/-- Check 4 of R191: D takes an element of RFMT, and SAT is set where the destination format is FP4. -/
def Ctx.elemFits (c : Ctx) (f : MF) (r : BRec) (load : Bool) : Bool :=
  let d := c.reg f.d
  (elemRegs r == 1 || (c.renameOk (elemOpd f r load) && (match Kind.of d with
    | .vec => d.toNat % 2 == 0 && decide (d.toNat + 2 ≤ c.r.count)
    | .scl => d.toNat % 2 == 0
    | _ => true))) &&
  !(!Rec.plain r && !f.fn.getLsbD 3 && (if load then r.rfmt == 5 else r.fmt == 5))

/-- The streams that an instruction reads only once a record has named the width of an operand (R57, R135). -/
def Ctx.streamsMore (c : Ctx) (i : Instr) (os : List Opd) : List Nat := (streamsOf os).filter (fun k => !(c.streamsRead i).contains k)
/-- LDB and STB after the record is read: check 4 of R191, the interlock of a pair D, and the index of a lane. -/
def Ctx.viaRec (c : Ctx) (s : State) (f : MF) (load : Bool) (k : State → BRec → Nat → Res) : Res :=
  let lanes := maskOf c.accLanes
  if c.accLanes.isEmpty then .done s .next
  else
    c.withRec s f.brec.toNat lanes false none (fun s1 r =>
      if !load && isMx r.fmt then .trapIn s1 24 lanes 0 0 []
      else if !c.elemFits f r load then .trapIn s1 1 lanes 0 0 []
      else (s1.interlock c [elemOpd f r load]).orElse s1
        (k (if load then s1 else s1.stepStreams c.r.id (c.streamsMore (.stb f) [elemOpd f r load])) r (elemRegs r)))

/-- One lane's element of LDB or STB (R195). -/
def Ctx.elemAcc (c : Ctx) (s : State) (f : MF) (r : BRec) (load : Bool) (l : Nat) : LaneAcc :=
  c.recAcc s r l (asSigned 32 (c.src s f.a 0 0 l) + c.index s f l + offM f) load (f.ord != 0)
/-- A register value of n words as STB stores it (R187). -/
def Ctx.elemBytes (c : Ctx) (s : State) (f : MF) (r : BRec) (n l : Nat) : List Byte :=
  toBytes (Rec.size r) (Rec.toStore r (Rnd.ofCode (field f.fn.toNat 2 0)) (f.fn.getLsbD 3) (ofBytes (c.regBytes s f.d n l)))
/-- LDB (R187, R194, R195). -/
def execLdb (f : MF) (s : State) : Out :=
  issue (.ldb f) s (fun s1 c => c.viaRec s1 f true (fun s2 r n =>
    c.access s2 f (.loadRec r (field f.fn.toNat 2 0) (f.fn.getLsbD 3)) false (some (c.dest f.d n)) (fun _ => [])
      (c.accLanes.map (c.elemAcc s2 f r true))))
/-- STB (R187, R194, R195). -/
def execStb (f : MF) (s : State) : Out :=
  issue (.stb f) s (fun s1 c => c.viaRec s1 f false (fun s2 r n =>
    c.access s2 f .store true none (c.elemBytes s2 f r n) (c.accLanes.map (c.elemAcc s2 f r false))))

/-! ### Atomics at issue (R197, R199) -/

/-- The width of an ATOM by FN. -/
def atomWidth (fn : Nat) : Nat := if 10 ≤ fn ∧ fn ≤ 12 then 8 else 4
/-- One lane's access of n bytes at a virtual or a member address (R197, R199). -/
def Ctx.rmwAcc (c : Ctx) (s : State) (f : MF) (n : Nat) (virt : Bool) (l : Nat) : LaneAcc :=
  if virt then c.virtAcc s l (c.vaddr s f n l) n 0 none true true else c.memberAcc s l (c.toff s f n l) n true true
/-- ATOM (R197, R198). -/
def execAtom (f : MF) (s : State) : Out :=
  issue (.atom f) s (fun s1 c =>
    let n := atomWidth f.fn.toNat
    c.access s1 f (.atom f.fn.toNat) true (some (c.dest f.d (n / 4))) (c.regBytes s1 f.d (n / 4))
      (c.accLanes.map (c.rmwAcc s1 f n (decide (f.fn.toNat < 13)))))

/-- CAS and CAS128: n bytes compared and swapped, at a virtual or a member address (R199). -/
def casIssue (i : Instr) (f : MF) (n : Nat) (virt : Bool) (s : State) : Out :=
  issue i s (fun s1 c =>
    c.access s1 f (.cas n) true (some (c.dest f.d (n / 4))) (c.regBytes s1 f.d (n / 2)) (c.accLanes.map (c.rmwAcc s1 f n virt)))
/-- CAS (R199). -/
def execCas (f : MF) (s : State) : Out := casIssue (.cas f) f (if f.fn = 1 then 8 else 4) (f.fn != 2) s
/-- CAS128 (R199). -/
def execCas128 (f : MF) (s : State) : Out := casIssue (.cas128 f) f 16 true s

/-! ### Fences, tags, cache control (R200 to R204) -/

/-- FENCE (R200, R82 to R85): a release is performed once what it covers has been; an acquire follows the reads that
stand before it and drops the L1 lines that its mask names. -/
def execFence (f : MF) (s : State) : Out :=
  issue (.fence f) s (fun s1 c =>
    (worst ((if f.ord.getLsbD 1 then s1.releaseWork c.r.id f.brec else []) ++
      (s1.reqs.filter (fun q => q.raft == c.r.id && (q.acq || q.rel))).map (fun q => if q.fault.isSome || q.replay then .free else .wait) ++
      (if f.ord.getLsbD 0 then s1.acquireWork c.r.id else []))).orElse s1
      (.done (if f.ord.getLsbD 0 then s1.acquireDrop c.r c.t.asid f.scope.toNat f.brec else s1) .next))

/-- FTAG (R201). -/
def execFtag (f : MF) (s : State) : Out :=
  issue (.ftag f) s (fun s1 c =>
    let bind (b : Option TagBind) : Res :=
      .done (s1.mapRaft c.r.id (fun r => { r with tags := setAt r.tags (field f.off.toNat 2 0 - 1) b })) .next
    let a := (c.sval64 f.a).toNat
    let o := (c.sval f.a).toNat
    let n := (c.sval f.b).toNat
    match f.fn.toNat with
    | 0 => bind none
    | 1 => if !canonical a || (n != 0 && !canonical (a + n - 1)) then .trap 5 c.active a 0 else bind (some (.virt a n))
    | 2 =>
      if decide (c.t.tileBytes < o) || (n != 0 && decide (c.t.tileBytes < o + n)) then .trap 6 c.active o 0
      else if c.r.landed.isSome then .trap 12 c.active o 0
      else bind (some (.tile o n))
    | _ =>
      c.withRec s1 o c.active false none (fun s2 r =>
        let (lo, len) := Rec.extent r
        let b : TagBind := if r.space = 0 then .virt (wrapN 64 lo) len
          else .record r.space (Rec.member r) lo.toNat ((lo + len).toNat - lo.toNat)
        .done (s2.mapRaft c.r.id (fun r => { r with tags := setAt r.tags (field f.off.toNat 2 0 - 1) (some b) })) .next))

/-- One lane of PREF: the line goes into L2, marked PFM, and with FN 0 into L1; or the lane is dropped (R202, R290), also
where its walk meets a malformed entry (DESIGN CHOICE, log entry 97). -/
def Ctx.prefLane (c : Ctx) (f : MF) (s : State) (lane : Nat) : State :=
  let a := wrapN 64 ((c.src64 s f.a 0 0 lane : Int) + c.index s f lane + offM f * 128)
  let core := c.r.here
  let line := va57 a / 128
  let dropped : State := { s with prefDrop := sset s.prefDrop core (sget s.prefDrop core + 1) }
  let probe : Part := ⟨lane, .virt c.t.asid, a / 128 * 128, 128, 0, none⟩
  let into1 (s : State) (data : List Byte) : State :=
    if f.fn.getLsbD 0 || s.earlyOn core c.t.asid (128 * line) 128 then s else s.setL1 core c.t.asid line (some data)
  if !canonical a || s.held c.t.asid a || s.conflicts core probe true false ||
      decide (2048 ≤ s.entriesUsed core) then dropped
  else
    match s.l2At c.t.asid a with
    | some l => if l.r then into1 s l.data else dropped
    | none =>
      if s.marked c.t.asid a then dropped
      else
        match s.entryFor c.t.asid a with
        | none => dropped
        | some e =>
          if !bit e.pte.toNat 4 || bit e.pte.toNat 5 then dropped
          else
            let s1 := if s.homeOf c.t.asid a = 8 then s else s.fillLine e c.t.asid a true
            into1 s1 (s1.physGet (e.pa (128 * line)) 128)
/-- PREF (R202). -/
def execPref (f : MF) (s : State) : Out :=
  issue (.pref f) s (fun s1 c => .done (c.accLanes.foldl (fun st l => c.prefLane f st l) s1) .next)

/-- INVL1 (R203). -/
def execInvl1 (f : MF) (s : State) : Out :=
  issue (.invl1 f) s (fun s1 c =>
    let a := (c.sval64 f.a).toNat
    let n := (c.sval f.b).toNat
    let hit (l : L1Line) := f.fn.getLsbD 0 || overlaps (128 * l.line) 128 (va57 a) n
    .done { s1 with l1 := s1.l1.filter (fun l => !(l.core == c.r.here && l.asid == c.t.asid && hit l)) } .next)

/-- One lane's line of SETFE (R204). -/
def Ctx.setfeAcc (c : Ctx) (s : State) (f : MF) (l : Nat) : LaneAcc :=
  let t := c.toff s f 128 l
  let base := t / 128 * 128
  if f.fn.getLsbD 1 then
    if t < 0 ∨ (2 : Int) ^ 26 ≤ t then { lane := l, parts := [], addr := wrapN 64 t, fails := [(6, 6)] }
    else { c.memberAcc s l base 128 false true with addr := wrapN 64 t }
  else { c.tileAcc s (s.ownTile c.t c.r) l base 128 0 none false true false with addr := wrapN 64 t }
/-- SETFE (R204): several lanes that name one line act once. -/
def execSetfe (f : MF) (s : State) : Out :=
  issue (.setfe f) s (fun s1 c =>
    c.access s1 f (.setfe (f.fn.getLsbD 0)) true none (fun _ => []) (c.accLanes.map (c.setfeAcc s1 f)))

/-- One lane's word of RROT, in the member that many places on (R205). -/
def Ctx.rrotAcc (c : Ctx) (s : State) (f : MF) (l : Nat) : LaneAcc :=
  c.tileAcc s (s.memberAt c.t ((c.r.core + field f.fn.toNat 1 0) % 4)) l (c.toff s f 4 l) 4 0 none (f.ord != 0) true true
/-- RROT (R205): the lines of the target become registered destinations at its port. -/
def execRrot (f : MF) (s : State) : Out :=
  issue (.rrot f) s (fun s1 c =>
    if !c.t.kernel.ring then .trap 1 c.active 0 0
    else
      c.access s1 f .rrot true none (c.regBytes s1 f.d 1) (c.accLanes.map (c.rrotAcc s1 f)))

/-! ### Residency before performance (R93, R179, R190) -/

/-- The load reads at the home (R81). -/
def Req.fresh (q : Req) : Bool := q.acq && decide (2 ≤ q.scope)

/-- What the home or port of each part reports, before any lane is performed (R93). -/
def State.survey (q : Req) (acc : Acc) : List Part → State → State × List (Part × Verdict)
  | [], s => (s, [])
  | p :: ps, s =>
    match p.space with
    | .tile _ =>
      let (s1, vs) := State.survey q acc ps s
      (s1, (p, .ok) :: vs)
    | .virt asid =>
      if acc == .read && !q.fresh && (s.l1At q.core asid p.addr).isSome then
        let (s1, vs) := State.survey q acc ps s
        (s1, (p, .ok) :: vs)
      else
        let (s1, v) := s.probe asid p.addr acc
        let (s2, vs) := State.survey q acc ps s1
        (s2, (p, v) :: vs)

/-- A split access whose pages, both resident, differ in attribute (R179, R190). -/
def State.attrSplit (s : State) (ps : List Part) (p : Part) : Bool :=
  p.off < 32 && ps.any (fun y => y.lane == p.lane && y.off < 32 && y.space == p.space && (match p.space with
    | .virt asid => y.addr / 65536 != p.addr / 65536 && (match s.attr asid y.addr, s.attr asid p.addr with
      | some a, some b => a != b
      | _, _ => false)
    | .tile _ => false))

/-- The access of a request. -/
def Req.acc (q : Req) : Acc := match q.kind with
  | .load _ _ | .loadRec _ _ _ => .read
  | _ => .write

/-- A request narrowed to some of its lanes, with the tags that those are counted under (R86). -/
def Req.narrow (q : Req) (m : LaneMask) : Req :=
  { q with
    lanes := q.lanes &&& m, parts := q.parts.filter (fun p => m.getLsbD p.lane)
    dest := q.dest.map (fun d => { d with lanes := d.lanes &&& m }), tags := tagsOver q.tagLanes (q.lanes &&& m) }
/-- A load with the lines that L1 has lost since it was issued among those that it misses (R177). -/
def State.missNow (s : State) (q : Req) : Req :=
  if q.acc == .read then { q with missed := (q.missed ++ s.linesMissed q.core q.fresh q.parts).eraseDups } else q
/-- The first report for a request (R93): a deferred fault, that of the first lane to meet one, in the lanes that raise its
cause (R371) (DESIGN CHOICE, log entry 111); a wait; the request ready in the lanes whose pages are resident, with the others
as one replay entry behind it in issue order. -/
def State.reportReq (s : State) (q : Req) : State :=
  let more := (s.missNow q).entries - q.entries
  let q := s.missNow q
  if 0 < more && decide (2048 < s.entriesUsed q.core + more) then s
  else
  let (s1, vs) := State.survey q q.acc q.parts s
  let vs : List (Part × Verdict) := vs.map (fun x => (x.1, if x.2 == Verdict.ok && s1.attrSplit q.parts x.1 then Verdict.fault 8 else x.2))
  let faults : List (Part × Nat) := vs.filterMap (fun x => match x.2 with | .fault k => some (x.1, k) | _ => none)
  let absent := maskOf ((vs.filter (fun x => x.2 == .moor)).map (fun x => x.1.lane))
  match faults with
  | (p, k) :: _ =>
    s1.parkReq { q with fault := some ⟨k, q.pc, q.slot, maskOf ((faults.filter (fun x => x.2 == k)).map (fun x => x.1.lane)), p.addr, q.instr, []⟩ }
  | [] =>
    if vs.any (fun x => x.2 == .wait) then s
    else if absent = 0 then s1.setReq { q with checked := true }
    else if 64 ≤ s1.replayEntries q.raft then s
    else
      let now : Req := { q.narrow (~~~absent) with checked := true }
      let then_ : Req := { q.narrow absent with id := s1.nextId, replay := true, twin := some q.id }
      if now.parts.isEmpty then s1.parkReq { q with replay := true }
      else
        { s1 with
          reqs := s1.reqs.flatMap (fun x => if x.id = q.id then now :: (if (s1.raft? q.raft).isSome then [then_] else []) else [x])
          nextId := s1.nextId + 1 }

/-! ### Order among a raft's own requests (R75, R79, R84) -/

/-- The port or bank that a part goes to. -/
def State.portOf (s : State) (p : Part) : Nat × Nat := match p.space with
  | .virt asid => (0, s.unitOf asid p.addr)
  | .tile core => (1, core)
/-- A request orders itself behind another of its raft: an acquire whose mask meets its tags, or both ordered (R84, R87);
one of the replay list, which a release or an atomic of another page does not wait for, is only the first (R93)
(DEDUCED, log entry 108). -/
def Req.behind (q x : Req) : Bool := (x.acq && (x.mask &&& q.tags) != 0) || (x.ordered && q.ordered && !x.replay)
/-- Two parts touch a common byte: of one line, or through synonyms of an uncached-shared frame (R76, R79). -/
def State.touch (s : State) (p y : Part) : Bool := s.shares p.space p.addr p.len y.space y.addr y.len
/-- SETFE passes an older load of its line that waits for an empty line, which may be its own raft's to set full, and one
that finds the line empty already stands behind no load of it (R90, R204). -/
def State.passesLoad (s : State) (q x : Req) (p : Part) : Bool := match q.kind, p.space with
  | .setfe full, .tile core => !x.isStore && (if full then x.parts.any (fun y => match y.space with
      | .tile k => s.emptyFor x.id k (y.addr / 128)
      | .virt _ => false) else s.isEmpty core (p.addr / 128))
  | _, _ => false
/-- Nothing older of the raft stands before a part: bytes in common (R79), stores on their way to one port (R75), but for
those in the replay list (R93), or an order of R84. Work that a fault has ended stands before nothing
(DEDUCED, log entry 21). -/
def State.partReady (s : State) (q : Req) (p : Part) : Bool :=
  ((s.reqs.takeWhile (fun x => x.id != q.id)).filter (fun x => x.raft == q.raft && x.fault.isNone)).all (fun x =>
    !q.behind x && x.parts.all (fun y =>
      (!s.touch p y || s.passesLoad q x p) &&
      !(x.isStore && q.isStore && x.kind != .rrot && !x.replay && s.portOf y == s.portOf p)))

/-- A store of the core that only L1 shows stands before an access at the home (R80, R81), and before any fill of its line;
a plain load that L1 serves passes it. -/
def State.earlyBlocks (s : State) (q : Req) (p : Part) : Bool := match p.space with
  | .tile _ => false
  | .virt asid =>
    if q.acc == .read then
      s.earlyOn q.core asid (p.addr / 128 * 128) 128 && (q.fresh || (s.l1At q.core asid p.addr).isNone)
    else !q.early && s.earlyOn q.core asid p.addr p.len
/-- A part can be performed now: nothing older stands before it, its answer may set out, and a load's tile lines, both lines of a split access,
are full (R90, R190). -/
def State.partGoes (s : State) (q : Req) (p : Part) : Bool :=
  s.partReady q p && !s.earlyBlocks q p && s.answerable q p && (match q.acc with
    | .read => (q.parts.filter (fun y => y.lane == p.lane)).all (fun y => match y.space with
      | .tile core => !s.emptyFor q.id core (y.addr / 128)
      | .virt _ => true)
    | _ => true)

/-- A part lies in a line, or in a synonym of it, which is one location with it (R76). -/
def State.inLine (s : State) (sp : Space) (line : Nat) (p : Part) : Bool := match sp, p.space with
  | .virt a, .virt b => s.sameLine a line b (p.addr / 128)
  | _, _ => p.space == sp && p.addr / 128 == line
/-- The lines of a request that can be performed now. -/
def State.readyLines (s : State) (q : Req) : List (Space × Nat) :=
  (((q.parts.map (fun p => (p.space, p.addr / 128))).eraseDups)).filter (fun (sp, l) =>
    (q.parts.filter (s.inLine sp l)).all (s.partGoes q))

/-! ### Performance -/

/-- A request that has met an absent page or a fault after its first report. -/
def State.stopReq (s : State) (q : Req) (v : Verdict) (addr : Nat) : State := s.failReq q v q.lanes addr

/-- A line as a load finds it, with the bytes of an open pass's list arena undetermined (R301) (DESIGN CHOICE, log entry 103). -/
def State.arenaLine (s : State) (asid va : Nat) (data : List Byte) : State × List Byte :=
  if s.passes.any (fun p => p.asid == asid && overlaps p.arena p.bytes va 128) then
    ({ s with freeCtr := s.freeCtr + 128 }, (numbered data).map (fun (j, b) =>
      if s.passes.any (fun p => p.asid == asid && overlaps p.arena p.bytes (va + j) 1) then BitVec.ofNat 8 (Config.freeNat (s.freeCtr + j)) else b))
  else (s, data)
/-- The 128 bytes of a line as a load finds them: from L1 where it may and the line is there, else from the home (R81,
R176), for which it needs a request entry (R177), or from the tile-memory port (DEDUCED, log entry 32). -/
def State.lineForLoad (s : State) (q : Req) (sp : Space) (line : Nat) : State × Verdict × List Byte :=
  match sp with
  | .tile core => (s, .ok, s.tileGet core (128 * line) 128)
  | .virt asid =>
    let va := 128 * line
    let (hit, s0) := s.choose
    let full := !q.missed.contains line && decide (2048 ≤ s.entriesUsed q.core)
    match (if q.fresh then none else s.l1At q.core asid va), hit || full || s.earlyOn q.core asid va 128 with
    | some l, true =>
      let (s1, data) := s0.arenaLine asid va l.data
      (s1, .ok, data)
    | _, _ =>
      if full then (s0, .wait, [])
      else match s0.ensure asid va .read with
      | (s1, .ok) =>
        let (s1, data) := s1.arenaLine asid va (s1.homeGet asid va 128)
        (s1.setL1 q.core asid (va57 va / 128) (if s1.uncached asid va then none else some data), .ok, data)
      | (s1, v) => (s1, v, [])

/-- A part's bytes put into a request's value; half of a byte alone for a 4-bit element. -/
def Part.take (p : Part) (data : List Byte) (got : Sparse 8) : Sparse 8 :=
  let bytes := (data.drop (p.addr % 128)).take p.len
  match p.nibble with
  | none => ssets got (64 * p.lane + p.off) bytes
  | some h => sset got (64 * p.lane + p.off) ((bytes.headD 0 >>> (4 * h)) &&& 0x0F#8)
/-- A part's bytes of a stored value put into a line. -/
def Part.give (p : Part) (val : Sparse 8) (data : List Byte) : List Byte :=
  let i := p.addr % 128
  match p.nibble with
  | none => overlay data i (sgets val (64 * p.lane + p.off) p.len)
  | some h =>
    let x := sget val (64 * p.lane + p.off) &&& 0x0F#8
    let old := data.getD i 0
    overlay data i [if h = 0 then (old &&& 0xF0#8) ||| x else (old &&& 0x0F#8) ||| (x <<< 4)]

/-- A lane's result (R187, R193, R198, R199). -/
def Req.result (q : Req) (lane : Nat) : List Word :=
  let raw (n : Nat) := ofBytes (sgets q.got (64 * lane) n)
  match q.kind with
  | .load n signed =>
    let x := raw n
    let y := if signed then wrapN 32 (asSigned (8 * n) x) else x
    (List.range (max 1 (n / 4))).map (fun j => BitVec.ofNat 32 (y / 2 ^ (32 * j)))
  | .loadRec r rc sat =>
    let y := Rec.toReg r (Rnd.ofCode rc) sat (raw (Rec.size r)) (sget q.got (64 * lane + 32)).toNat
    if (NFmt.ofCode r.rfmt).bits = 64 then words2 y else words1 (extendElem (.ofCode r.rfmt) y)
  | .atom fn => (List.range (atomWidth fn / 4)).map (fun j => BitVec.ofNat 32 (raw (atomWidth fn) / 2 ^ (32 * j)))
  | .cas n => (List.range (n / 4)).map (fun j => BitVec.ofNat 32 (raw n / 2 ^ (32 * j)))
  | _ => []

/-- A request whose every part has been performed: D is written, an acquire drops its lines, and the entry is free. -/
def State.finishReq (s : State) (q : Req) : State :=
  let s1 := s.nowReady (s.dropReq q.id) q.raft
  let first := (lanesOf 64 q.lanes).headD 0
  let s2 := match q.dest with
    | some d => s1.deliver q.raft d (fun l => q.result (if d.uniform then first else l))
    | none => s1
  match q.acq, s2.raft? q.raft with
  | true, some r =>
    match s2.team? r.team with
    | some t => if s2.scopeOf t.id q.scope < 2 then s2 else s2.dropNamed r.here t.asid q.binds q.mask
    | none => s2
  | _, _ => s2

/-- A request without some parts that have been performed: it is counted under the tags of the lanes that have any left
(R86, R194). -/
def Req.less (q : Req) (mine : List Part) : Req :=
  let left := q.parts.filter (fun p => !mine.contains p)
  { q with parts := left, tags := tagsOver q.tagLanes (maskOf (left.map (·.lane))) }
/-- A request after some of its parts, finished where none is left. -/
def State.partsDone (s : State) (q : Req) (mine : List Part) : State :=
  if (q.less mine).parts.isEmpty then s.finishReq (q.less mine) else s.setReq (q.less mine)

/-- One line of a load, read whole: a 16-byte access is not torn at its halves (DESIGN CHOICE, log entry 98). -/
def State.loadLine (s : State) (q : Req) (sp : Space) (line : Nat) : State :=
  match s.lineForLoad q sp line with
  | (s1, .ok, data) =>
    let mine := q.parts.filter (fun p => p.space == sp && p.addr / 128 == line)
    s1.partsDone { q with got := mine.foldl (fun g p => p.take data g) q.got } mine
  | (s1, v, _) => s1.stopReq q v (128 * line)

/-- One line of a store, at its home or port, with its synonyms (R76); the highest lane's bytes remain (R79), and the core's
L1 copy takes them (R176). SETFE sets or clears the line's bit (R204). -/
def State.storeLine (s : State) (q : Req) (sp : Space) (line : Nat) : State :=
  let mine := q.parts.filter (s.inLine sp line)
  let give (data : List Byte) := mine.foldl (fun d p => p.give q.data d) data
  match sp, q.kind with
  | .tile core, .setfe full => (s.setFull core line full).partsDone q mine
  | .tile core, _ => (s.tilePut core (128 * line) (give (s.tileGet core (128 * line) 128))).partsDone q mine
  | .virt asid, _ =>
    let va := 128 * line
    match State.ensureAll asid .write false ((mine.map (fun p => (p.addr / 128 * 128, 128))).eraseDups) s with
    | (s1, .ok) =>
      let s2 := s1.homePut asid va (give (s1.homeGet asid va 128))
      let s3 := match s2.l1At q.core asid va with
        | some l => s2.setL1 q.core asid (va57 va / 128) (some (give l.data))
        | none => s2
      s3.partsDone q mine
    | (s1, v) => s1.stopReq q v va

/-- The new value of an atomic (R197). -/
def atomNew (fn old d : Nat) : Nat :=
  match fn with
  | 0 | 13 => (old + d) % 2 ^ 32
  | 1 => Nat.land old d
  | 2 | 14 => Nat.lor old d
  | 3 => Nat.xor old d
  | 4 => if asSigned 32 old ≤ asSigned 32 d then old else d
  | 5 => if asSigned 32 d ≤ asSigned 32 old then old else d
  | 6 => min old d
  | 7 | 11 => max old d
  | 9 => FFmt.fp32.sum .rne [FFmt.fp32.value old, FFmt.fp32.value d]
  | 10 => (old + d) % 2 ^ 64
  | _ => d

/-- The bytes that an atomic leaves, from those it found and its operand's; none where it writes nothing (R199). -/
def Req.swap (q : Req) (lane : Nat) (old : List Byte) : Option (List Byte) :=
  match q.kind with
  | .atom fn =>
    let n := atomWidth fn
    some (toBytes n (atomNew fn (ofBytes old) (ofBytes (sgets q.data (64 * lane) n))))
  | .cas n => if old = sgets q.data (64 * lane) n then some (sgets q.data (64 * lane + n) n) else none
  | _ => none

/-- One lane of an atomic, at the lathe unit or the owning port; the core's L1 copy of the line is dropped (R81, R198)
(DEDUCED, log entry 42). -/
def State.atomLane (s : State) (q : Req) (p : Part) : State :=
  let after (s1 : State) (old : List Byte) : State :=
    s1.partsDone { q with got := ssets q.got (64 * p.lane) old } [p]
  match p.space with
  | .tile core =>
    let old := s.tileGet core p.addr p.len
    after (match q.swap p.lane old with | some new => s.tilePut core p.addr new | none => s) old
  | .virt asid =>
    match s.ensure asid p.addr .write with
    | (s1, .ok) =>
      let old := s1.homeGet asid p.addr p.len
      let s2 := match q.swap p.lane old with | some new => s1.homePut asid p.addr new | none => s1
      after (s2.setL1 q.core asid (va57 p.addr / 128) none) old
    | (s1, v) => s1.stopReq q v p.addr

/-- A store shows in its core's L1 before its home performs it (R81): the lines present take its bytes. -/
def State.showEarly (s : State) (q : Req) : State :=
  let s1 := q.parts.foldl (fun (s : State) p => match p.space with
    | .virt asid => (match s.l1At q.core asid p.addr with
      | some l => s.setL1 q.core asid (va57 p.addr / 128) (some (p.give q.data l.data))
      | none => s)
    | .tile _ => s) s
  s1.setReq { q with early := true }
/-- A store may show early: it does not yet, each of its parts can be performed, and L1 holds a line of it. -/
def State.mayShow (s : State) (q : Req) : Bool :=
  q.kind == .store && !q.early && q.parts.all (s.partGoes q) && q.parts.any (fun p => match p.space with
    | .virt asid => (s.l1At q.core asid p.addr).isSome
    | .tile _ => false)
/-- One step of a request that has been reported: a ready line of a load or store, the free choice deciding which; a store
freely shown in L1 before (R81) (DEDUCED, log entry 32); the next lane of an atomic. -/
def State.advanceReq (s : State) (q : Req) : State :=
  match q.kind with
  | .atom _ | .cas _ =>
    match q.parts with
    | p :: _ => if s.partGoes q p then s.atomLane q p else s
    | [] => s
  | _ =>
    let (n, s1) := s.draw
    let ready := s.readyLines q
    match ready[n % ready.length]? with
    | none => if q.parts.isEmpty then s.finishReq q else s
    | some (sp, line) =>
      match q.kind with
      | .load _ _ | .loadRec _ _ _ => s1.loadLine q sp line
      | _ =>
        if s1.mayShow q then
          let (e, s2) := s1.choose
          if e then s2.showEarly q else s2.storeLine q sp line
        else s1.storeLine q sp line

/-- The team of a raft is stowed: it performs no accesses (R94). -/
def State.away (s : State) (rid : Nat) : Bool := ((s.raft? rid).bind (fun r => s.team? r.team)).any (·.stowed.isSome)
/-- A request not in the replay list takes its next step: the report, or a performance; a reply that accesses nothing comes (R406). -/
def State.moveReq (s : State) (q : Req) : State :=
  if q.replay || q.fault.isSome || s.away q.raft then s
  else if q.parts.isEmpty then s.finishReq q
  else if q.checked then s.advanceReq q
  else s.reportReq q

/-- LOAD_REPLY (R93, R194). -/
def execLoadReply (req : Nat) (s : State) : Out :=
  .next (match s.req? req with
    | some q => (match q.kind with
      | .load _ _ | .loadRec _ _ _ => s.moveReq q
      | _ => s)
    | none => s)

/-- STORE_PERFORM (R75, R194): a raft's store, or one of the control die's cores (R95). -/
def execStorePerform (src : StoreSrc) (s : State) : Out :=
  .next (match src with
    | .raft req =>
      match s.req? req with
      | some q => (match q.kind with
        | .store | .setfe _ => s.moveReq q
        | _ => s)
      | none => s
    | .software asid va bytes => if canonical va.toNat then (s.writeAt asid va.toNat bytes).1 else s)

/-- ATOMIC_PERFORM (R198, R199). -/
def execAtomicPerform (req : Nat) (s : State) : Out :=
  .next (match s.req? req with
    | some q => (match q.kind with
      | .atom _ | .cas _ => s.moveReq q
      | _ => s)
    | none => s)

/-- A part of an RROT whose line is empty without a pending fill, and not an older RROT's (R205). -/
def State.rrotGoes (s : State) (q : Req) (p : Part) : Bool :=
  match p.space with
  | .tile core => s.isEmpty core (p.addr / 128) && !s.fillPending p && s.partReady q p &&
      !((s.reqs.takeWhile (fun x => x.id != q.id)).filter (fun x => x.kind == .rrot)).any (fun x =>
        x.parts.any (fun y => y.space == p.space && y.addr / 128 == p.addr / 128))
  | .virt _ => false
/-- RROT_LINE_WRITE: the first of an RROT's lines that is empty without a pending fill, and not an older RROT's, is
written and set full (R205). -/
def execRrotLineWrite (req : Nat) (s : State) : Out :=
  .next (match s.req? req with
    | some q =>
      if q.kind != .rrot || s.away q.raft then s
      else
        match q.parts.find? (s.rrotGoes q) with
        | none => s
        | some p =>
          match p.space with
          | .tile core =>
            let line := p.addr / 128
            let mine := q.parts.filter (fun y => y.space == p.space && y.addr / 128 == line)
            let data := mine.foldl (fun d y => y.give q.data d) (s.tileGet core (128 * line) 128)
            ((s.tilePut core (128 * line) data).setFull core line true).partsDone q mine
          | .virt _ => s
    | none => s)

/-! ### Fills, walks and the replay list -/

/-- L2_FILL: a line that no bank holds is filled where its translation is present and permits the access (R273, R290). -/
def execL2Fill (asid line : Nat) (acc : Acc) (s : State) : Out :=
  let va := 128 * line
  .next (if (s.l2At asid va).isSome || s.held asid va || s.marked asid va || decide (2 ^ 50 ≤ line) then s
    else match s.tlbAt (s.homeOf asid va) asid va with
      | none => s
      | some e =>
        if s.direct asid va e then s
        else match s.useEntry asid va acc e true with
          | some (s1, .ok) => s1
          | _ => s)

/-- PAGE_WALK: what the walkers do next for a page (R21, R284 to R289). Its request comes; one of the first 64 reads the
tables; and its walk completes at the home, where one that would make a mark more than a TLB holds waits. -/
def execPageWalk (asid : Nat) (va : DWord) (acc : Acc) (s : State) : Out :=
  .next (match s.walkFor asid va.toNat with
    | none => if canonical va.toNat && !s.marked asid va.toNat then s.askWalk asid va.toNat acc else s
    | some w =>
      let done : State := { s with walks := s.walks.filter (· != w) }
      if !(s.walks.take 64).contains w then s
      else if s.marked asid va.toNat then done
      else match w.found with
        | none => { s with walks := s.walks.map (fun x => if x = w then { w with found := some (s.walk asid w.va.toNat) } else x) }
        | some (.absent base size table) =>
          if s.marksFull (s.homeOf asid va.toNat) then s else (done.installWalk asid w.va.toNat w.acc (.absent base size table)).flushPosts
        | some r => (done.installWalk asid w.va.toNat w.acc r).flushPosts)

/-- FAULT_RING_POST: the oldest waiting mark's record is written where the ring has room (R354). -/
def execFaultRingPost (s : State) : Out :=
  .next (match s.ringWait with
    | [] => s
    | m :: rest =>
      let log2 := field s.csr.fqCtl.toNat 4 0
      if 2 ^ log2 ≤ (s.csr.fqHead - s.csr.fqTail).toNat then s
      else
        let rec_ := toBytes 8 (if m.va < 2 ^ 56 then m.va else m.va + 2 ^ 64 - 2 ^ 57) ++
          toBytes 8 (m.asid + m.home * 2 ^ 16 + m.kind * 2 ^ 22)
        { (s.physPut (s.csr.fqBase.toNat + s.csr.fqHead.toNat % 2 ^ log2 * 16) rec_) with
          ringWait := rest, csr := { s.csr with fqHead := s.csr.fqHead + 1 } })

/-- A replay entry performed whole: its steps until it is finished, stopped or blocked. -/
def State.runReq (id : Nat) : Nat → State → State
  | 0, s => s
  | fuel + 1, s =>
    match s.req? id with
    | none => s
    | some q => if q.replay || q.fault.isSome then s else State.runReq id fuel (s.moveReq q)

/-- Every page that a request names is resident and unmarked. -/
def State.reqResident (s : State) (q : Req) : Bool := q.parts.all (fun p => !s.partAbsent p)

/-- The replay list's requests performed in issue order, up to one that cannot be, which stays on the list (R93, R141). -/
def State.performList : List Nat → State → State
  | [], s => s
  | id :: ids, s =>
    match s.req? id with
    | none => State.performList ids s
    | some q =>
      let q1 := { q with replay := false }
      -- a barrier arrival is performed by its own event
      let arrival := match q.kind with | .arrive _ _ => true | _ => false
      let s1 := if arrival then s.setReq q1 else (s.setReq q1).runReq id (2 * q.parts.length + 4)
      match s1.req? id with
      | none => State.performList ids s1
      | some q2 => if q2.fault.isSome || arrival then State.performList ids s1 else s1.setReq { q2 with replay := true }

/-- A page that a moored sub-raft's own slot or fetch needs is there now; one that moored on the replay list goes on with
it. -/
def State.slotReady (s : State) (asid : Nat) (w : Wait) : Bool :=
  match w with
  | .moored (some va) | .mooredIn (some va) _ => !s.absent asid va
  | _ => true
/-- What a sub-raft that is moored no more waits for: what it waited for when it moored, or its BAR's arrival, where that was
in the replay list (R131). -/
def State.waitAgain (s : State) (rid e : Nat) (w : Wait) : Wait :=
  match w with
  | .mooredIn _ back => back
  | _ =>
  match s.reqs.find? (fun q => q.raft == rid && (match q.kind with | .arrive _ ent => ent == some e | _ => false)) with
  | some q => .barrier ((q.parts.map (·.addr)).headD 0) none
  | none => .none
/-- A raft that holds no replay entry any more: each sub-raft whose page is there goes on from where it moored,
and its age with it (R141). -/
def State.unmoor (s : State) (rid asid : Nat) : State :=
  -- a sub-raft that moored as it read GEN again reads it once more (R131)
  let again (r : Raft) : List Nat := r.subs.filterMap (fun x => match x.2.wait with
    | .mooredIn _ (.barrier va _) => if s.slotReady asid x.2.wait then some va else none
    | _ => none)
  let s := (s.raft? rid).elim s (fun r => (again r).foldl (fun (s : State) va => s.sendWakes asid va [r.here]) s)
  (s.mapRaft rid (fun r => { r with
    split := (numbered r.split).map (fun (e, x) => x.map (fun en =>
      if en.wait.isMoored && s.slotReady asid en.wait then { (if r.halted then en else en.turnAge s.clock) with wait := s.waitAgain rid e en.wait } else en)) })).markMoored rid

/-- Every page that a raft's replay list names is resident and unmarked (R93, R363). -/
def State.replayReady (s : State) (rid : Nat) : Bool :=
  (s.reqs.filter (fun q => q.raft == rid && q.replay)).all s.reqResident &&
  (s.ops.filter (fun o => o.raft == some rid && o.replay)).all (fun o => match o.susp with | some va => !s.absent o.asid va | none => true)
/-- A raft's replay list performed in issue order; suspended operations of it may resume, and the raft goes on (R93,
R141). -/
def State.readmit (s : State) (rid asid : Nat) : State :=
  let s1 : State := { s with ops := s.ops.map (fun o => if o.raft = some rid then { o with replay := false } else o) }
  let s2 := State.performList ((s.reqs.filter (fun q => q.raft == rid && q.replay)).map (·.id)) s1
  if s2.reqs.any (fun q => q.raft == rid && q.replay) then s2 else s2.unmoor rid asid

/-- MOORED_READMIT: once every page that the replay list names is resident and unmarked, the list is performed in issue
order, suspended operations of it may resume, and the raft goes on (R93, R141, R363). Nothing is performed of a team that is
being terminated (R374). -/
def execMooredReadmit (raft : Nat) (s : State) : Out :=
  .next (match s.raft? raft with
    | none => s
    | some r =>
      let qs := s.reqs.filter (fun q => q.raft == raft && q.replay)
      let os := s.ops.filter (fun o => o.raft == some raft && o.replay)
      let asid := ((s.team? r.team).map (·.asid)).getD 0
      let held := ((s.team? r.team).map (fun t => t.stowed.isSome || t.dying.isSome)).getD true
      let moored := r.subs.any (fun x => x.2.wait.isMoored && s.slotReady asid x.2.wait) || (r.exitAt.isSome && r.mooredAt.isSome)
      if held || (qs.isEmpty && os.isEmpty && !moored) || !s.replayReady raft then s else s.readmit raft asid)

end Sys2Proof.Machine
end

