-- ==== Sys2Proof/Machine/Ferry.lean ====
section
/-!
DEFINITION. Engine operations in general (their order, the bytes they read and write, their faults, suspension and
completion), and the ferry engine (chapter 08): FCOPY, FFILL, FGATHER, FSCATTER, FQUEUE and what they do as they run.
-/

namespace Sys2Proof.Machine

open Sys2Proof

/-! ### Engine operations (R17, R88 to R90) -/

/-- What an engine's access meets: done; it waits; an absent page; a fault, with its side (R227) and address. -/
inductive ERes where
  | done
  | wait
  | moor (va : Nat)
  | fault (cause side addr : Nat)
  deriving DecidableEq, Repr

/-- A home's verdict on an engine's access. -/
def Verdict.asERes (v : Verdict) (side va : Nat) : ERes :=
  match v with
  | .ok => .done
  | .wait => .wait
  | .moor => .moor va
  | .fault k => .fault k side va

/-- A range of one operation conflicts with one of another: common bytes (R76), and one of them is written. -/
def State.clash (s : State) (a b : Range) : Bool := (a.write || b.write) && (match a.space, b.space with
  | .virt x, .virt y => s.meets x a.lo a.len y b.lo b.len
  | sp, sp' => sp == sp' && overlaps a.lo a.len b.lo b.len)
/-- A registered range is met by a range of an operation of a core: its table is that core's, or the one that the range
stands in, or the port's that it reaches (R89). -/
def Range.metBy (g : Range) (core : Nat) (h : Range) : Bool :=
  g.table.isSome && (g.table == some core || g.table == h.table || (match h.space with
    | .tile k => g.table == some k
    | .virt _ => false))

/-- Between two BLENDs the scoreboard alone orders (R323). -/
def isBlend : Instr → Bool
  | .blend _ => true
  | _ => false
/-- An operation that reads memory which becomes known only as it runs (R306). -/
def readsOnward : Instr → Bool
  | .emit _ | .trace _ => true
  | _ => false
/-- Bytes of a request stand in a range. -/
def State.inRange (s : State) (h : Range) (p : Part) : Bool := match h.space, p.space with
  | .virt a, .virt b => s.meets a h.lo h.len b p.addr p.len
  | sp, sp' => sp == sp' && overlaps h.lo h.len p.addr p.len
/-- An operation may start: no earlier operation whose registered range it clashes with is in flight, no waiting RROT
holds a line of it, its raft's earlier accesses to its ranges have been performed, and so have the acquires that stand
before it, and the stores of its core that L1 already shows (R80, R84, R88, R89, R205) (DEDUCED, log entry 88). -/
def State.opReady (s : State) (o : Op) : Bool :=
  (s.ops.filter (fun x => decide (x.id < o.id) && !(isBlend x.instr && isBlend o.instr))).all (fun x =>
    !x.ranges.any (fun g => o.ranges.any (fun h => g.metBy o.core h && s.clash g h))) &&
  (s.reqs.filter (fun q => q.fault.isNone)).all (fun q =>
    !(q.early && q.core == o.core && (readsOnward o.instr || q.parts.any (fun p => o.ranges.any (fun h => s.inRange h p)))) &&
    (decide (o.id ≤ q.born) ||
      (if q.kind == .rrot then
        !q.parts.any (fun p => o.ranges.any (fun h => h.space == p.space && overlaps h.lo h.len (p.addr / 128 * 128) 128))
      else
        some q.raft != o.raft || (!(q.acq && (q.mask &&& o.tags) != 0) && !(readsOnward o.instr && q.isStore) &&
          !q.parts.any (fun p => o.ranges.any (fun h => s.inRange h p))))))
/-- Bytes that an operation comes to read as it runs are being written by an earlier one of its core (R89, R306). -/
def State.writtenAhead (s : State) (o : Op) (va n : Nat) : Bool :=
  let h : Range := ⟨.virt o.asid, va, n, false, none⟩
  s.ops.any (fun x => decide (x.id < o.id) && x.ranges.any (fun g => g.metBy o.core h && s.clash g h))

/-- The team of an operation is stowed, so that it is not resumed (R225). -/
def State.opStowed (s : State) (o : Op) : Bool := match o.team with
  | some t => ((s.team? t).map (·.stowed.isSome)).getD false
  | none => false

/-- An operation may act now: nothing holds it, and its accesses may set out from its die (R24). -/
def State.opGoes (s : State) (o : Op) : Bool :=
  o.fault.isNone && o.susp.isNone && !o.replay && (List.range 9).all (s.wayClear (o.core / 32)) && s.opReady o

/-- The cores whose L1 may hold a line that an operation's raft reads: the engine's, and the raft's own. -/
def State.opCores (s : State) (o : Op) : List Nat := match o.raft.bind s.raft? with
  | some r => [o.core, r.here]
  | none => [o.core]
/-- Lines written by an engine leave those L1s, so that its raft reads them afresh once it has waited (R88). -/
def State.dropWritten (s : State) (o : Op) (va n : Nat) : State :=
  { s with l1 := s.l1.filter (fun l => !((s.opCores o).contains l.core && l.asid == o.asid && overlaps (128 * l.line) 128 (va57 va) n)) }

/-- Bytes that an engine reads; in tile memory it waits for lines to be full (R90). -/
def State.engineRead (s : State) (o : Op) (sp : Space) (a n side : Nat) : State × ERes × List Byte :=
  match sp with
  | .tile core =>
    if (linePieces a n).any (fun x => s.emptyFor o.id core (x.1 / 128)) then (s, .wait, [])
    else (s, .done, s.tileGet core a n)
  | .virt asid =>
    match s.readAt asid a n .read with
    | (s1, v, b) => (s1, v.asERes side a, b)
/-- Bytes that an engine writes; a line with an earlier pending fill waits for it (R220). -/
def State.engineWrite (s : State) (o : Op) (sp : Space) (a : Nat) (bytes : List Byte) (side : Nat) (again : Bool := false) : State × ERes :=
  match sp with
  | .tile core =>
    if (linePieces a bytes.length).any (fun x => s.ops.any (fun y => decide (y.id < o.id) && y.fills.contains (core, x.1 / 128))) then (s, .wait)
    else (s.tilePut core a bytes, .done)
  | .virt asid =>
    match s.writeAt asid a bytes again with
    | (s1, .ok) => (s1.dropWritten o a bytes.length, .done)
    | (s1, v) => (s1, v.asERes side a)

/-- Lines that an operation has written for the last time: each becomes full, unless another operation's fill of it is
pending (R90, R220, R223). -/
def State.releaseFills (s : State) (id : Nat) : List (Nat × Nat) → State
  | [] => s
  | (core, line) :: rest =>
    let s1 : State := { s with ops := s.ops.map (fun o => if o.id = id then
      { o with fills := o.fills.filter (fun x => x != (core, line)), marked := o.marked.filter (fun x => x != (core, line)) } else o) }
    State.releaseFills (if s1.ops.any (fun o => o.fills.contains (core, line)) then s1 else s1.setFull core line true) id rest

/-- An operation completes: its fills are released, its ranges and its count end (R221), also in the frame of a stowed team
(R20). -/
def State.finishOp (s : State) (id : Nat) : State :=
  match s.op? id with
  | none => s
  | some o =>
    let s1 := (s.releaseFills id o.fills).dropOp id
    match o.raft with
    | some rid => (s.nowReady s1 rid).refresh rid
    | none => s1

/-- An operation that stops before its end; that of a raft that has been terminated is abandoned (R374)
(DEDUCED, log entry 59). -/
def State.parkOp (s : State) (o : Op) : State :=
  if o.raft.all (fun r => (s.raft? r).isSome) then (o.raft.elim (s.setOp o) (s.setOp o).refresh) else s.finishOp o.id

/-- A run-time fault ends an operation's work: its lines become full, its ranges and locks end, and the fault waits for
its trap point (R226). -/
def State.failOp (s : State) (o : Op) (cause addr : Nat) (detail : List Byte) : State :=
  let s1 := (s.setOp o).releaseFills o.id o.fills
  match s1.op? o.id with
  | none => s1
  | some o1 => s1.parkOp { o1 with ranges := [], locks := [], fault := some ⟨cause, o.pc, o.slot, o.lanes, addr, o.word, detail⟩ }

/-- A non-resident page suspends an operation: one entry of its raft's replay list (R224). Where that list holds its 64
entries, the operation stands as it is and comes to the page again (R355) (DEDUCED, log entry 113). -/
def State.suspendOp (s : State) (o : Op) (va : Nat) : State :=
  if o.raft.any (fun r => decide (64 ≤ s.replayEntries r)) then s.parkOp o
  else s.parkOp { o with susp := some va, replay := o.raft.isSome }

/-- The team of an operation is being terminated: what it has suspended is abandoned, with no further writes (R374). -/
def State.opDying (s : State) (o : Op) : Bool := match o.team with
  | some t => ((s.team? t).bind (·.dying)).isSome
  | none => false
/-- A suspended operation goes on once its page is resident and, for a stowed team, it has been restored (R224, R225). -/
def State.resumeOp (s : State) (o : Op) : State :=
  match o.susp with
  | none => s
  | some va => if s.opStowed o || s.opDying o || s.absent o.asid va then s else s.setOp { o with susp := none, replay := false }

/-- A new operation's common fields (R17): the issuing raft, its open batch, and the engine of the core it sits on. -/
def Ctx.newOp (c : Ctx) (s : State) (i : Instr) (cls : Nat) : Op :=
  { Op.blank s.nextId i with
    raft := some c.r.id, team := some c.t.id, core := c.r.here, asid := c.t.asid, cls := cls, batch := c.r.batchCount
    lanes := c.active, since := s.clock, asked := s.clock, pc := c.cl.pc, slot := c.en.slot, word := c.word }

/-- An operation has room: an in-flight entry, and in each range-lock table the entries that it takes there (R17, R54, R210).
A matrix operation leaves its queue as it starts (R237); what is suspended in a stow frame holds no entry (R225). -/
def State.roomFor (s : State) (o : Op) (cap : Nat) : Bool :=
  let mine := s.ops.filter (fun x => x.core == o.core && x.cls == o.cls && x.fault.isNone && (o.cls != 0 || x.phase == 0) &&
    !(x.susp.isSome && s.opStowed x))
  let tables := o.ranges.filterMap (·.table)
  decide (mine.length < cap) && tables.all (fun k => decide (s.tableUse k + tables.count k ≤ 1024))
/-- A counter of the raft stands at its most, so that an operation cannot be counted (R124). -/
def State.countsFull (s : State) (o : Op) : Bool := match o.raft with
  | none => false
  | some rid => decide (65535 ≤ s.counter rid o.cls) || (o.loadsD && decide (65535 ≤ s.counter rid 4))
/-- An operation can be accepted: it has room, and its counters too (R17, R54, R124). -/
def State.mayEnter (s : State) (o : Op) (cap : Nat) : Bool := s.roomFor o cap && !s.countsFull o
/-- One more operation is in flight, and the lines of `fills` have become empty (R90, R220). -/
def State.withOp (s : State) (o : Op) (fills : List (Nat × Nat)) : State :=
  let s1 := fills.foldl (fun st x => st.setFull x.1 x.2 false) s
  { s1 with ops := s1.ops ++ [{ o with fills := fills, marked := fills.filter (fun x => !s.isEmpty x.1 x.2) }], nextId := s1.nextId + 1 }
/-- An operation under the tags of every local range that it touches (R86). -/
def Ctx.tagged (c : Ctx) (s : State) (o : Op) : Op := { o with tags := s.tagsFor c.r c.t (o.ranges.map (fun g => (g.space, g.lo, g.len))) }
/-- An operation that passes its checks is accepted, or its slot stalls for want of room. -/
def Ctx.enter (s : State) (o : Op) (cap : Nat) (fills : List (Nat × Nat)) (after : State → State) : Res :=
  if s.mayEnter o cap then .done (after (s.withOp o fills)) .next else .stall s .slot
def Ctx.accept (c : Ctx) (s : State) (o : Op) (cap : Nat) (fills : List (Nat × Nat)) (after : State → State) : Res :=
  Ctx.enter s (c.tagged s o) cap fills after
/-- A check of an engine instruction that fails is a precise trap with the engine's own detail, but for ILLOP, which is
R55's (R371) (DEDUCED, log entry 35). `place` is the detail's high part and side. -/
def Ctx.failCheck (c : Ctx) (s : State) (cause addr : Nat) (place : Nat × Nat) : Res :=
  .trapIn s cause c.active addr 0 (if cause = 1 then [] else placeDetail c.cl.pc c.en.slot c.word place.1 place.2 addr 0)
/-- Checks of an instruction in order: the first that fails, with the address it names and its place. -/
def Ctx.unless (c : Ctx) (s : State) (checks : List (Bool × Nat × Nat × Nat × Nat)) (go : Res) : Res :=
  match checks.find? (·.1) with
  | some (_, cause, addr, place) => c.failCheck s cause addr place
  | none => go

/-! ### Ferry descriptors (R206 to R209, R214) -/

/-- The format A fields of a ferry instruction. -/
def ferryFields : Instr → AF
  | .fcopy f | .fgather f | .fscatter f | .ffill f | .fqueue f => f
  | _ => ⟨0, 0, 0, 0, 0, 0, 0⟩
/-- Rounding and saturation of a ferry (R206). -/
def Op.rc (o : Op) : Rnd := Rnd.ofCode (field (ferryFields o.instr).fn.toNat 2 0)
def Op.sat (o : Op) : Bool := (ferryFields o.instr).fn.getLsbD 3

/-- A word of a descriptor, unsigned and signed. -/
def Op.uw (o : Op) (k : Nat) : Nat := (o.desc.getD k 0).toNat
def Op.sw (o : Op) (k : Nat) : Int := (o.desc.getD k 0).toInt
/-- The records: 0 the source, 1 the destination, 2 the index record. -/
def Op.brec (o : Op) (k : Nat) : BRec := o.recs.getD k default
/-- Where a record lies. -/
def Op.place (o : Op) (k : Nat) : Space × Nat := o.places.getD k (.virt o.asid, 0)

/-- FGATHER or FSCATTER. -/
def byIndex : Instr → Bool
  | .fgather _ | .fscatter _ => true
  | _ => false
/-- A combining FSCATTER (R216). -/
def combines : Instr → Bool
  | .fscatter f => f.imm.getLsbD 0
  | _ => false

/-- Box extents (R207). -/
def boxX (d : List Word) (j : Nat) : Nat :=
  let w := (d.getD (1 + j / 2) 0).toNat
  (if j % 2 = 0 then field w 15 0 else field w 31 16) + 1
/-- Elements of a ferry (R208, R215). -/
def ferryCount (i : Instr) (d : List Word) : Nat :=
  if byIndex i then (d.getD 1 0).toNat * (d.getD 2 0).toNat else boxX d 0 * boxX d 1 * boxX d 2 * boxX d 3

/-- A box element's index in a record with these extents (R208). -/
def boxIndex (d : List Word) (r : BRec) (org step : Int) (k : Nat) : Int :=
  let x0 := boxX d 0
  let x1 := boxX d 1
  let x2 := boxX d 2
  org + (k % x0 : Nat) + (k / x0 % x1 * r.ext0 : Nat) + (k / (x0 * x1) % x2 * (r.ext0 * r.ext1) : Nat) + (k / (x0 * x1 * x2) : Nat) * step
/-- The source and destination indices of element k, given the index x that its item reads (R208, R215). -/
def ferryIndex (i : Instr) (d : List Word) (src dst : BRec) (x : Int) (k : Nat) : Int × Int :=
  let sw (j : Nat) := (d.getD j 0).toInt
  let row := (d.getD 2 0).toNat
  match i with
  | .fgather _ => (sw 3 + x * sw 6 + (k % row : Nat), sw 4 + k)
  | .fscatter _ => (sw 3 + k, sw 4 + x * sw 6 + (k % row : Nat))
  | _ => (boxIndex d src (sw 3) (sw 5) k, boxIndex d dst (sw 4) (sw 6) k)

/-- The smallest and largest index of a box in a record (R209 check 7). -/
def boxBounds (d : List Word) (r : BRec) (org step : Int) : Int × Int :=
  let far : Int := (boxX d 0 - 1 : Nat) + ((boxX d 1 - 1) * r.ext0 : Nat) + ((boxX d 2 - 1) * (r.ext0 * r.ext1) : Nat)
  let last : Int := (boxX d 3 - 1 : Nat) * step
  (org + min 0 last, org + far + max 0 last)

/-- Reserved and unused descriptor fields (check 1). -/
def ferryDescOk (i : Instr) (d : List Word) : Bool :=
  let w (j : Nat) := (d.getD j 0).toNat
  if byIndex i then
    field (w 0) 31 24 == 0 && decide (1 ≤ w 1) && decide (w 1 ≤ 2 ^ 24) && decide (1 ≤ w 2) && decide (w 2 ≤ 65536) && w 7 == 0
  else
    field (w 0) 31 16 == 0 && w 7 == 0 && (match i with
      | .ffill _ => field (w 0) 7 0 == 0 && w 3 == 0 && w 5 == 0
      | _ => true)

/-- The storage formats of which a combine accepts the destination (R216). -/
def combineFmt (fmt : Nat) : Bool := fmt == 0 || fmt == 1 || fmt == 2 || fmt == 7 || fmt == 8

/-- Bits pass unchanged from one storage to another (R211). -/
def sameStore (src dst : BRec) : Bool := src.fmt == dst.fmt && src.scale == dst.scale
/-- One element converted (R211). -/
def ferryConv (src dst : BRec) (mode : Rnd) (sat : Bool) (raw scale : Nat) : Nat :=
  if sameStore src dst then raw
  else if src.scale = dst.scale ∧ !isMx src.fmt then convertNum (storeFmt src.fmt) (storeFmt dst.fmt) mode sat raw
  else Rec.toFmt (storeFmt dst.fmt) mode sat (Rec.scaleBy (src.scale - dst.scale) (Rec.value src raw scale))

/-- Check 4 of R209, and the E2M1 rule of check 5. An MX FCOPY with FN[3] = 0 meets check 5 alone, its multiples of 32 unasked, so
that it raises ILLOP where R212's bullets, read as checks 4 and 5, could give FERRY_DESC (DESIGN CHOICE, log entry 114). -/
def ferryRecsOk (i : Instr) (f : AF) (d : List Word) (src dst idx : BRec) : Bool × Bool :=
  let peers := (if src.space = 3 then 1 else 0) + (if dst.space = 3 then 1 else 0)
  let mx := isMx dst.fmt
  let blocks := boxX d 0 % 32 == 0 && (d.getD 4 0).toNat % 32 == 0 && (d.getD 6 0).toNat % 32 == 0 && dst.ext0 % 32 == 0
  let fcopy := match i with | .fcopy _ => true | _ => false
  let four := decide (peers ≤ 1) && (!byIndex i || (decide (idx.space ≤ 1) && (idx.fmt == 7 || idx.fmt == 8))) &&
    (!combines i || combineFmt dst.fmt) && (!mx || (fcopy && (blocks || !f.fn.getLsbD 3)))
  let same := match i with
    | .ffill _ => Rec.plain dst
    | _ => sameStore src dst && !mx
  (four, f.fn.getLsbD 3 || !((storeFmt dst.fmt == .flt .e2m1 && !same) || mx))

/-- A record's extent within its space, as checked (check 6): canonical virtual bytes without a wrap, or offsets within
the allocation. -/
def extentCause (r : BRec) (alloc : Nat) : Option Nat :=
  let (lo, len) := Rec.extent r
  if r.space = 0 ∨ r.space = 3 then
    let a := wrapN 64 lo
    if canonical a && canonical (a + len - 1) && (decide (a < 2 ^ 56) == decide (a + len - 1 < 2 ^ 56)) then none else some 5
  else if decide (0 ≤ lo) && decide (lo + len ≤ (alloc : Int)) then none else some 6

/-- The place of a record's space for a raft; none where its tile memory cannot be reached (check 8, R397). -/
def Ctx.recPlace (c : Ctx) (s : State) (r : BRec) : Option (Space × Nat) :=
  match r.space with
  | 0 | 3 => some (.virt c.t.asid, 0)
  | sp =>
    if c.r.landed.isSome then none
    else (if sp = 1 then s.ownTile c.t c.r else s.memberAt c.t (Rec.member r)).map (fun p => (.tile p.1, p.2))

/-- A record's extent as a range. -/
def recRange (p : Space × Nat) (r : BRec) (write : Bool) (table : Option Nat) : Range :=
  let (lo, len) := Rec.extent r
  ⟨p.1, match p.1 with | .virt _ => wrapN 64 lo | .tile _ => p.2 + lo.toNat, len, write, table⟩

/-- The bytes of one element within its space, its half of a byte where it has 4 bits, and its MX scale byte. -/
structure Spot where
  space : Space
  addr : Nat
  len : Nat
  nibble : Option Nat
  scale : Nat
  deriving DecidableEq, Repr
def spotOf (p : Space × Nat) (r : BRec) (j : Nat) : Spot :=
  let (b, sc) := Rec.locate r j
  let at_ (x : Int) : Nat := match p.1 with
    | .virt _ => wrapN 64 x
    | .tile _ => p.2 + x.toNat
  ⟨p.1, at_ (b / 8), Rec.size r, if Rec.bits r = 4 then some (if b % 8 = 0 then 0 else 1) else none, at_ sc⟩

/-- The record index that an element index settles to under the OOB policy: none where no access is made (R188, R208).
Out of bounds under OOB 2 is a fault of its own (R215). -/
def settleIndex (r : BRec) (idx : Int) (load : Bool) : Option Nat :=
  if 0 ≤ idx ∧ idx < Rec.count r then some idx.toNat
  else if r.oob = 1 ∧ load then some (if idx < 0 then 0 else Rec.count r - 1)
  else none
def strictOut (r : BRec) (idx : Int) : Bool := r.oob == 2 && !(decide (0 ≤ idx) && decide (idx < Rec.count r))

/-- The lines of an own-tile destination that a ferry may write (R210). -/
def ferryLines (i : Instr) (d : List Word) (src dst : BRec) (p : Space × Nat) : List (Nat × Nat) :=
  match p.1 with
  | .virt _ => []
  | .tile core =>
    let lines (a n : Nat) := (linePieces a n).map (fun x => (core, x.1 / 128))
    match i with
    | .fscatter _ => let g := recRange p dst true none; (lines g.lo g.len).eraseDups
    | _ =>
      ((List.range (ferryCount i d)).flatMap (fun k =>
        match settleIndex dst (ferryIndex i d src dst 0 k).2 false with
        | none => []
        | some j => let sp := spotOf p dst j; lines sp.addr sp.len)).eraseDups

/-- Two extents share a byte in one space, or in one member's tile memory (check 9). -/
def aliases (a b : Range) : Bool := a.space == b.space && overlaps a.lo a.len b.lo b.len

/-- The barrier's address (R206, R222): none for ZERO. -/
def Ctx.barrierOf (c : Ctx) (r : RegNum) : Option Nat := if Kind.of r = .zero then none else some (c.sval64 r).toNat

/-- The records that a ferry names are read in order: source, destination, index record (checks 2 and 3). -/
def Ctx.ferryRecs (c : Ctx) (s : State) (i : Instr) (d : List Word) (k : State → BRec → BRec → BRec → Res) : Res :=
  let w := (d.getD 0 0).toNat
  let n := c.t.kernel.brecCount
  let ffill := match i with | .ffill _ => true | _ => false
  let si := field w 7 0
  let di := field w 15 8
  let ii := field w 23 16
  let bad := (if ffill then [] else [(si, 0)]) ++ [(di, 1)] ++ (if byIndex i then [(ii, 2)] else [])
  if let some x := bad.find? (fun x => decide (n ≤ x.1)) then c.failCheck s 23 0 (0, x.2)
  else
    let goIdx (s2 : State) (src dst : BRec) : Res :=
      if byIndex i then c.withRec s2 ii c.active true (some (0, 2)) (fun s3 idx => k s3 src dst idx) else k s2 src dst default
    if ffill then c.withRec s di c.active true (some (0, 1)) (fun s1 dst => goIdx s1 default dst)
    else c.withRec s si c.active true (some (0, 0)) (fun s1 src => c.withRec s1 di c.active true (some (0, 1)) (fun s2 dst => goIdx s2 src dst))

/-- FFILL: its source is a register. -/
def isFill : Instr → Bool
  | .ffill _ => true
  | _ => false
/-- The place of a record, once it can be reached. -/
def Ctx.placeOf (c : Ctx) (s : State) (r : BRec) : Space × Nat := (c.recPlace s r).getD (.virt c.t.asid, 0)
/-- The destination lies in the raft's own tile memory, whose lines its full/empty bits guard (R210, R220). -/
def Ctx.ownDest (c : Ctx) (s : State) (dst : BRec) : Bool :=
  (c.placeOf s dst).1 == .tile c.r.core && (dst.space == 1 || dst.space == 2)
/-- The ranges that a ferry reads. -/
def Ctx.ferryReads (c : Ctx) (s : State) (i : Instr) (src idx : BRec) : List Range :=
  ((if isFill i then [] else [src]) ++ (if byIndex i then [idx] else [])).filterMap (fun r =>
    if r.space = 3 then none else some (recRange (c.placeOf s r) r false (some c.r.here)))
/-- The range that a ferry writes: registered with the issuing core, or with the member whose tile memory it lies in (R89,
R210). -/
def Ctx.ferryWrites (c : Ctx) (s : State) (dst : BRec) : Range :=
  recRange (c.placeOf s dst) dst true (if c.ownDest s dst then none else match (c.placeOf s dst).1 with
    | .tile k => some k
    | .virt _ => some c.r.here)
/-- FFILL's value is a pair (R213). -/
def fillWide (i : Instr) (dst : BRec) : Bool := isFill i && (NFmt.ofCode dst.rfmt).bits == 64

/-- Checks 4 to 10 of R209, in their order. Two that R209 does not list have a place here: a register of an FFILL that does not
fit RFMT (R213) stands with check 5, whose cause it shares, and the barrier address (R222) is checked last
(DESIGN CHOICE, log entry 114). -/
def Ctx.ferryChecks (c : Ctx) (s : State) (i : Instr) (f : AF) (d : List Word) (src dst idx : BRec) : List (Bool × Nat × Nat × Nat × Nat) :=
  let (four, five) := ferryRecsOk i f d src dst idx
  let ends : List (BRec × Nat) := (if isFill i then [] else [(src, 0)]) ++ (if byIndex i then [(idx, 2)] else []) ++ [(dst, 1)]
  let sixes := ends.filterMap (fun (r, side) => (extentCause r c.t.tileBytes).map (fun k => (k, wrapN 64 (Rec.extent r).1, 0, side)))
  let six := (sixes.find? (fun x => x.1 == 5)).getD (sixes.headD (6, 0, 0, 0))
  let strict (r : BRec) (lo hi : Int) : Bool := strictOut r lo || strictOut r hi
  let sw (j : Nat) := (d.getD j 0).toInt
  let sb := boxBounds d src (sw 3) (sw 5)
  let db := boxBounds d dst (sw 4) (sw 6)
  let srcOut := !byIndex i && !isFill i && strict src sb.1 sb.2
  let idxOut := byIndex i && strict idx (sw 5) (sw 5 + ((d.getD 1 0).toNat - 1 : Nat))
  let bar := (c.barrierOf f.c).getD 0
  let gone := ends.filter (fun x => (c.recPlace s x.1).isNone)
  [(!four, 26, 0, 0, 0), (!five || !(!fillWide i dst || Kind.of f.b == .zero || f.b.toNat % 2 == 0), 1, 0, 0, 0), (!sixes.isEmpty, six),
   (srcOut, 25, 0, 0, 0), (idxOut, 25, 0, 0, 2), (!byIndex i && strict dst db.1 db.2, 25, 0, 0, 1),
   (!gone.isEmpty, 12, 0, 0, (gone.map (·.2)).headD 0),
   (dst.space != 3 && (c.ferryReads s i src idx).any (aliases (c.ferryWrites s dst)), 15, 0, 0, 1),
   (!canonical bar, 5, bar, 0, 3), (bar % 64 != 0, 7, bar, 0, 3)]

/-- The ferry that is accepted. -/
def Ctx.ferryOp (c : Ctx) (s : State) (i : Instr) (f : AF) (d : List Word) (src dst idx : BRec) : Op :=
  let x := if fillWide i dst then (c.sval64 f.b).toNat else (c.sval f.b).toNat
  let val := Rec.toStore dst (Rnd.ofCode (field f.fn.toNat 2 0)) (f.fn.getLsbD 3) x
  { c.newOp s i 1 with
    desc := d, recs := [src, dst, idx], places := [c.placeOf s src, c.placeOf s dst, c.placeOf s idx]
    ext := match c.barrierOf f.c with
      | some a => words2 a
      | none => []
    work := if isFill i then sset [] 0 (BitVec.ofNat 64 val) else []
    amount := ferryCount i d
    ranges := c.ferryReads s i src idx ++ (if dst.space = 3 then [] else [c.ferryWrites s dst]) }
/-- The lines that become empty as a ferry is accepted (R210). -/
def Ctx.ferryFills (c : Ctx) (s : State) (i : Instr) (d : List Word) (src dst : BRec) : List (Nat × Nat) :=
  if c.ownDest s dst then ferryLines i d src dst (c.placeOf s dst) else []
/-- The second register of FFILL's pair. -/
def fillOpds (i : Instr) (f : AF) (dst : BRec) : List Opd :=
  if fillWide i dst && Kind.of f.b != .zero then [⟨.b, f.b, 2, 2, true, false, [.scl]⟩] else []

/-- The issue of FCOPY, FFILL, FGATHER and FSCATTER (R209, R210, R222). -/
def ferryIssue (i : Instr) (f : AF) (s : State) : Out :=
  issue i s (fun s0 c =>
    let d := c.swords f.a 8
    if !ferryDescOk i d then c.failCheck s0 26 0 (0, 0)
    else
      c.ferryRecs s0 i d (fun s1 src dst idx =>
        c.unless s1 (c.ferryChecks s1 i f d src dst idx)
          ((s1.interlock c (fillOpds i f dst)).orElse s1
            (c.accept (s1.stepStreams c.r.id (c.streamsMore i (fillOpds i f dst))) (c.ferryOp s1 i f d src dst idx) 256 (c.ferryFills s1 i d src dst) id))))

/-- FCOPY (R213). -/
def execFcopy (f : AF) (s : State) : Out := ferryIssue (.fcopy f) f s
/-- FFILL (R213). -/
def execFfill (f : AF) (s : State) : Out := ferryIssue (.ffill f) f s
/-- FGATHER (R215). -/
def execFgather (f : AF) (s : State) : Out := ferryIssue (.fgather f) f s
/-- FSCATTER (R215, R216). -/
def execFscatter (f : AF) (s : State) : Out := ferryIssue (.fscatter f) f s

/-- FQUEUE's descriptor fields (R217). -/
def fqueueDescOk (d : List Word) : Bool :=
  let w (j : Nat) := (d.getD j 0).toNat
  let qhdr := w 0 + 2 ^ 32 * w 1
  let pkt := w 4 + 2 ^ 32 * w 5
  aligned64 qhdr && aligned64 pkt && field (w 2) 31 14 == 0 && (bit (w 2) 13 || field (w 2) 12 0 == 0) && w 3 == 0 && w 6 == 0 && w 7 == 0
/-- The enabled queue that a header's address names (R218, R336). -/
def State.queueAt (s : State) (asid qhdr : Nat) : Option Queue :=
  s.queues.find? (fun q => q.state != 5 && q.asid == asid && q.qhdr == qhdr)
/-- The ranges that an FQUEUE touches: the packet image, registered; and of a local queue its header, and the ring in which
the slot lies that it will claim (R86, R210) (DEDUCED, log entry 88). -/
def State.fqueueRanges (s : State) (asid core : Nat) (d : List Word) : List Range :=
  let w (j : Nat) := (d.getD j 0).toNat
  let qhdr := w 0 + 2 ^ 32 * w 1
  ⟨.virt asid, w 4 + 2 ^ 32 * w 5, 64, false, some core⟩ ::
    (if bit (w 2) 13 then [] else
      ⟨.virt asid, qhdr, 64, true, none⟩ :: (match s.queueAt asid qhdr with
        | some q => [⟨.virt asid, q.ring, 64 * 2 ^ q.log2, true, none⟩]
        | none => []))
/-- What an operation that makes a release meets as it issues: the raft moors or traps there for work that its release
covers and that has stopped, and issues on where that only goes on (R93, R218, R311). -/
def Block.atRelease (b : Block) : Block := if b = .wait then .free else b
/-- FQUEUE at issue (R217, R218). -/
def execFqueue (f : AF) (s : State) : Out :=
  issue (.fqueue f) s (fun s1 c =>
    let d := c.swords f.a 8
    if !fqueueDescOk d then c.failCheck s1 26 0 (0, 3)
    else
      (worst (s1.releaseWork c.r.id f.imm)).atRelease.orElse s1 (
        c.accept s1 { c.newOp s1 (.fqueue f) 1 with
          desc := d, dest := some ⟨f.d, 1, c.active, true, 384⟩, amount := 1
          ranges := s1.fqueueRanges c.t.asid c.r.here d } 256 [] id))

/-! ### Peers (R228, R229, R399) -/

/-- A module has a valid PEER_MAP entry with a port, and no channel to it has exhausted its retries (R398, R399). -/
def State.peerRoute (s : State) (m : Nat) : Bool := !(s.portsTo m).isEmpty && !s.peerPorts.any (fun x => x.1.1 == m && x.2.down)
/-- A peer asked, and its answer: refused, or silent beyond the retry limit, or given; the choice is
free (R229) (DESIGN CHOICE, log entry 23). -/
def State.askPeer (s : State) (m : Nat) : State × Bool :=
  if s.peerRoute m then let (ok, s1) := s.choose; (s1.sendPeer m 0, ok) else (s, false)
/-- A write that leaves for a peer (R228, R400). -/
def State.writePeer (s : State) (w : PeerOut) : State := ({ s with peerOut := s.peerOut ++ [w] } : State).sendPeer w.module 2

/-! ### Chunks (R219 to R226) -/

/-- Elements of a whole chunk, and of chunk n. -/
def Op.perChunk (o : Op) : Nat := 32768 / Rec.bits (o.brec 1)
def Op.chunkLen (o : Op) (n : Nat) : Nat := min o.perChunk (o.amount - n * o.perChunk)

/-- The detail of a ferry fault (R227). -/
def ferryDetail (o : Op) (side addr elem : Nat) : List Byte := placeDetail o.pc o.slot o.word o.pos side addr elem

/-- One element's storage bits and scale byte, read through record k (R186, R208, R211). -/
def State.ferryRead (s : State) (o : Op) (k : Nat) (idx : Int) (side : Nat) : State × ERes × Nat × Nat :=
  let r := o.brec k
  if strictOut r idx then (s, .fault 25 side 0, 0, 0)
  else
    match settleIndex r idx true with
    | none => (s, .done, 0, 0)
    | some j =>
      let sp := spotOf (o.place k) r j
      if r.space = 3 then
        match s.askPeer (Rec.peer r) with
        | (s1, false) => (s1, .fault 27 side sp.addr, 0, 0)
        | (s1, true) => let (x, s2) := s1.draw; (s2, .done, x % 2 ^ Rec.bits r, 0)
      else
        match s.engineRead o sp.space sp.addr sp.len side with
        | (s1, .done, b) =>
          let x := ofBytes b
          let raw := match sp.nibble with
            | none => x
            | some h => x / 16 ^ h % 16
          if isMx r.fmt then
            match s1.engineRead o sp.space sp.scale 1 side with
            | (s2, .done, e) => (s2, .done, raw, ofBytes e)
            | (s2, v, _) => (s2, v, 0, 0)
          else (s1, .done, raw, 0)
        | (s1, v, _) => (s1, v, 0, 0)

/-- One element's storage bits written through the destination record (R187, R208). -/
def State.ferryWrite (s : State) (o : Op) (idx : Int) (code : Nat) : State × ERes :=
  let r := o.brec 1
  if strictOut r idx then (s, .fault 25 1 0)
  else
    match settleIndex r idx false with
    | none => (s, .done)
    | some j =>
      let sp := spotOf (o.place 1) r j
      if r.space = 3 then
        match s.askPeer (Rec.peer r) with
        | (s1, false) => (s1, .fault 27 1 sp.addr)
        | (s1, true) => (s1.writePeer ⟨Rec.peer r, o.asid, sp.addr, toBytes sp.len code, sp.nibble⟩, .done)
      else
        match sp.nibble with
        | none => s.engineWrite o sp.space sp.addr (toBytes sp.len code) 1
        | some h =>
          let merge (old : Byte) : Byte :=
            let x : Byte := BitVec.ofNat 8 (code % 16)
            if h = 0 then (old &&& 0xF0#8) ||| x else (old &&& 0x0F#8) ||| (x <<< 4)
          match sp.space with
          | .tile core => s.engineWrite o sp.space sp.addr [merge ((s.tileGet core sp.addr 1).headD 0)] 1
          | .virt asid =>
            match s.ensure asid sp.addr .write with
            | (s1, .ok) => s1.engineWrite o sp.space sp.addr [merge (s1.homeByte asid sp.addr)] 1
            | (s1, v) => (s1, v.asERes 1 sp.addr)

/-- The index that an item of FGATHER or FSCATTER reads (R215). -/
def State.itemIndex (s : State) (o : Op) (k : Nat) : State × ERes × Int :=
  if !byIndex o.instr then (s, .done, 0)
  else
    match s.ferryRead o 2 (o.sw 5 + (k / o.uw 2 : Nat)) 2 with
    | (s1, .done, raw, _) => (s1, .done, if (o.brec 2).fmt = 7 then asSigned 32 raw else raw)
    | (s1, v, _, _) => (s1, v, 0)

/-- One combine (R216). -/
def combineElem (op : Nat) (dst : BRec) (mode : Rnd) (sat : Bool) (old w : Nat) : Nat :=
  match storeFmt dst.fmt with
  | .flt f =>
    let wide := FFmt.fp32.ofVal .rne false (f.value old)
    let r := match op with
      | 0 => FFmt.fp32.sum mode [FFmt.fp32.value wide, FFmt.fp32.value w]
      | 1 => FFmt.fp32.minMax true wide w
      | _ => FFmt.fp32.minMax false wide w
    f.ofVal mode false (FFmt.fp32.value r)
  | .int sg b =>
    let a : Int := intOf sg b old
    let x : Int := if sg then asSigned 64 (w % 2 ^ 64) else (w % 2 ^ 64 : Nat)
    narrowInt sat sg b (match op with
      | 0 => a + asSigned 64 (w % 2 ^ 64)
      | 1 => max a x
      | _ => min a x)

/-- The source element of a combine in the wide format (R216). -/
def combineSource (src dst : BRec) (mode : Rnd) (sat : Bool) (raw scale : Nat) : Nat :=
  let wide : NFmt := match storeFmt dst.fmt with
    | .flt _ => .flt .fp32
    | .int _ _ => .int true 64
  if src.scale = dst.scale ∧ !isMx src.fmt then convertNum (storeFmt src.fmt) wide mode sat raw
  else Rec.toFmt wide mode sat (Rec.scaleBy (src.scale - dst.scale) (Rec.value src raw scale))

/-- The destination element that a combine reads: in tile memory its current bytes, whether its line is empty or full, as
the read half of an atomic does (R90, R216); in virtual memory its page is asked for writing alone (R276). None is read for an element that is dropped, or that OOB 2 faults (R215). -/
def State.combineRead (s : State) (o : Op) (di : Int) : State × ERes × Option Nat :=
  if strictOut (o.brec 1) di then (s, .fault 25 1 0, none)
  else
    match (o.place 1).1, settleIndex (o.brec 1) di false with
    | _, none => (s, .done, none)
    | .tile core, some j =>
      let sp := spotOf (o.place 1) (o.brec 1) j
      (s, .done, some (ofBytes (s.tileGet core sp.addr sp.len)))
    | .virt asid, some j =>
      if (o.brec 1).space = 3 then
        let (s1, v, old, _) := s.ferryRead o 1 di 1
        (s1, v, some old)
      else
        let sp := spotOf (o.place 1) (o.brec 1) j
        let (s1, v, b) := s.readAt asid sp.addr sp.len .write
        (s1, v.asERes 1 sp.addr, some (ofBytes b))

/-- One element moved. -/
def State.ferryElem (s : State) (o : Op) (k : Nat) : State × ERes :=
  match s.itemIndex o k with
  | (s1, .done, x) =>
    let (si, di) := ferryIndex o.instr o.desc (o.brec 0) (o.brec 1) x k
    match o.instr with
    | .ffill _ => s1.ferryWrite o di (sget o.work 0).toNat
    | _ =>
      match s1.ferryRead o 0 si 0 with
      | (s2, .done, raw, scale) =>
        if combines o.instr then
          let w := combineSource (o.brec 0) (o.brec 1) o.rc o.sat raw scale
          match s2.combineRead o di with
          | (s3, .done, none) => (s3, .done)
          | (s3, .done, some old) =>
            s3.ferryWrite o di (combineElem (field (ferryFields o.instr).imm.toNat 2 1) (o.brec 1) o.rc o.sat old w)
          | (s3, v, _) => (s3, v)
        else s2.ferryWrite o di (ferryConv (o.brec 0) (o.brec 1) o.rc o.sat raw scale)
      | (s2, v, _, _) => (s2, v)
  | (s1, v, _) => (s1, v)

/-- The source values of a block of 32, scaled for the destination (R212); the element at which reading stops. -/
def State.blockRead (o : Op) (k : Nat) : Nat → State → State × ERes × List FVal × Nat
  | 0, s => (s, .done, [], k)
  | n + 1, s =>
    let si := (ferryIndex o.instr o.desc (o.brec 0) (o.brec 1) 0 k).1
    match s.ferryRead o 0 si 0 with
    | (s1, .done, raw, scale) =>
      let v := Rec.scaleBy ((o.brec 0).scale - (o.brec 1).scale) (Rec.value (o.brec 0) raw scale)
      match State.blockRead o (k + 1) n s1 with
      | (s2, r, vs, at_) => (s2, r, v :: vs, at_)
    | (s1, r, _, _) => (s1, r, [], k)
/-- A finite value's magnitude as numerator over a power of two: floor(log2 |v|), for v ≠ 0. -/
def FVal.log2 : FVal → Int
  | .fin _ n e => (Nat.log2 n : Int) + e
  | _ => 0
/-- The scale of an MX block and its elements, with the rounding mode of each (R212, R247). -/
def mxBlock (f : FFmt) (mode : Nat → Rnd) (vs : List FVal) : Nat × List Nat :=
  if vs.any (fun v => match v with | .fin _ _ _ => false | _ => true) then (0xFF, vs.map (fun _ => 0))
  else
    let nz := vs.filter (fun v => match v with | .fin _ n _ => n != 0 | _ => false)
    let e : Int := match nz with
      | [] => 127
      | v :: rest => clampInt 0 254 (rest.foldl (fun m w => max m w.log2) v.log2 - (match f with | .e4m3 => 8 | .e5m2 => 15 | _ => 2) + 127)
    (e.toNat, (numbered vs).map (fun (i, v) => f.ofVal (mode i) true (Rec.scaleBy (127 - e) v)))
/-- The elements of a block written; the element at which writing stops. -/
def State.blockWrite (o : Op) (k : Nat) : List Nat → State → State × ERes × Nat
  | [], s => (s, .done, k)
  | code :: rest, s =>
    match s.ferryWrite o (ferryIndex o.instr o.desc (o.brec 0) (o.brec 1) 0 k).2 code with
    | (s1, .done) => State.blockWrite o (k + 1) rest s1
    | (s1, v) => (s1, v, k)
/-- One block of an MX destination (R212): nothing of it is written before all of it can be (DEDUCED, log entry 22). -/
def State.ferryBlock (s : State) (o : Op) (k : Nat) : State × ERes × Nat :=
  match State.blockRead o k 32 s with
  | (s1, .done, vs, _) =>
    let f := match storeFmt (o.brec 1).fmt with
      | .flt f => f
      | .int _ _ => .e4m3
    let (e, codes) := mxBlock f (fun _ => o.rc) vs
    match settleIndex (o.brec 1) (ferryIndex o.instr o.desc (o.brec 0) (o.brec 1) 0 k).2 false with
    | none => (s1, .done, k)
    | some j =>
      let sp := spotOf (o.place 1) (o.brec 1) j
      match s1.engineWrite o sp.space sp.scale [BitVec.ofNat 8 e] 1 with
      | (s2, .done) =>
        match State.blockWrite o k codes s2 with
        | (s3, .done, _) => (s3, .done, k)
        -- an element's page that is absent or bars writes leaves the scale as it was
        | (s3, v, at_) => ({ s3 with
            lines := s1.lines, pmem := s1.pmem, tile := s1.tile, exchanges := s1.exchanges, notices := s1.notices
            watches := s1.watches, l1 := s1.l1 }, v, at_)
      | (s2, v) => (s2, v, k)
  | (s1, v, _, at_) => (s1, v, at_)

/-- The index of an item of FSCATTER as its record holds it now; none where it cannot be read yet. -/
def State.itemPeek (s : State) (o : Op) (q : Nat) : Option Int :=
  let r := o.brec 2
  match settleIndex r (o.sw 5 + q) true with
  | none => some 0
  | some j =>
    let sp := spotOf (o.place 2) r j
    let value (b : List Byte) : Int := if r.fmt = 7 then asSigned 32 (ofBytes b) else ofBytes b
    match sp.space with
    | .virt asid => if s.absent asid sp.addr || s.held asid sp.addr then none else some (value (s.homeGet asid sp.addr sp.len))
    | .tile core => if s.emptyFor o.id core (sp.addr / 128) then none else some (value (s.tileGet core sp.addr sp.len))
/-- The tile-memory lines that an element writes, its item's index being x. -/
def Op.elemLines (o : Op) (x : Int) (j : Nat) : List (Nat × Nat) :=
  match settleIndex (o.brec 1) (ferryIndex o.instr o.desc (o.brec 0) (o.brec 1) x j).2 false with
  | none => []
  | some i =>
    let sp := spotOf (o.place 1) (o.brec 1) i
    (linePieces sp.addr sp.len).map (fun y => (match sp.space with | .tile core => core | .virt _ => 0, y.1 / 128))
/-- The index that an element's item reads, as far as it is known now. -/
def State.indexPeek (s : State) (o : Op) (j : Nat) : Option Int := match o.instr with
  | .fscatter _ => s.itemPeek o (j / o.uw 2)
  | _ => some 0
/-- The lines that an operation's elements from box index k on write; none where that is not known yet. -/
def State.linesLater (s : State) (o : Op) (k : Nat) : Option (List (Nat × Nat)) :=
  ((span k (o.amount - k)).mapM (fun j => (s.indexPeek o j).map (fun x => o.elemLines x j))).map List.flatten
/-- An FSCATTER has written to a line, so that it may be full before the end (R223). -/
def State.linesBefore (s : State) (o : Op) (k : Nat) : List (Nat × Nat) := match o.instr with
  | .fscatter _ => (((List.range k).flatMap (fun j => ((s.indexPeek o j).map (fun x => o.elemLines x j)).getD []))).eraseDups
  | _ => o.fills
/-- Lines that no element from box index k on writes (R223). A line that an FSCATTER has not written becomes full at its
end. -/
def State.doneLines (s : State) (o : Op) (k : Nat) : List (Nat × Nat) :=
  if o.amount ≤ k then o.fills
  else match s.linesLater o k with
    | none => []
    | some later => let before := s.linesBefore o k; o.fills.filter (fun x => !later.contains x && before.contains x)

/-- A chunk is complete (R219, R222, R223): its credit goes to the barrier, its lines become full, and the last one
completes the ferry. -/
def State.chunkDone (s : State) (o : Op) : State :=
  let n := o.chunkLen o.pos
  let last : Bool := decide (o.amount ≤ (o.pos + 1) * o.perChunk)
  let bytes := if last then ceilDiv (n * Rec.bits (o.brec 1)) 8 else 4096
  let s1 : State := match o.ext with
    | [a, b] => { s with credits := s.credits ++ [⟨s.nextId, o.id, o.asid, a.toNat + 2 ^ 32 * b.toNat, bytes⟩], nextId := s.nextId + 1 }
    | _ => s
  let s2 := (s1.setOp { o with pos := o.pos + 1, phase := 0, resv := 0, asked := s.clock }).releaseFills o.id
    (s1.doneLines o ((o.pos + 1) * o.perChunk))
  if last then s2.finishOp o.id else s2

/-- A ferry's outcome at an element: a wait, a suspension at the chunk's first element (for a combine, at the element,
so that none is applied twice), or a fault (R224, R226). -/
def State.ferryStop (s : State) (o : Op) (k : Nat) (r : ERes) : State :=
  match r with
  | .moor va => s.suspendOp { o with phase := if combines o.instr then o.phase else 0 } va
  | .fault cause side addr => s.failOp o cause addr (ferryDetail o side addr k)
  | _ => s

/-- A run of a chunk's elements, at most `fuel` of them. -/
def State.ferryRun (o : Op) : Nat → State → State
  | 0, s => s.setOp o
  | fuel + 1, s =>
    if o.chunkLen o.pos ≤ o.phase then s.setOp o
    else
      let k := o.pos * o.perChunk + o.phase
      if isMx (o.brec 1).fmt then
        match s.ferryBlock o k with
        | (s1, .done, _) => State.ferryRun { o with phase := o.phase + 32 } fuel s1
        | (s1, r, at_) => (s1.setOp o).ferryStop o at_ r
      else
        match s.ferryElem o k with
        | (s1, .done) => State.ferryRun { o with phase := o.phase + 1 } fuel s1
        | (s1, r) => (s1.setOp o).ferryStop o k r

/-! ### FQUEUE as it runs (R218, R338, R339, R400) -/

def Op.qhdr (o : Op) : Nat := o.uw 0 + 2 ^ 32 * o.uw 1
def Op.pkt (o : Op) : Nat := o.uw 4 + 2 ^ 32 * o.uw 5
/-- The peer of an FQUEUE. -/
def Op.peerOf (o : Op) : Option Nat := if bit (o.uw 2) 13 then some (field (o.uw 2) 12 0) else none

/-- FQUEUE ends with its status or slot index in D. -/
def State.fqueueDone (s : State) (o : Op) (x : Word) : State :=
  let s1 := match o.raft, o.dest with
    | some rid, some d => s.deliver rid d (fun _ => [x])
    | _, _ => s
  s1.finishOp o.id

/-- A release of an operation waits for its raft's covered accesses and operations issued before it (R84); one that has
faulted is never performed, and holds it (R85, R226). -/
def State.olderWork (s : State) (o : Op) (mask : BitVec 8) : Bool := !(s.covered o mask).isEmpty

/-- The claim (R338): a local queue's lathe step, or a peer's answer. A full queue completes with all ones, or waits for
a notice or 4,096 cycles. -/
def State.fqueueClaim (s : State) (o : Op) : State :=
  let full (st : State) : State :=
    if (ferryFields o.instr).fn.getLsbD 0 then st.fqueueDone o 0xFFFFFFFF
    else (if o.peerOf.isSome then st else st.watchFor o.asid o.qhdr (.fqueue o.id)).setOp { o with phase := 3, since := s.cycles o.core }
  let fail (st : State) (cause : Nat) : State := st.failOp o cause o.qhdr (ferryDetail o 3 o.qhdr 0)
  match o.peerOf with
  | some m =>
    match s.askPeer m with
    | (s1, false) => fail s1 27
    | (s1, true) =>
      let (taken, s2) := s1.choose
      if taken then full s2
      else
        -- the peer's ring, its size and the claim index come with the answer
        let (ring, s3) := s2.draw
        let (log2, s4) := s3.draw
        let (i, s5) := s4.draw
        let found := sset (sset (sset [] 0 (BitVec.ofNat 64 ring)) 1 (BitVec.ofNat 64 (4 + log2 % 13))) 2 (BitVec.ofNat 64 i)
        s5.setOp { o with phase := 1, work := found }
  | none =>
    match s.queueAt o.asid o.qhdr with
    | none => fail s 26
    | some q =>
      match s.readAt o.asid o.qhdr 64 .write with
      | (s1, .ok, hdr) =>
        match claimStep hdr with
        | none => full s1
        | some (i, _) =>
          ((s1.writeAt o.asid o.qhdr (toBytes 8 (i + 1)) true).1.dropWritten o o.qhdr 64).setOp { o with
            phase := 1, work := sset (sset (sset [] 0 (BitVec.ofNat 64 q.ring)) 1 (BitVec.ofNat 64 q.log2)) 2 (BitVec.ofNat 64 i) }
      | (s1, .moor, _) => s1.suspendOp o o.qhdr
      | (s1, .fault k, _) => fail s1 k
      | (s1, .wait, _) => s1

/-- The address of a claimed slot. -/
def Op.slotVa (o : Op) : Nat := (sget o.work 0).toNat + (sget o.work 2).toNat % 2 ^ (sget o.work 1).toNat * 64

/-- A step of an FQUEUE: the claim in issue order among its raft's on one queue, the packet's bytes, the publication. -/
def State.fqueueStep (s : State) (o : Op) : State :=
  let fail (st : State) (cause addr : Nat) : State := st.failOp o cause addr (ferryDetail o 3 addr 0)
  match o.phase with
  | 0 =>
    if s.ops.any (fun x => x.raft == o.raft && decide (x.id < o.id) && (match x.instr with | .fqueue _ => true | _ => false) &&
        x.qhdr == o.qhdr && x.peerOf == o.peerOf && x.fault.isNone && (x.phase == 0 || x.phase == 3)) then s
    else s.fqueueClaim o
  | 1 =>
    match s.engineRead o (.virt o.asid) o.pkt 64 3 with
    | (s1, .done, b) =>
      match o.peerOf with
      | some m => (s1.writePeer ⟨m, o.asid, o.slotVa, b.take 60, none⟩).setOp { o with phase := 2 }
      | none =>
        match s1.engineWrite o (.virt o.asid) o.slotVa (b.take 60) 3 with
        | (s2, .done) => s2.setOp { o with phase := 2 }
        | (s2, .moor va) => s2.suspendOp o va
        | (s2, .fault k _ va) => fail s2 k va
        | (s2, .wait) => s2
    | (s1, .moor va, _) => s1.suspendOp o va
    | (s1, .fault k _ va, _) => fail s1 k va
    | (s1, .wait, _) => s1
  | 2 =>
    let i := (sget o.work 2).toNat
    let stamp := toBytes 4 (i + 1)
    let x : Word := BitVec.ofNat 32 (i % 2 ^ (sget o.work 1).toNat)
    if s.olderWork o (ferryFields o.instr).imm then s
    else
      match o.peerOf with
      | some m => (s.writePeer ⟨m, o.asid, o.slotVa + 60, stamp, none⟩).fqueueDone o x
      | none =>
        match s.engineWrite o (.virt o.asid) (o.slotVa + 60) stamp 3 with
        | (s1, .done) => s1.fqueueDone o x
        | (s1, .moor va) => s1.suspendOp o va
        | (s1, .fault k _ va) => fail s1 k va
        | (s1, .wait) => s1
  | _ => s

/-! ### The events of the ferry engine -/

/-- A byte copy of a COPY packet is an FCOPY of bytes of its own (R345). -/
def isFerry : Instr → Bool
  | .fcopy _ | .fgather _ | .fscatter _ | .ffill _ => true
  | _ => false

/-- FERRY_CHUNK_COMPLETE (R219, R220): a run of elements of the ferry's first incomplete chunk, of a length freely
chosen, and the chunk's completion once all are written; or the next step of an FQUEUE. Each chunk, and each FQUEUE,
begins with a current reservation (R404). -/
def execFerryChunkComplete (op : Nat) (s : State) : Out :=
  .next (match s.op? op with
    | none => s
    | some o =>
      if !s.opGoes o then s
      else
        match o.instr with
        | .fqueue _ => if o.phase == 0 && o.resv == 0 then s else s.fqueueStep o
        | i =>
          if !isFerry i then s
          else
            let n := o.chunkLen o.pos
            if n ≤ o.phase then s.chunkDone o
            else if combines i || o.resv == 0 then s
            else
              let (d, s0) := s.draw
              let s1 := State.ferryRun o (1 + d % n) s0
              match s1.op? op with
              | some o1 => if o1.fault.isNone && o1.susp.isNone && decide (n ≤ o1.phase) then s1.chunkDone o1 else s1
              | none => s1)

/-- FSCATTER_COMBINE: one element read, combined and written at its home or port (R216). -/
def execFscatterCombine (op : Nat) (s : State) : Out :=
  .next (match s.op? op with
    | none => s
    | some o =>
      if s.opGoes o && combines o.instr && decide (o.phase < o.chunkLen o.pos) && o.resv != 0 then
        State.ferryRun (o.spend 1 s.clock) 1 s
      else s)

/-- FERRY_RESUME (R224). -/
def execFerryResume (op : Nat) (s : State) : Out :=
  .next (match s.op? op with
    | some o => if o.cls == 1 then s.resumeOp o else s
    | none => s)

/-- FQUEUE_RETRY: after a notice on the header line, or 4,096 cycles, the slot is claimed again; the time of a peer's
notice is free (R218, R400). -/
def execFqueueRetry (op : Nat) (s : State) : Out :=
  .next (match s.op? op with
    | none => s
    | some o =>
      match o.instr with
      | .fqueue _ =>
        let (note, s) := if o.peerOf.isSome then s.choose else (false, s)
        let told := note || s.notices.any (fun n => n.kind == .fired (.fqueue op))
        if o.phase == 3 && o.fault.isNone && o.susp.isNone && (told || decide (4096 ≤ s.elapsed o.core o.since)) then
          ({ s with notices := s.notices.filter (fun n => n.kind != .fired (.fqueue op)) } : State).fqueueClaim o
        else s
      | _ => s)

/-- BARRIER_CREDIT: a ferry's bytes leave the barrier's count (R130, R222) (DEDUCED, log entry 49). -/
def execBarrierCredit (credit : Nat) (s : State) : Out :=
  .next (match s.credits.find? (fun c => c.id == credit) with
    | none => s
    | some c =>
      match s.readAt c.asid c.va 64 .write with
      | (s1, .ok, bytes) =>
        let (b, told) := (Barrier.ofBytes bytes).credit c.bytes
        let s2 := ((s1.writeAt c.asid c.va (b.into bytes) true).1.sendWakes c.asid c.va told)
        { s2 with credits := s2.credits.filter (fun x => x.id != credit) }
      | (s1, _, _) => s1)

end Sys2Proof.Machine
end

