-- ==== Sys2Proof/Machine/Scheduler.lean ====
section
/-!
DEFINITION. The scheduler and its queues (chapter 12), and the dispatch of teams (R97 to R103): queue headers and their
states, consumption, the kinds of packet, completion records, the distributor's placement, and the creation of teams.
-/

namespace Sys2Proof.Machine

open Sys2Proof

/-- Cycles of the 2.1 GHz master clock in a microsecond (R14, R24). -/
def perUs : Nat := 2100

/-! ### Queues and their headers (R335 to R337, R352, R353) -/

/-- The enabled queue of an index. -/
def State.queue? (s : State) (index : Nat) : Option Queue := s.queues.find? (fun q => q.index == index && q.state != 5)
/-- A queue, enabled or still with packets of its own after a disable, of which something is asked. -/
def State.queueWith (s : State) (index : Nat) (p : Queue → Bool) : Option Queue := s.queues.find? (fun q => q.index == index && p q)
/-- The record of an index of which something is asked: where a disabled queue's stands beside the enabled one's, either
(free). -/
def State.someQueue (s : State) (index : Nat) (p : Queue → Bool) : State × Option Queue :=
  match s.queues.filter (fun q => q.index == index && p q) with
  | [] => (s, none)
  | [q] => (s, some q)
  | qs =>
    let (n, s1) := s.draw
    (s1, qs[n % qs.length]?)
/-- One queue replaced. -/
def State.setQueue (s : State) (old new : Queue) : State := { s with queues := s.queues.map (fun x => if x = old then new else x) }
/-- The disabled queues whose packets of an earlier enabling still complete under a header (R336). -/
def State.earlierUnder (s : State) (q : Queue) : List Queue :=
  s.queues.filter (fun x => x.state == 5 && x.asid == q.asid && x.qhdr == q.qhdr && !x.packets.isEmpty)
/-- Of two sequence numbers, which wrap, the later (R343). -/
def laterSeq (a b : Word) : Word := if (a - b).toNat < 2 ^ 31 then a else b

/-- A watch for the scheduler, if one of the 16 entries kept for it is free (R277). -/
def State.schedWatch (s : State) (asid va : Nat) (target : Target) : State :=
  let u := s.unitOf asid va
  let mine := s.watches.filter (fun w => w.unit == u && (match w.target with | .queueHeader _ | .semaphore _ => true | _ => false))
  if 16 ≤ mine.length || s.watches.any (fun w => w.target == target && w.asid == asid && w.line == va57 va / 128) then s
  else { s with watches := s.watches ++ [⟨asid, va57 va / 128, u, target⟩] }
def State.unwatch (s : State) (target : Target) : State := { s with watches := s.watches.filter (fun w => w.target != target) }
/-- A notice for a target has arrived; and the state without it. -/
def State.told (s : State) (target : Target) : Bool := s.notices.any (fun n => n.kind == .fired target)
def State.untell (s : State) (target : Target) : State := { s with notices := s.notices.filter (fun n => n.kind != .fired target) }

/-- A queue whose header the scheduler watches: not one that it serves anyway, nor one that is off
(DESIGN CHOICE, log entry 100). -/
def Queue.listens (q : Queue) : Bool := q.state == 0 || q.state == 3 || q.state == 4 || q.state == 6
/-- The scheduler's own write into a header: it fires the watches of the line as any write does (R277), and the header is
watched again. -/
def State.headerWrite (s : State) (q : Queue) (off : Nat) (bytes : List Byte) : State × Verdict :=
  match s.writeAt q.asid (q.qhdr + off) bytes with
  | (s1, .ok) => (if q.listens then s1.schedWatch q.asid q.qhdr (.queueHeader q.index) else s1, .ok)
  | r => r

/-- Records waiting for the error ring are posted as far as it has room (R354, R414). -/
def State.postErrors : List ErrRec → State → State
  | [], s => { s with errWait := [] }
  | e :: es, s =>
    let log2 := field s.ctl.errCtl.toNat 4 0
    if 2 ^ log2 ≤ (s.ctl.errHead - s.ctl.errTail).toNat then { s with errWait := e :: es }
    else
      State.postErrors es
        { (s.physPut (s.ctl.errBase.toNat + s.ctl.errHead.toNat % 2 ^ log2 * 32)
            (toBytes 8 e.pa ++ toBytes 8 (e.asid + e.code * 2 ^ 16 + e.die * 2 ^ 24) ++ toBytes 16 0)) with
          ctl := { s.ctl with errHead := s.ctl.errHead + 1 } }
def State.postError (s : State) (e : ErrRec) : State := State.postErrors (s.errWait ++ [e]) s

/-- A queue is disabled (R336): packets that have not started are cancelled. -/
def Queue.off (q : Queue) : Queue :=
  { q with state := 5, unshown := true, packets := q.packets.map (fun p => if p.stage = 0 then { p with stage := 2, status := 8 } else p) }
/-- A header page that bars the scheduler disables the queue and is recorded under location code 8 (R353, R414). -/
def State.headerBarred (s : State) (q : Queue) : State :=
  ((s.unwatch (.queueHeader q.index)).setQueue q { q.off with unshown := false }).postError ⟨q.qhdr, q.asid, 8, s.homeOf q.asid q.qhdr⟩

/-- A queue's state is shown in its header: STATE and CAUSE in one word that keeps LOG2SIZE, and in ERROR the two
sequence numbers (R337, R352). A page that is not resident is met as R353 gives, and the state then current is shown once it is. -/
def State.showQueue (s : State) (q : Queue) : State :=
  match s.readAt q.asid q.qhdr 64 .write with
  | (s1, .ok, b) =>
    let word := toBytes 4 (field (ofBytes (b.drop 0x18)) 4 0 + q.state * 2 ^ 20 + q.cause % 256 * 2 ^ 24)
    let s2 := (s1.headerWrite q 0x18 word).1
    let s3 := if q.state = 4 then (s2.headerWrite q 0x20 (toBytes 4 q.errSeq.toNat ++ toBytes 4 q.expSeq.toNat)).1 else s2
    s3.setQueue q { q with unshown := false }
  | (s1, .fault _, _) => if q.state = 5 then s1.setQueue q { q with unshown := false } else s1.headerBarred q
  | (s1, .moor, _) => if q.state = 4 ∨ q.state = 5 ∨ q.state = 6 then s1 else s1.setQueue q { q with state := 6, paged := some q.qhdr }
  | (s1, _, _) => s1

/-- A queue changes (R352): it is put in place, and its state shown. READY and MAPPED count their time from now. -/
def State.moveQueue (s : State) (old new : Queue) : State :=
  let q := { new with unshown := true, leaving := none, since := if new.state = 1 ∨ new.state = 2 then s.clock else new.since }
  ((if q.listens then s else s.unwatch (.queueHeader q.index)).setQueue old q).showQueue q

/-- A queue enters ERROR (R352, R353). -/
def State.queueError (s : State) (old new : Queue) (cause : Nat) (errSeq expSeq : Word) : State :=
  s.moveQueue old { new with state := 4, cause := cause, errSeq := errSeq, expSeq := expSeq }

/-- What an access of the scheduler for a queue met (R353), `header` when it was to the header, else for the packet of a
SEQ. -/
def State.queueStop (s : State) (q : Queue) (v : Verdict) (va : Nat) (header : Bool) (seq : Word) : State :=
  match v with
  | .moor => if q.state = 4 ∨ q.state = 5 ∨ q.state = 6 then s else s.moveQueue q { q with state := 6, paged := some va }
  | .fault _ =>
    if header then (if q.state = 5 then s else s.headerBarred q)
    else if q.state = 4 ∨ q.state = 5 then s else s.queueError q q 3 seq 0
  | _ => s

/-- Queues whose page has lost its fault-pending mark enter READY (R353). -/
def State.unpage (s : State) : State :=
  (s.queues.filter (fun q => q.state == 6)).foldl (fun s q =>
    match q.paged with
    | some va => if s.marked q.asid va then s else s.moveQueue q { q with state := 1, paged := none }
    | none => s) s

/-- A queue-table entry as a queue, if it is sound (R335). -/
def State.tableQueue (s : State) (index : Nat) : Option Queue :=
  let at_ := s.ctl.qtBase.toNat + 32 * index
  let qhdr := (s.phys64 at_).toNat
  let ring := (s.phys64 (at_ + 8)).toNat
  let crec := (s.phys64 (at_ + 16)).toNat
  let w := (s.phys64 (at_ + 24)).toNat
  let l := field w 4 0
  let c := field w 12 8
  if field w 38 13 = 0 ∧ field w 7 5 = 0 ∧ 4 ≤ l ∧ l ≤ 16 ∧ 4 ≤ c ∧ c ≤ 16 ∧ canonical qhdr ∧ qhdr % 64 = 0 ∧
      canonical ring ∧ ring % (64 * 2 ^ l) = 0 ∧ canonical crec ∧ crec % (16 * 2 ^ c) = 0 then
    some { index := index, qhdr := qhdr, ring := ring, crec := crec, asid := field w 63 48, prio := field w 47 41
           supv := bit w 40, pre := bit w 39, clog2 := c, log2 := l, state := 0, packets := [], since := s.clock
           startable := s.clock, readAt := s.clock, paged := none, unshown := true, cause := 0, errSeq := 0, expSeq := 0, done := 0
           leaving := none }
  else none

/-- QT_CMD's STATUS after a command, and BUSY where it has not finished (R336). -/
def State.qtStatus (s : State) (st op index : Nat) (busy : Bool := false) : State :=
  { s with ctl := { s.ctl with qtCmd := BitVec.ofNat 64 ((if busy then 2 ^ 63 else 0) + st * 2 ^ 60 + op * 2 ^ 16 + index) } }
/-- BUSY clears once the packets that a disable cancelled have completed; a record that a page holds up does not keep it
(R336, R353) (DEDUCED, log entry 24). -/
def State.qtSettle (s : State) : State :=
  let x := s.ctl.qtCmd
  if x.getLsbD 63 && !s.queues.any (fun q => q.state == 5 && q.index == x.toNat % 2 ^ 16 &&
      q.packets.any (fun p => p.status == 8 && decide (p.stage < 4) && !p.kept && !p.barred)) then
    { s with ctl := { s.ctl with qtCmd := x &&& 0x7FFFFFFFFFFFFFFF#64 } }
  else s

/-- QT_ENABLE (R335, R336); no raft runs before the application cores are released (R408). -/
def execQtEnable (index : BitVec 16) (s : State) : Out :=
  let i := index.toNat
  .next (
    if !s.mgmt.released || s.ctl.qtCmd.getLsbD 63 then s
    else if (s.queue? i).isSome then s.qtStatus 2 1 i
    else match s.tableQueue i with
      | none => s.qtStatus 1 1 i
      | some q =>
        if s.queues.any (fun x => x.state != 5 && x.asid == q.asid && x.qhdr == q.qhdr) then s.qtStatus 2 1 i
        else
          -- the state shown from here on is the enabled queue's, not the earlier one's under the same header (R353)
          let older (x : Queue) : Bool := x.asid == q.asid && x.qhdr == q.qhdr
          let kept := (s.queues.filter (fun x => !(older x && x.packets.isEmpty))).map (fun x => if older x then { x with unshown := false } else x)
          let q : Queue := { q with done := ((s.earlierUnder q).head?.map (·.done)).getD 0 }
          let s1 : State := { s with queues := kept ++ [q] }
          ((s1.showQueue q).schedWatch q.asid q.qhdr (.queueHeader i)).qtStatus 0 1 i)

/-- QT_DISABLE (R336). A command is ignored while one is running. -/
def execQtDisable (index : BitVec 16) (s : State) : Out :=
  let i := index.toNat
  .next (if s.ctl.qtCmd.getLsbD 63 then s
    else match s.queue? i with
    | none => s.qtStatus 3 2 i
    | some q => ((s.untell (.queueHeader i)).moveQueue q q.off).qtStatus 0 2 i (q.packets.any (fun p => p.stage == 0)))

/-- A header's LOG2SIZE that differs from the table's puts the queue in ERROR (R337). -/
def badSize (q : Queue) (hdr : List Byte) : Bool := field (ofBytes ((hdr.drop 0x18).take 1)) 4 0 != q.log2

/-- A read of a queue's header: a non-zero RESUME is zeroed and leaves ERROR, a wrong LOG2SIZE enters it, and a watch
that has fired moves an IDLE queue to READY (R337, R343, R352). -/
def State.readHeader (s : State) (q : Queue) (fired : Bool) : State :=
  match s.readAt q.asid q.qhdr 64 .read with
  | (s1, .ok, b) =>
    let resume := ofBytes ((b.drop 0x1C).take 4) != 0
    match (if resume then s1.headerWrite q 0x1C (toBytes 4 0) else (s1, .ok)) with
    | (s2, .ok) =>
      let s3 := if q.listens then s2.schedWatch q.asid q.qhdr (.queueHeader q.index) else s2
      if q.state = 4 then
        (if !resume then s3
         else if badSize q b then s3.queueError q { q with state := 0 } 2 0 0
         else s3.moveQueue q { q with state := 0, readAt := 0 })
      else if badSize q b then s3.queueError q q 2 0 0
      else if fired && q.state == 0 then s3.moveQueue q { q with state := 1, startable := s.clock }
      else s3
    | (s2, v) => s2.queueStop q v q.qhdr true 0
  | (s1, v, _) => s1.queueStop q v q.qhdr true 0

/-- HEADER_WATCH (R337, R343, R352). -/
def execHeaderWatch (queue : Nat) (s : State) : Out :=
  .next (if !s.told (.queueHeader queue) then s
    else
      let s1 := s.untell (.queueHeader queue)
      match s1.queue? queue with
      | none => s1
      | some q => s1.readHeader q true)

/-- READ_INTERVAL's length in cycles (R349). -/
def State.interval (s : State) : Nat := perUs * s.ctl.readInterval.toNat

/-- QUEUE_RESUME: a non-zero RESUME read in ERROR (R343), at the watch that its write fired or at a READ_INTERVAL read. -/
def execQueueResume (queue : Nat) (s : State) : Out :=
  .next (match s.queueWith queue (fun q => q.state == 4) with
    | none => s
    | some q =>
      if !(s.told (.queueHeader queue) || decide (q.readAt + s.interval ≤ s.clock)) then s
      else
        let q1 := { q with readAt := s.clock }
        ((s.untell (.queueHeader queue)).setQueue q q1).readHeader q1 false)

/-! ### Packets (R338 to R344) -/

/-- Fields of a packet. -/
def Packet.w (p : Packet) (off : Nat) : Nat := ofBytes ((p.bytes.drop off).take 8)
def Packet.w32 (p : Packet) (off : Nat) : Nat := ofBytes ((p.bytes.drop off).take 4)
def Packet.opc (p : Packet) : Nat := field (p.w 0) 7 0

/-- A range of bytes in canonical form that does not wrap. -/
def plainRange (a n : Nat) : Bool := canonical a && canonical (a + n - 1) && decide (a + n ≤ 2 ^ 64)
/-- The checks at consumption: 0 well formed, 1 PKT_FORMAT, 7 PRIV (R340, R341, R345). -/
def Packet.check (p : Packet) (pre : Bool) : Nat :=
  let a := p.w 8
  let word8 := canonical a && a % 8 == 0
  let zeros (offs : List Nat) : Bool := offs.all (fun o => p.w o == 0)
  let ok : Bool := field (p.w 0) 31 8 == 0 && (match p.opc with
    | 1 =>
      word8 && field (p.w 0x18) 63 48 == 0 && field (p.w 0x18) 47 32 != 0 && field (p.w 0x18) 31 16 != 0 && field (p.w 0x18) 15 0 != 0 &&
      (field (p.w 0x28) 7 0 == 0 || (canonical (p.w 0x20) && p.w 0x20 % 16 == 0)) && field (p.w 0x28) 63 24 == 0 &&
      decide (field (p.w 0x28) 23 8 ≤ 256) && field (p.w 0x30) 63 32 == 0
    | 2 => word8 && zeros [0x18, 0x20, 0x28, 0x30]
    | 3 => word8 && field (p.w 0x18) 63 1 == 0 && zeros [0x20, 0x28, 0x30]
    | 4 =>
      let n := p.w32 0x18
      n != 0 && plainRange a n && plainRange (p.w 0x10) n && !overlaps a n (p.w 0x10) n && field (p.w 0x18) 63 32 == 0 && zeros [0x20, 0x28, 0x30]
    | 5 => zeros [0x08, 0x10, 0x18, 0x20, 0x28, 0x30]
    | 6 => word8 && zeros [0x18, 0x20, 0x28, 0x30]
    | _ => false)
  if !ok then 1 else if p.opc == 1 && field (p.w 0x28) 23 8 != 0 && !pre then 7 else 0

/-- One packet of a queue changed. -/
def Queue.setPacket (q : Queue) (seq : Word) (f : Packet → Packet) : Queue :=
  { q with packets := q.packets.map (fun p => if p.seq = seq then f p else p) }

/-- A launch's end: its status and the teams that ended by a trap (R344, R347, R348). -/
def Launch.over (l : Launch) : Bool := l.nextTeam == l.gx * l.gy * l.gz && l.ended == l.nextTeam
/-- A packet's completion, once it has one: status and detail. -/
def State.packetDone (s : State) (p : Packet) : Option (Nat × Word) :=
  if 2 ≤ p.stage then some (p.status, p.detail)
  else if p.stage = 0 then none
  else
    match p.launch, p.op with
    | some id, _ =>
      match s.launch? id with
      | some l => if l.over then some (if l.trapped = 0 then 0 else 5, BitVec.ofNat 32 l.trapped) else none
      | none => none
    | none, some id =>
      match s.op? id with
      | none => some (0, 0)
      | some o => if o.fault.isSome then some (6, BitVec.ofNat 32 o.pos) else none
    | none, none => none

/-- SEMWAIT and PASS hold the packets behind them (R344). -/
def Packet.holds (p : Packet) : Bool := p.opc == 2 || p.opc == 5
/-- The packet that a queue starts next (R344): none while an earlier one has not started or holds. -/
def State.nextPacket (s : State) : List Packet → Option Packet
  | [] => none
  | p :: ps =>
    if p.stage = 0 then some p
    else if p.holds && (s.packetDone p).isNone then none
    else s.nextPacket ps
/-- Every packet before one has completed. -/
def State.earlierDone (s : State) (q : Queue) (seq : Word) : Bool :=
  (q.packets.takeWhile (fun p => p.seq != seq)).all (fun p => (s.packetDone p).isSome)

/-- A mapped queue with no consumed packet left to start or hold moves to IDLE; one whose quantum has ended moves to READY
once the packet that was current has started (R349). -/
def State.settleQueue (s : State) (index : Nat) : State :=
  match s.queueWith index (fun q => q.state == 2) with
  | none => s
  | some q =>
    if !q.packets.any (fun p => p.stage == 0 || (p.holds && (s.packetDone p).isNone)) then s.moveQueue q { q with state := 0 }
    else if q.leaving.any (fun sq => !q.packets.any (fun p => p.seq == sq && p.stage == 0)) then s.moveQueue q { q with state := 1 }
    else s

/-- The consumed packets from the one that starts next on: behind those that have started (R342). -/
def State.unstarted (s : State) : List Packet → List Packet
  | [] => []
  | p :: ps => if p.stage = 0 then p :: ps else if p.holds && (s.packetDone p).isNone then ps else s.unstarted ps
/-- PACKET_CONSUME (R342): a published slot of a mapped queue; with no slot published and no consumed packet left to start
or hold, the queue moves to IDLE (R349) (DEDUCED, log entry 33). -/
def execPacketConsume (queue : Nat) (s : State) : Out :=
  .next (match s.queueWith queue (fun q => q.state == 2) with
    | none => s
    | some q =>
      if 8 < (s.unstarted q.packets).length then s
      else
        match s.readAt q.asid q.qhdr 64 .write with
        | (s1, .ok, hdr) =>
          let i := ofBytes ((hdr.drop 8).take 8)
          let consumed : Word := BitVec.ofNat 32 (ofBytes ((hdr.drop 0x10).take 4))
          let va := q.ring + i % 2 ^ q.log2 * 64
          match s1.readAt q.asid va 64 .read with
          | (s2, .ok, b) =>
            let seq : Word := BitVec.ofNat 32 (ofBytes ((b.drop 4).take 4))
            if ofBytes ((b.drop 0x3C).take 4) ≠ (i + 1) % 2 ^ 32 then s.settleQueue queue
            else if badSize q hdr then s2.queueError q q 2 0 0
            else if seq ≠ consumed + 1 then s2.queueError q q 1 seq (consumed + 1)
            else
              let p0 : Packet := { seq := seq, bytes := b, stage := 0, status := 0, detail := 0, launch := none, op := none, kept := false, barred := false }
              let st := p0.check q.pre
              let p := if st = 0 then p0 else { p0 with stage := 2, status := st }
              let q1 := { q with packets := q.packets ++ [p], startable := if q.packets.all (fun x => x.stage != 0) then s.clock else q.startable }
              let done : Word := BitVec.ofNat 32 (ofBytes ((hdr.drop 0x14).take 4))
              let q2 := if !q.packets.isEmpty then q1
                else { q1 with done := if (s.earlierUnder q).isEmpty then done else laterSeq q.done done }
              let s3 := (s2.headerWrite q 0x10 (toBytes 4 seq.toNat ++ toBytes 4 done.toNat)).1
              (s3.headerWrite q 8 (toBytes 8 (i + 1))).1.setQueue q q2
          | (s2, v, _) => s2.queueStop q v va false (consumed + 1)
        | (s1, v, _) => s1.queueStop q v q.qhdr true 0)

/-- READ_INTERVAL_READ (R346, R349, R352): a queue's header is read, and where it is IDLE the slot at RELEASED; a state
not yet shown is shown. -/
def execReadIntervalRead (queue : Nat) (s : State) : Out :=
  .next (match s.someQueue queue (fun q => q.state != 5 || q.unshown) with
    | (_, none) => s
    | (s, some q) =>
      if q.unshown then s.showQueue q
      else if s.clock < q.readAt + s.interval ∨ q.state = 6 then s
      else
        let q1 := { q with readAt := s.clock }
        let s1 := (s.setQueue q q1).readHeader q1 false
        match s1.queueWith queue (fun x => x == q1), q1.state with
        | some _, 0 =>
          match s1.readAt q.asid q.qhdr 64 .read with
          | (s2, .ok, hdr) =>
            let i := ofBytes ((hdr.drop 8).take 8)
            let va := q.ring + i % 2 ^ q.log2 * 64
            match s2.readAt q.asid (va + 0x3C) 4 .read with
            | (s3, .ok, b) =>
              if ofBytes b = (i + 1) % 2 ^ 32 then s3.moveQueue q1 { q1 with state := 1, startable := s.clock } else s3
            | (s3, v, _) => s3.queueStop q1 v va false (BitVec.ofNat 32 (ofBytes ((hdr.drop 0x10).take 4) + 1))
          | (s2, v, _) => s2.queueStop q1 v q.qhdr true 0
        | _, _ => s1)

/-! ### Mapping (R349) -/

/-- The effective priority of a queue. -/
def State.effPrio (s : State) (q : Queue) : Nat :=
  min (q.prio + (s.clock - q.startable) / perUs / max 1 s.ctl.ageInterval.toNat) (max q.prio s.ctl.ageCap.toNat)

/-- QUEUE_MAP: the READY queue of highest effective priority, and among equals the one READY longest. -/
def execQueueMap (s : State) : Out :=
  .next (if 1024 ≤ (s.queues.filter (fun q => q.state == 2)).length then s
    else match leastByKeys (fun (q : Queue) => [127 - s.effPrio q, q.since, q.index]) (s.queues.filter (fun q => q.state == 1)) with
      | none => s
      | some q => s.moveQueue q { q with state := 2 })

/-- QUANTUM_EXPIRY: a queue that has been mapped for 1 ms while a READY queue of equal or higher effective priority
waits goes back to READY, once the packet that it starts next has started. -/
def execQuantumExpiry (queue : Nat) (s : State) : Out :=
  .next (match s.queueWith queue (fun q => q.state == 2 && decide (q.since + 1000 * perUs ≤ s.clock)) with
    | none => s
    | some q =>
      if q.leaving.isNone && s.queues.any (fun x => x.state == 1 && decide (s.effPrio q ≤ s.effPrio x)) then
        match s.nextPacket q.packets with
        | none => s.moveQueue q { q with state := 1 }
        | some p => s.setQueue q { q with leaving := some p.seq }
      else s)

/-! ### Descriptors and placement (R98, R99, R101, R102, R350) -/

/-- A kernel descriptor (R101). -/
def kernelOf (addr : Nat) (b : List Byte) : Kernel :=
  let w (i : Nat) := ofBytes ((b.drop (8 * i)).take 8)
  { addr := addr, entry := BitVec.ofNat 64 (w 0), tmemLines := field (w 1) 47 32, vregs := field (w 1) 23 15, supv := bit (w 1) 4
    ring := bit (w 1) 3, pair := bit (w 1) 2, width := 16 * 2 ^ field (w 1) 1 0
    rafts := field (w 2) 23 16 * field (w 2) 15 8 * field (w 2) 7 0, brecBase := w 3, brecCount := field (w 4) 8 0 }
def kernelOk (b : List Byte) : Bool :=
  let w (i : Nat) := ofBytes ((b.drop (8 * i)).take 8)
  let k := kernelOf 0 b
  w 0 % 8 == 0 && canonical (w 0) && field (w 1) 63 48 == 0 && field (w 1) 31 24 == 0 && field (w 1) 14 5 == 0 &&
  decide (k.tmemLines ≤ 16384) && decide (1 ≤ k.vregs) && decide (k.vregs ≤ 384) && !(k.ring && k.pair) && field (w 1) 1 0 != 3 &&
  field (w 2) 63 24 == 0 && decide (1 ≤ k.rafts) && decide (k.rafts ≤ if k.pair then 64 else 32) && field (w 4) 63 9 == 0 &&
  decide (k.brecCount ≤ 256) && (k.brecCount == 0 || (canonical k.brecBase && k.brecBase % 8 == 0)) && (b.drop 0x28).all (· == 0)
/-- Rafts of a team on its core number i (R98). -/
def Kernel.on (k : Kernel) (i : Nat) : Nat := if i = 0 then (if k.pair then min 32 k.rafts else k.rafts) else k.rafts - 32
/-- Bytes of register file that the team takes in a quadrant of its core number i (R103). -/
def Kernel.fileBytes (k : Kernel) (i quad : Nat) : Nat := k.vregs * k.width * 4 * ((k.on i + 3 - quad) / 4)
/-- R102's fit on an empty core. -/
def Kernel.fits (k : Kernel) : Bool := decide (k.fileBytes 0 0 ≤ 524288) && decide (k.on 0 ≤ 64)

/-- Teams that hold contexts on a core, with which of their cores it is. -/
def State.teamsOn (s : State) (core : Nat) : List (Team × Nat) :=
  (s.teams.filter (fun t => t.stowed.isNone)).filterMap (fun t =>
    ((numbered t.cores).find? (fun x => x.2 == core)).map (fun x => (t, x.1)))
/-- Tile-memory lines of a core in use: first line and count. -/
def State.linesOn (s : State) (core : Nat) : List (Nat × Nat) := (s.teamsOn core).map (fun x => (x.1.bases.getD x.2 0, x.1.kernel.tmemLines))
/-- A place for some lines of a core's 16,384, where so many are free: the numbers that they go by, the lowest at 0 or
behind another team's. Which lines these are is seen nowhere (R102) (DESIGN CHOICE, log entry 101). -/
def placeLines (used : List (Nat × Nat)) (n : Nat) : Option Nat :=
  if n = 0 then some 0
  else if 16384 < total (used.map (·.2)) + n then none
  else leastBy id ((0 :: used.map (fun u => u.1 + u.2)).filter (fun a => used.all (fun u => !overlaps a n u.1 u.2)))

/-- Bytes of a quadrant's register file that landed rafts hold on a core (R396). -/
def State.landedBytes (s : State) (core quad : Nat) : Nat :=
  total ((s.rafts.filter (fun r => r.landed == some core && r.quad == quad)).map (fun r => r.count * r.width * 4))
/-- A core where the team's core number i fits now: the first line of its tile memory there (R102). A raft that has ended
holds no context (R121), and its registers are its team's (R103). -/
def State.roomOn (s : State) (k : Kernel) (i core : Nat) : Option Nat :=
  let live := (s.teamsOn core).filter (fun x => !x.1.ended)
  if (s.rafts.filter (fun r => r.core == core && live.any (fun x => x.1.id == r.team))).length + k.on i ≤ 64 &&
      (List.range 4).all (fun q =>
        decide (total (live.map (fun x => x.1.kernel.fileBytes x.2 q)) + s.landedBytes core q + k.fileBytes i q ≤ 524288)) then
    placeLines (s.linesOn core) k.tmemLines
  else none

/-- The groups of cores that a team, a pair or a ring-set group of m teams could take in a cluster. -/
def Kernel.groupsIn (k : Kernel) (m cluster : Nat) : List (List Nat) :=
  let cs := span (4 * cluster) 4
  if k.ring then [cs.take m]
  else if k.pair then cs.flatMap (fun a => (cs.filter (· != a)).map (fun b => [a, b]))
  else cs.map (fun a => [a])
/-- The places that fit: cores with the first line on each (R102). A ring-set group needs room on all four cores of its
cluster, although fewer members may start (R99, R350). -/
def State.placesFor (s : State) (k : Kernel) (m : Nat) (dies : List Nat) (barred : Nat → Bool) : List (List (Nat × Nat)) :=
  (dies.flatMap (fun d => span (8 * d) 8)).flatMap (fun cl => (k.groupsIn m cl).filterMap (fun cores =>
    let spot (i c : Nat) := if barred c then none else (s.roomOn k (if k.ring then 0 else i) c).map (fun l => (c, l))
    let spots := (numbered cores).map (fun (i, c) => spot i c)
    if spots.all (·.isSome) && (!k.ring || (span (4 * cl) 4).all (fun c => (spot 0 c).isSome)) then some (spots.filterMap id) else none))

/-- A core without a team. -/
def State.idleCore (s : State) (core : Nat) : Bool := (s.teamsOn core).isEmpty
def State.idleCluster (s : State) (cl : Nat) : Bool := (span (4 * cl) 4).all s.idleCore
/-- Colour of a cluster on its die (R350). -/
def clusterColour (cl : Nat) : Nat := (cl % 8 / 4 + cl % 8 % 4) % 2
/-- Bytes of some range lists homed on a die (R350). -/
def State.homedOn (s : State) (asid : Nat) (lists : List (Nat × Nat)) (die : Nat) : Nat :=
  total (lists.map (fun (a, n) => total ((List.range (n / 4096 + 2)).map (fun i =>
    let lo := max a ((a / 4096 + i) * 4096)
    let hi := min (a + n) ((a / 4096 + i + 1) * 4096)
    if s.homeOf asid lo = die then hi - lo else 0))))
/-- The distributor's keys for a group of cores (R350): reserved cores first, then bytes homed, headroom, checkerboard,
index. -/
def State.placeKeys (s : State) (asid : Nat) (lists : List (Nat × Nat)) (mine : Nat → Bool) (cores : List Nat) : List Nat :=
  let c := cores.headD 0
  let cl := c / 4
  let die := c / 32
  let homed := if lists.isEmpty then 0 else s.homedOn asid lists die
  let best := if lists.isEmpty then 0 else (List.range 8).foldl (fun m d => max m (s.homedOn asid lists d)) 0
  let check := if s.idleCluster cl && clusterColour cl == 1 then
      (if (span (8 * die) 8).any (fun x => s.idleCluster x && clusterColour x == 0) then 2 else 1) else 0
  [if cores.all mine then 0 else 1, best - homed, 255 - ((s.clusters[cl]?).map (·.headroom.toNat)).getD 255, check, c]

/-- A packet still has teams to place: it has not started, or its launch has more (R351). -/
def State.wants (s : State) (queue seq : Nat) : Bool :=
  s.queues.any (fun q => q.index == queue && q.packets.any (fun p => p.seq.toNat == seq && (p.stage == 0 ||
    s.launches.any (fun l => p.launch == some l.id && decide (l.nextTeam < l.gx * l.gy * l.gz)))))
/-- A core that a packet has reserved, and one reserved for another (R351). -/
def State.reservedFor (s : State) (queue : Nat) (seq : Word) (core : Nat) : Bool :=
  s.reserved.any (fun x => x.1 == queue && x.2.1 == seq.toNat && x.2.2 == core)
def State.reservedElse (s : State) (queue : Nat) (seq : Word) (core : Nat) : Bool :=
  s.reserved.any (fun x => !(x.1 == queue && x.2.1 == seq.toNat) && x.2.2 == core && s.wants x.1 x.2.1)

/-- The dies that take dispatch (R414). -/
def State.upDies (s : State) : List Nat := (List.range 8).filter (fun d => !s.down.contains d)
/-- Teams of the next group: four of a ring set, fewer at the grid's end (R99). -/
def Launch.groupSize (l : Launch) : Nat := if l.kernel.ring then min 4 (l.gx * l.gy * l.gz - l.nextTeam) else 1
/-- The place that the distributor chooses for a launch's next team or group. -/
def State.choosePlace (s : State) (l : Launch) : Option (List (Nat × Nat)) :=
  leastByKeys (fun (p : List (Nat × Nat)) => s.placeKeys l.asid l.lists (s.reservedFor l.queue l.seq) (p.map (·.1)))
    (s.placesFor l.kernel l.groupSize s.upDies (s.reservedElse l.queue l.seq))

/-! ### Teams as they start (R97 to R103, R180, R345) -/

/-- A raft as it starts (R100). -/
def startRaft (id team index core : Nat) (l : Launch) (now : Nat) : Raft :=
  let k := l.kernel
  let full := fullMask k.width
  { id := id, team := team, index := index, core := core, quad := index % 4, width := k.width, landed := none, count := k.vregs
    v := [], p := []
    s := sset (sset (sset (ssets [] 0 (words2 l.args.toNat)) 2 (BitVec.ofNat 32 l.gx)) 3 (BitVec.ofNat 32 l.gy)) 4 (BitVec.ofNat 32 l.gz)
    origin := List.range k.width, live := full, split := [some (Entry.at k.entry full now), none, none, none], joins := [], stack := []
    spindle := none, streams := [none, none, none, none], batchCount := 0, srUse := [], drain := 0
    tags := [none, none, none, none, none, none, none], views := [none, none], exitAt := none, stopping := none, skid := 0
    halted := false, haltPc := 0, haltInfo := 0, mooredAt := none, mooredSum := 0 }

/-- One team started on its cores: allocated lines hold zero and are full; the cores' L1 lines of its ASID are dropped
(R180, R345). -/
def State.startTeam (s : State) (l : Launch) (linear : Nat) (place : List (Nat × Nat)) (group : Option Nat) : State :=
  let id := s.nextId
  let k := l.kernel
  let cores := place.map (·.1)
  let t : Team :=
    { id := id, launch := l.id, linear := linear, x := linear % l.gx, y := linear / l.gx % l.gy, z := linear / (l.gx * l.gy)
      asid := l.asid, supv := k.supv, lnum := l.lnum, kernel := k, cores := cores, bases := place.map (·.2), group := group
      member := linear % 4, breaks := [0, 0, 0, 0], dying := none, ended := false, stowed := none, stowTry := none, stowing := none, stepping := none }
  let rafts := (List.range k.rafts).map (fun i =>
    startRaft (id + 1 + i) id i (cores.getD (if k.pair then i / 32 else 0) 0) l s.clock)
  { s with
    nextId := id + 1 + k.rafts
    teams := s.teams ++ [t]
    rafts := s.rafts ++ rafts
    tile := place.foldl (fun m (c, a) => sclear m (tileKey c (128 * a)) (128 * k.tmemLines)) s.tile
    empty := place.foldl (fun m (c, a) => sclear m (lineKey c a) k.tmemLines) s.empty
    l1 := s.l1.filter (fun x => !(cores.contains x.core && x.asid == l.asid))
    reserved := s.reserved.filter (fun x => !(x.1 == l.queue && x.2.1 == l.seq.toNat && cores.contains x.2.2)) }

/-- A launch's next team, or its next group of four, started (R97, R99). -/
def State.dispatchNext (s : State) (l : Launch) (place : List (Nat × Nat)) : State :=
  let n := l.groupSize
  let s1 := if l.kernel.ring then
      (numbered place).foldl (fun s (i, p) => s.startTeam l (l.nextTeam + i) [p] (some l.id)) s
    else s.startTeam l l.nextTeam place none
  -- a ring set's group is named by its first team
  let s2 : State := if l.kernel.ring then
      { s1 with teams := s1.teams.map (fun t => if decide (s.nextId ≤ t.id) then { t with group := some s.nextId } else t) } else s1
  s2.setLaunch { l with nextTeam := l.nextTeam + n }

/-- What a LAUNCH packet's start comes to (R345, R351). -/
inductive LaunchTry where
  | blocked
  | fails (s : State) (status : Nat)
  | stops (s : State) (v : Verdict) (va : Nat)
  | starts (s : State) (l : Launch) (place : List (Nat × Nat))
  deriving DecidableEq, Repr

/-- The range list as read: entries, or what was met. -/
def State.rangeList (asid : Nat) (va : Nat) : Nat → State → State × Verdict × List (Nat × Nat) × Bool
  | 0, s => (s, .ok, [], true)
  | n + 1, s =>
    match s.readAt asid va 16 .read with
    | (s1, .ok, b) =>
      let lo := ofBytes (b.take 8)
      let len := ofBytes ((b.drop 8).take 8)
      if field len 63 56 ≠ 0 then (s1, .ok, [], false)
      else
        match State.rangeList asid (va + 16) n s1 with
        | (s2, v, xs, good) => (s2, v, (lo, len) :: xs, good)
    | (s1, v, _) => (s1, v, [], true)

/-- The queue that a launch came from, for its priority; a launch whose queue is gone keeps the priority it had. -/
def State.launchPrio (s : State) (l : Launch) : Nat :=
  match s.queueWith l.queue (fun q => q.packets.any (fun p => p.launch == some l.id)) with
  | some q => s.effPrio q
  | none => l.prio

/-! ### Frame slots and victims (R351, R358) -/

/-- The teams that are stowed and restored with a team: its ring-set group, or itself (R182). -/
def State.groupOf (s : State) (t : Team) : List Team :=
  match t.group with
  | none => [t]
  | some g => s.teams.filter (fun x => x.group == some g)
/-- The frame slots that hold no team (DEDUCED, log entry 62). -/
def State.freeSlots (s : State) : List Nat :=
  let used := s.teams.flatMap (fun t => match t.stowed with
    | some st => st.slots
    | none => [])
  (List.range s.csr.stowSlots.toNat).filter (fun k => !used.contains k)
/-- The cores of a group. -/
def coresOf (g : List Team) : List Nat := g.flatMap (·.cores)
/-- A team is halted: every live raft of it is (R357, R368). -/
def State.haltedTeam (s : State) (t : Team) : Bool := !(s.raftsOf t.id).isEmpty && (s.raftsOf t.id).all (·.halted)
/-- A group that no stow has reached, of which no team is halted or dying and no raft is being stopped. -/
def State.quietGroup (s : State) (g : List Team) : Bool :=
  g.all (fun t => t.stowed.isNone && t.stowing.isNone && (t.dying.isNone || t.ended) && t.stepping.isNone && !s.haltedTeam t &&
    (s.raftsOf t.id).all (fun r => r.stopping.isNone))

/-- The groups that a packet of an effective priority may strike: the lowest priority first, among equals the most
recently dispatched; each at most once for the packet (DEDUCED, log entry 63). -/
def State.victims (s : State) (q : Queue) (p : Packet) : List (List Team) :=
  let heads := s.teams.filter (fun t => t.id == ((s.groupOf t).headD t).id)
  let prio (t : Team) : Nat := match s.launch? t.launch with
    | some l => s.launchPrio l
    | none => 128
  let fit := heads.filter (fun t => decide (prio t < s.effPrio q) && s.quietGroup (s.groupOf t) &&
    !(s.groupOf t).any (fun x => s.struck.contains (q.index, p.seq.toNat, x.id)))
  (sortBy (fun (t : Team) => prio t * (s.nextId + 1) + (s.nextId - t.id)) fit).map s.groupOf

/-- A core is left free when a set of teams is gone. -/
def State.freedBy (s : State) (gone : List Team) (core : Nat) : Bool := (s.teamsOn core).all (fun x => gone.any (fun t => t.id == x.1.id))
/-- A choice of victims that frees exactly `need` cores more, each victim all of its own, in at most `slots` frame slots:
the first in the order of the list. A victim that exceeds what is still needed is passed over. -/
def State.pick (s : State) : List (List Team) → List (List Team) → Nat → Nat → Option (List (List Team))
  | [], taken, need, _ =>
    if need = 0 ∧ (coresOf taken.flatten).all (s.freedBy taken.flatten) then some [] else none
  | g :: rest, taken, need, slots =>
    let free (x : List (List Team)) := (coresOf x.flatten).eraseDups.filter (s.freedBy x.flatten)
    let n := (free (g :: taken)).length - (free taken).length
    if need = 0 ∧ (coresOf taken.flatten).all (s.freedBy taken.flatten) then some []
    else if need < n ∨ slots < (coresOf g).length then s.pick rest taken need slots
    else match s.pick rest (g :: taken) (need - n) (slots - (coresOf g).length) with
      | some r => some (g :: r)
      | none => s.pick rest taken need slots

/-- The cores that a packet finds free: without a team, and not reserved for another. -/
def State.freeFor (s : State) (q : Queue) (p : Packet) : List Nat :=
  (List.range 256).filter (fun c => s.idleCore c && !s.down.contains (c / 32) && !s.reservedElse q.index p.seq c)
/-- VACATE of a packet. -/
def Packet.vacate (p : Packet) : Nat := field (p.w 0x28) 23 8
/-- A stow for a packet is under way. -/
def State.striking (s : State) (q : Queue) (p : Packet) : Bool :=
  s.teams.any (fun t => t.stowing == some 3 && s.struck.contains (q.index, p.seq.toNat, t.id))
/-- The victims that a packet's VACATE takes now, where more cores are needed (R351). -/
def State.choice (s : State) (q : Queue) (p : Packet) : Option (List (List Team)) :=
  if p.vacate ≤ (s.freeFor q p).length then none
  else s.pick (s.victims q p) [] (p.vacate - (s.freeFor q p).length)
    (s.freeSlots.length - (coresOf (s.teams.filter (fun t => t.stowing == some 3 && t.stowed.isNone))).length)

/-- The cores that VACATE asks for are free, or no choice of victims stands: the launch starts as an ordinary one (R351). -/
def State.vacated (s : State) (q : Queue) (p : Packet) : Bool :=
  decide (p.vacate ≤ (s.freeFor q p).length) || (!s.striking q p && (s.choice q p).isNone)

/-- A LAUNCH packet tried: the range list, the descriptor, its checks, and a place for the first team (R345). -/
def State.tryLaunch (s : State) (q : Queue) (p : Packet) : LaunchTry :=
  match State.rangeList q.asid (p.w 0x20) (field (p.w 0x28) 7 0) s with
  | (s1, .ok, lists, good) =>
    if !good then .fails s1 1
    else
      match s1.readAt q.asid (p.w 8) 256 .read with
      | (s2, .ok, b) =>
        let k := kernelOf (p.w 8) b
        if !kernelOk b then .fails s2 2
        else if k.supv && !q.supv then .fails s2 3
        else if !k.fits then .fails s2 4
        else
          let l : Launch :=
            { id := s2.nextId, queue := q.index, seq := p.seq, asid := q.asid, gx := field (p.w 0x18) 15 0, gy := field (p.w 0x18) 31 16
              gz := field (p.w 0x18) 47 32, lnum := BitVec.ofNat 32 (p.w32 0x30), args := BitVec.ofNat 64 (p.w 0x10), srseed := s2.csr.srseed
              user := BitVec.ofNat 64 (p.w32 0x38), prio := q.prio, kernel := k, nextTeam := 0, ended := 0, trapped := 0, lists := lists
              since := s.clock }
          match s2.choosePlace l with
          | none => .blocked
          | some place => .starts s2 l place
      | (s2, .fault _, _) => .fails s2 2
      | (_, .wait, _) => .blocked
      | (s2, v, _) => .stops s2 v (p.w 8)
  | (s1, .fault _, _, _) => .fails s1 1
  | (_, .wait, _, _) => .blocked
  | (s1, v, _, _) => .stops s1 v (p.w 0x20)

/-- The next team of a started launch can be placed now. -/
def State.dispatchable (s : State) (l : Launch) : Bool := decide (l.nextTeam < l.gx * l.gy * l.gz) && (s.choosePlace l).isSome
/-- A mapped queue's next packet is a LAUNCH whose first team can be placed now. -/
def State.launchable (s : State) (q : Queue) : Bool :=
  q.state == 2 && (match s.nextPacket q.packets with
    | none => false
    | some p => p.opc == 1 && s.vacated q p && (match s.tryLaunch q p with
      | .starts _ _ _ => true
      | _ => false))
/-- What the distributor serves first (R350): higher effective priority, then the oldest, among started LAUNCHes and those
that mapped queues start next. -/
def State.servedBefore (s : State) (prio since : Nat) : Bool :=
  let first (p t : Nat) : Bool := decide (prio < p) || (p == prio && decide (t < since))
  s.launches.any (fun l => s.dispatchable l && first (s.launchPrio l) l.since) ||
  s.queues.any (fun q => s.launchable q && first (s.effPrio q) q.startable)

/-- TEAM_DISPATCH (R350). -/
def execTeamDispatch (launch : Nat) (s : State) : Out :=
  .next (match s.launch? launch with
    | none => s
    | some l =>
      if decide (l.gx * l.gy * l.gz ≤ l.nextTeam) || s.servedBefore (s.launchPrio l) l.since then s
      else match s.choosePlace l with
        | none => s
        | some place => s.dispatchNext l place)

/-- LAUNCH_START: the next packet of a mapped queue, a LAUNCH, fails or has its first team dispatched (R344, R345). -/
def execLaunchStart (queue : Nat) (s : State) : Out :=
  .next (match s.queueWith queue (fun q => q.state == 2) with
    | none => s
    | some q =>
      match s.nextPacket q.packets with
      | none => s
      | some p =>
        if p.opc != 1 || !s.vacated q p then s
        else
          match s.tryLaunch q p with
          | .blocked => s
          | .fails s1 st => (s1.setQueue q { (q.setPacket p.seq (fun x => { x with stage := 2, status := st })) with startable := s.clock }).settleQueue queue
          | .stops s1 v va => s1.queueStop q v va false p.seq
          | .starts s1 l place =>
            if s.servedBefore (s.effPrio q) q.startable then s
            else
              let s2 : State := { s1 with launches := s1.launches ++ [l], nextId := s1.nextId + 1 }
              let s3 := s2.setQueue q { (q.setPacket p.seq (fun x => { x with stage := 1, launch := some l.id })) with startable := s.clock }
              (s3.dispatchNext l place).settleQueue queue)

/-! ### COPY, SEMWAIT, PASS, SEMSIGNAL, MARKER (R344 to R346) -/

/-- The core that performs a COPY (R345). -/
def State.copyCore (s : State) (asid src dst : Nat) : Option Nat :=
  let hd := s.homeOf asid dst
  let hs := s.homeOf asid src
  let die0 := if hd ≠ 8 then hd else if hs ≠ 8 then hs else field dst 23 21
  match ((List.range 8).map (fun i => (die0 + i) % 8)).find? (fun d => !s.down.contains d) with
  | none => none
  | some die =>
    leastByKeys (fun c => [255 - ((s.clusters[c / 4]?).map (·.headroom.toNat)).getD 255, c])
      ((span (32 * die) 32).filter (fun c => decide ((s.ops.filter (fun o => o.core == c && o.cls == 1 && o.fault.isNone && !(o.susp.isSome && s.opStowed o))).length < 256)))

/-- Bytes at an address as a record of 2^32 elements, of which a COPY takes the first. -/
def byteRec (a : Nat) : BRec :=
  { base := a, space := 0, fmt := 12, scale := 0, ext0 := 65536, ext1 := 65536, ext2 := 1, stride1 := 65536, stride2 := 0
    mxoff := 0, inter := 0, rfmt := 12, oob := 0 }
/-- COPY_START (R345). -/
def execCopyStart (queue : Nat) (s : State) : Out :=
  .next (match s.queueWith queue (fun q => q.state == 2) with
    | none => s
    | some q =>
      match s.nextPacket q.packets with
      | none => s
      | some p =>
        if p.opc != 4 then s
        else
          let src := p.w 8
          let dst := p.w 0x10
          match s.copyCore q.asid src dst with
          | none => s
          | some core =>
            let o : Op := { Op.blank s.nextId (.fcopy ⟨0, 0, 384#9, 0, 0, 0, 0⟩) with
              core := core, asid := q.asid, cls := 1, since := s.clock, amount := p.w32 0x18
              desc := [0, 0xFFFFFFFF#32, 0, 0, 0, 0, 0, 0], recs := [byteRec src, byteRec dst, default]
              places := [(.virt q.asid, 0), (.virt q.asid, 0), (.virt q.asid, 0)]
              ranges := [⟨.virt q.asid, src, p.w32 0x18, false, some core⟩, ⟨.virt q.asid, dst, p.w32 0x18, true, some core⟩] }
            if 1024 < s.tableUse core + 2 then s
            else
              let s1 : State := { s with ops := s.ops ++ [o], nextId := s.nextId + 1 }
              (s1.setQueue q { (q.setPacket p.seq (fun x => { x with stage := 1, op := some o.id })) with startable := s.clock }).settleQueue queue)

/-- A packet of a queue starts, where it had not: the next one's time begins (R349). -/
def Queue.starts (q : Queue) (seq : Word) (now : Nat) : Queue :=
  if q.packets.any (fun p => p.seq == seq && p.stage == 0) then { q with startable := now } else q
/-- A packet has a status: where it starts so, or held the packets behind it (R344), the next one's time begins (R349). -/
def Queue.ends (q : Queue) (seq : Word) (status now : Nat) : Queue :=
  { q.setPacket seq (fun x => { x with stage := 2, status := status }) with
    startable := if q.packets.any (fun p => p.seq == seq && (p.stage == 0 || p.holds)) then now else q.startable }
/-- A packet completes with a status. -/
def State.endPacket (s : State) (q : Queue) (seq : Word) (status : Nat) : State :=
  (s.setQueue q (q.ends seq status s.clock)).settleQueue q.index
/-- A SEMWAIT completes: a queue that waited for it is READY (R346). -/
def State.endWait (s : State) (q : Queue) (seq : Word) (status : Nat) : State :=
  if q.state = 3 then s.moveQueue q { q.ends seq status s.clock with state := 1 } else s.endPacket q seq status

/-- A read of a semaphore word for a packet (R346). -/
def State.semRead (s : State) (q : Queue) (p : Packet) : State :=
  match s.readAt q.asid (p.w 8) 8 .read with
  | (s1, .ok, b) =>
    if p.w 0x10 ≤ ofBytes b then s1.endWait q p.seq 0
    else
      let q1 := { ((q.starts p.seq s.clock).setPacket p.seq (fun x => { x with stage := 1 })) with readAt := s.clock }
      let s2 := s1.schedWatch q.asid (p.w 8) (.semaphore q.index)
      if q.state = 2 then s2.moveQueue q { q1 with state := 3 } else s2.setQueue q q1
  | (s1, .fault _, _) => s1.endWait q p.seq 6
  | (s1, v, _) => s1.queueStop q v (p.w 8) false p.seq

/-- The packet of a kind that a queue holds at: started and not complete, or the next to start. -/
def State.atKind (s : State) (q : Queue) (opc : Nat) : Option Packet :=
  match q.packets.find? (fun p => p.opc == opc && p.stage == 1 && (s.packetDone p).isNone) with
  | some p => some p
  | none =>
    if q.state != 2 then none
    else match s.nextPacket q.packets with
      | some p => if p.opc == opc then some p else none
      | none => none

/-- SEMWAIT: reached, or met again after the queue was mapped anew (R346). -/
def execSemwait (queue : Nat) (s : State) : Out :=
  .next (match s.queueWith queue (fun q => q.state == 2) with
    | none => s
    | some q =>
      match s.atKind q 2 with
      | none => s
      | some p => s.semRead q p)

/-- The SEMWAIT that a queue has started and that is not met (R346). -/
def Queue.awaits (q : Queue) : Option Packet := q.packets.find? (fun p => p.opc == 2 && p.stage == 1)
/-- SEMAPHORE_REREAD: after a notice on the word's line, a SEMSIGNAL to it, or READ_INTERVAL, in whatever state the queue is
(R346): a disabled queue's SEMWAIT goes on beside that of the queue enabled anew (R336). -/
def execSemaphoreReread (queue : Nat) (s : State) : Out :=
  .next ((s.queues.filter (fun q => q.index == queue && q.awaits.isSome &&
      (s.told (.semaphore queue) || decide (q.readAt + s.interval ≤ s.clock)))).foldl (fun st q => match q.awaits with
        | some p => st.semRead q p
        | none => st) (s.untell (.semaphore queue)))

/-- PASS_PACKET (R344). -/
def execPassPacket (queue : Nat) (s : State) : Out :=
  .next (match s.someQueue queue (fun q => (s.atKind q 5).isSome) with
    | (_, none) => s
    | (s1, some q) =>
      match s.atKind q 5 with
      | none => s
      | some p =>
        if s.earlierDone q p.seq then s1.endPacket q p.seq 0
        else if p.stage = 0 then
          (s1.setQueue q ((q.starts p.seq s.clock).setPacket p.seq (fun x => { x with stage := 1 }))).settleQueue queue
        else s1)

/-- The queues that wait on a word, in whatever state they are, are told of a signal to it (R346). -/
def State.tellWaiters (s : State) (asid va : Nat) : State :=
  let hit := s.queues.filter (fun q => q.asid == asid && q.awaits.any (fun p => p.w 8 == va))
  { s with
    notices := s.notices ++ (numbered hit).map (fun (i, q) => ⟨s.nextId + i, .fired (.semaphore q.index)⟩)
    nextId := s.nextId + hit.length }

/-- SEMSIGNAL and MARKER: started when reached, performed once every earlier packet has completed (R345). -/
def State.signalStep (s : State) (queue opc : Nat) (perform : Packet → State → Nat → State × Verdict) : State :=
  match s.someQueue queue (fun q => (s.atKind q opc).isSome) with
  | (_, none) => s
  | (s0, some q) =>
    match s.atKind q opc with
    | none => s
    | some p =>
      if s.earlierDone q p.seq then
        match perform p s0 q.asid with
        | (s1, .ok) => s1.endPacket q p.seq 0
        | (s1, .fault _) => s1.endPacket q p.seq 6
        | (s1, v) => s1.queueStop q v (p.w 8) false p.seq
      else if p.stage = 0 then
        (s0.setQueue q ((q.starts p.seq s.clock).setPacket p.seq (fun x => { x with stage := 1 }))).settleQueue queue
      else s0

/-- SEMSIGNAL (R345). -/
def execSemsignal (queue : Nat) (s : State) : Out :=
  .next (s.signalStep queue 3 (fun p st asid =>
    match st.readAt asid (p.w 8) 8 .write with
    | (s1, .ok, b) =>
      let w := ofBytes b
      let x := if bit (p.w 0x18) 0 then (w + p.w 0x10) % 2 ^ 64 else max w (p.w 0x10)
      match s1.writeAt asid (p.w 8) (toBytes 8 x) true with
      | (s2, v) => (s2.tellWaiters asid (p.w 8), v)
    | (s1, v, _) => (s1, v)))
/-- MARKER (R345). -/
def execMarker (queue : Nat) (s : State) : Out :=
  .next (s.signalStep queue 6 (fun p st asid =>
    if p.w 8 = 0 then (st, .ok) else st.writeAt asid (p.w 8) (toBytes 8 (p.w 0x10))))

/-! ### Completion records (R347) -/

/-- The packets whose records are all written leave the queue, and its part of COMPLETED_SEQ passes them. -/
def Queue.retire (q : Queue) : List Packet → Queue
  | [] => { q with packets := [] }
  | p :: ps => if p.stage = 4 then ({ q with done := p.seq } : Queue).retire ps else { q with packets := p :: ps }

/-- A completion record whose page is not resident is kept, and one whose page bars it waits for ERROR to be left (R353)
(DEDUCED, log entry 83). -/
def Queue.keep (q : Queue) (seq : Word) (v : Verdict) : Queue :=
  match v with
  | .moor => q.setPacket seq (fun x => { x with kept := true })
  | .fault _ => q.setPacket seq (fun x => { x with barred := true })
  | _ => q
/-- A completed packet's record may be written now: a kept one after the kept ones of earlier packets, a barred one when its
queue is not in ERROR (R353). -/
def Queue.mayRecord (q : Queue) (p : Packet) : Bool :=
  !(p.kept && (q.packets.takeWhile (fun x => x.seq != p.seq)).any (·.kept)) && !(p.barred && q.state == 4)
/-- A record's write has met something. -/
def State.recordStop (s : State) (q : Queue) (seq : Word) (v : Verdict) (va : Nat) : State :=
  ((s.setQueue q (q.keep seq v)).queueStop (q.keep seq v) v va false seq).qtSettle

/-- Bytes 8 to 15 of a completed packet's record (R347). -/
def State.recordHigh (s : State) (q : Queue) (p : Packet) (status : Nat) (detail : Word) : State :=
  let at_ := q.crec + p.seq.toNat % 2 ^ q.clog2 * 16
  match s.writeAt q.asid (at_ + 8) (toBytes 4 (p.w32 0x38) ++ toBytes 4 detail.toNat) with
  | (s1, .ok) =>
    let s2 : State := { s1 with
      launches := s1.launches.filter (fun l => some l.id != p.launch)
      ops := s1.ops.filter (fun o => !(some o.id == p.op && o.fault.isSome)) }
    (s2.setQueue q (q.setPacket p.seq (fun x =>
      { x with stage := 3, status := status, detail := detail, kept := false, barred := false }))).settleQueue q.index
  | (s1, v) => s1.recordStop q p.seq v at_
/-- COMPLETED_SEQ as a queue leaves it, from what the header holds (R337, R347): it never passes a packet of an earlier
enabling whose record is still to be written, and never goes back (DEDUCED, log entry 83). -/
def State.completedSeq (s : State) (q : Queue) (old now : Word) : Word :=
  if q.state = 5 then
    if old ≠ q.done then old
    else match s.queues.find? (fun x => x.state != 5 && x.asid == q.asid && x.qhdr == q.qhdr) with
      | some x => if ((s.earlierUnder q).filter (· != q)).isEmpty && (q.retire q.packets).packets.isEmpty then laterSeq now x.done else now
      | none => now
  else if (s.earlierUnder q).isEmpty then laterSeq now old
  else old
/-- COMPLETED_SEQ passes the packets at the head whose records are written, in one word with CONSUMED_SEQ (R337, R347). A
disabled queue goes on although its header is barred (R353). -/
def State.advance (s : State) (q : Queue) : State :=
  let q2 := q.retire q.packets
  let leave (s1 : State) : State :=
    if q2.state = 5 ∧ q2.packets = [] ∧ !q2.unshown then { s1 with queues := s1.queues.filter (fun x => x != q) }
    else (s1.setQueue q q2).settleQueue q.index
  if q2.packets.length = q.packets.length then s.settleQueue q.index
  else match s.readAt q.asid q.qhdr 64 .write with
    | (s1, .ok, hdr) =>
      leave (s1.headerWrite q 0x10 ((hdr.drop 0x10).take 4 ++
        toBytes 4 (s.completedSeq q (BitVec.ofNat 32 (ofBytes ((hdr.drop 0x14).take 4))) q2.done).toNat)).1
    | (s1, v, _) => match v, q.state with
      | .fault _, 5 => leave s1
      | _, _ => s1.queueStop q v q.qhdr true ((q.packets.head?.map (·.seq)).getD 0)
/-- Bytes 0 to 7 as a release, whatever its header's page; then COMPLETED_SEQ (R347, R353). -/
def State.recordLow (s : State) (q : Queue) (p : Packet) : State :=
  let at_ := q.crec + p.seq.toNat % 2 ^ q.clog2 * 16
  match s.writeAt q.asid at_ (toBytes 4 p.seq.toNat ++ toBytes 2 p.status ++ toBytes 2 (if p.opc ≤ 6 then p.opc else 0)) with
  | (s1, .ok) =>
    let q1 := q.setPacket p.seq (fun x => { x with stage := 4, kept := false, barred := false })
    ((s1.setQueue q q1).advance q1).qtSettle
  | (s1, v) => s1.recordStop q p.seq v at_

/-- A completed packet of which something is to be written now: its record, or, at the head of its queue, COMPLETED_SEQ
past it where its header's page held that up (R347, R353). -/
def State.recordDue (s : State) (q : Queue) (p : Packet) : Bool :=
  if p.stage ≤ 3 then (s.packetDone p).isSome && q.mayRecord p else (q.packets.head?).any (fun x => x.seq == p.seq)
/-- PACKET_COMPLETE (R347): bytes 8 to 15 of a completed packet's record; then bytes 0 to 7, and COMPLETED_SEQ. -/
def execPacketComplete (queue : Nat) (seq : Word) (s : State) : Out :=
  .next (match s.someQueue queue (fun q => q.packets.any (fun p => p.seq == seq && s.recordDue q p)) with
    | (_, none) => s
    | (s1, some q) =>
      match q.packets.find? (fun p => p.seq == seq && s.recordDue q p) with
      | none => s
      | some p =>
        if 4 ≤ p.stage then (s1.advance q).qtSettle
        else match s.packetDone p with
          | none => s
          | some (status, detail) => if p.stage ≤ 2 then s1.recordHigh q p status detail else s1.recordLow q p)

end Sys2Proof.Machine
end

