-- ==== Sys2Proof/Machine/Stow.lean ====
section
/-!
DEFINITION. Stowing and restoring teams (R351, R356 to R363): the triggers, what stands in a stow's way, the frames as
they are written, the re-admission, and spatial pre-emption.
-/

namespace Sys2Proof.Machine

open Sys2Proof

/-! ### Triggers (R356) -/

/-- Cycles of its core that a raft has been moored without a break; the count stands still while it is halted (R368). -/
def State.mooredFor (s : State) (r : Raft) : Nat := match r.mooredAt with
  | some m => r.mooredSum + (if r.halted then 0 else s.elapsed r.here m)
  | none => 0
/-- MOOR_LIMIT has passed for a raft (R356). -/
def State.limitHolds (s : State) (r : Raft) : Bool :=
  s.csr.moorLimit != 0 && r.mooredAt.isSome && decide (s.csr.moorLimit.toNat ≤ s.mooredFor r)
/-- A sub-raft of a raft that is not halted can issue: it waits for nothing, and its clause is not fetched or may start; or
the slot at which it waited could start now. -/
def State.canIssue (s : State) (r : Raft) : Bool :=
  !r.halted && (s.issuing r.id || r.subs.any (fun x =>
    x.2.wait == .none && (x.2.clause.isNone || s.startBlock r x.2 != .wait) || x.2.wait.polls && x.2.able))
/-- STOW_DELAY has passed for a team (R356). -/
def State.delayHolds (s : State) (t : Team) : Bool :=
  s.csr.stowDelay != 0 && !(s.raftsOf t.id).any s.canIssue &&
  (s.raftsOf t.id).any (fun r => r.mooredAt.isSome && decide (s.csr.stowDelay.toNat ≤ s.mooredFor r))
/-- The trigger of a reason holds for a team (DEDUCED, log entry 60). -/
def State.triggered (s : State) (t : Team) (reason : Nat) : Bool :=
  if reason = 1 then (s.raftsOf t.id).any s.limitHolds else s.delayHolds t

/-! ### What stands in the way (R260, R357) -/

/-- A matrix or window operation in a state that a stow may leave it in (R260): a loop with nothing but a merge into a
virtual home left, or suspended before its first step. -/
def Op.settled (o : Op) : Bool :=
  o.fault.isSome || o.cls != 0 || (match o.instr with
    | .mloop _ => (o.phase == 2 && (match (o.place 0).1 with | .virt _ => true | .tile _ => false)) ||
        (o.susp.isSome && o.phase != 2 && o.pos == 0)
    | _ => false)
/-- Every matrix and window operation of a group is in such a state. -/
def State.matrixSettled (s : State) (g : List Team) : Bool :=
  s.ops.all (fun o => o.settled || !g.any (fun t => match o.raft.bind s.raft? with | some r => r.team == t.id | none => false))
/-- Nothing of a raft goes on: it issues nothing, and its pending accesses are replay entries or wait for what others do,
none of them a store that the core's L1 alone shows (R362). -/
def State.still (s : State) (r : Raft) : Bool :=
  (r.stopping == some 6 || r.halted) && !s.issuing r.id &&
  (s.reqs.filter (fun q => q.raft == r.id)).all (fun q => q.idle || (!q.early &&
   ( q.kind == .rrot ||
    ((match q.kind with | .arrive _ _ => false | _ => true) && s.moveReq q == s))))

/-! ### Places -/

/-- A piece of tile memory on the move: from a core (or slot) and byte, so many bytes, to a core (or slot) and byte. -/
structure Move where
  src : Nat
  lo : Nat
  len : Nat
  dst : Nat
  at_ : Nat
  deriving DecidableEq, Repr

/-- Where a byte of tile memory has gone. -/
def goneTo (ms : List Move) (core off : Nat) : Nat × Nat :=
  match ms.find? (fun m => m.src == core && decide (m.lo ≤ off) && decide (off < m.lo + m.len)) with
  | some m => (m.dst, m.at_ + (off - m.lo))
  | none => (core, off)
/-- The same for a place in a space, and for a line. -/
def placeTo (ms : List Move) (sp : Space) (off : Nat) : Space × Nat := match sp with
  | .tile core => let x := goneTo ms core off; (.tile x.1, x.2)
  | .virt a => (.virt a, off)
def lineTo (ms : List Move) (x : Nat × Nat) : Nat × Nat := let y := goneTo ms x.1 (128 * x.2); (y.1, y.2 / 128)

/-- Where the range-lock entries of a team's rafts go (R94): as the core or slot that is left, and the one that is entered,
by the number of the team's core; a raft of core number i has those of its own in its entry i. -/
def tableTo (ts : List (Nat × Nat)) (i : Nat) (k : Nat) : Nat := match ts.find? (fun x => x.1 == k) with
  | some x => x.2
  | none => (ts[i]?.map (·.2)).getD k
/-- The number of the team's core that a raft belongs to (R98). -/
def coreNo (t : Team) (index : Nat) : Nat := if t.kernel.pair then index / 32 else 0
/-- A range of an operation after its team's tile memory and range-lock entries have moved: `mine` where it is an operation
of the team, with the number of its raft's core. A member's table goes with the tile memory that it guards (R89). -/
def rangeTo (ms : List Move) (ts : List (Nat × Nat)) (mine : Option Nat) (g : Range) : Range :=
  let x := placeTo ms g.space g.lo
  let port := match g.space, x.1 with
    | .tile k, .tile k' => if g.table = some k then some k' else none
    | _, _ => none
  { g with
    space := x.1, lo := x.2
    table := g.table.map (fun k => port.getD (match mine with
      | some i => tableTo ts i k
      | none => k)) }
/-- All work in flight follows tile memory to where it has gone, and a team's range-lock entries go with it (R20, R94). -/
def State.follow (s : State) (t : Team) (ms : List Move) (ts : List (Nat × Nat)) : State :=
  let no (o : Op) : Option Nat := if o.team = some t.id then some (((o.raft.bind s.raft?).map (fun r => coreNo t r.index)).getD 0) else none
  { s with
    reqs := s.reqs.map (fun q => { q with parts := q.parts.map (fun p => let x := placeTo ms p.space p.addr; { p with space := x.1, addr := x.2 }) })
    ops := s.ops.map (fun o => { o with
      places := o.places.map (fun p => placeTo ms p.1 p.2)
      ranges := o.ranges.map (rangeTo ms ts (no o))
      fills := o.fills.map (lineTo ms), marked := o.marked.map (lineTo ms) }) }
/-- The grants and held fragments of a team move, each from its core or slot to the one that takes its place (R306). -/
def State.moveGrants (s : State) (team : Nat) (ts : List (Nat × Nat)) : State :=
  let mine := (s.grants.filter (fun g => g.team == team)).map (·.id)
  { s with
    grants := s.grants.map (fun g => if g.team = team then { g with core := tableTo ts 0 g.core } else g)
    frags := s.frags.map (fun f => if mine.contains f.grant then { f with core := tableTo ts 0 f.core } else f) }

/-! ### Frames (R359 to R361) -/

/-- The header of a slot (R359) (DEDUCED, log entry 41). -/
def frameHeader (t : Team) (member core nrafts reason : Nat) (slots : List Nat) : List Byte :=
  let group := if t.kernel.ring then 2 else if t.kernel.pair then 1 else 0
  dwords [t.linear % 2 ^ 32 * 2 ^ 32 + t.lnum.toNat, nrafts * 2 ^ 48 + core * 2 ^ 40 + group * 2 ^ 32 + member * 2 ^ 30 + t.asid,
    t.kernel.addr, reason * 2 ^ 32 + t.kernel.tmemLines, total ((numbered slots).map (fun (k, x) => x * 2 ^ (16 * k)))] ++
  toBytes (0x1000 - 0x28) 0
/-- The full/empty map of an allocation (R361) (DEDUCED, log entry 61). -/
def State.fullMap (s : State) (core base lines : Nat) : List Byte :=
  (List.range 2048).map (fun j => BitVec.ofNat 8 (total ((List.range 8).map (fun b =>
    if 8 * j + b < lines ∧ !s.isEmpty core (base + 8 * j + b) then 2 ^ b else 0))))

/-- One core of a team written into its slot (R359 to R361), reserved bytes zero (R7), before the work in flight follows. The
breakpoints stand in member 0's slot alone. -/
def State.writeFrame (s : State) (t : Team) (st : Stow) (i member : Nat) (slots : List Nat) : State :=
  let at_ := s.slotAt (st.slots.getD i 0)
  let core := t.cores.getD i 0
  let base := t.bases.getD i 0
  let rafts := s.slotRafts t i
  let s0 : State := { s with pmem := sclear s.pmem (at_ + 0x440000) 0xC0000 }
  let s1 := s0.physPut at_ (frameHeader t member core rafts.length st.reason slots)
  let s2 := s1.physPut (at_ + 0x1000) (toBytes (32 * 4096) 0)
  let s3 := rafts.foldl (fun s x => s.saveRaft st i x) s2
  let s4 := s3.physPut (at_ + 0x21000) (s3.fullMap core base t.kernel.tmemLines)
  let s5 := if member = 0 then s4.physPut (at_ + 0x21800) (t.breaks.flatMap (fun b => toBytes 8 b.toNat)) else s4
  s5.physPut (at_ + 0x40000) (s5.tileGet core (128 * base) (128 * t.kernel.tmemLines))

/-- The yields of a raft stand still while it is stowed (R142). -/
def State.pauseYields (s : State) (r : Raft) : Raft :=
  { r with split := r.split.map (fun o => o.map (fun en => match en.wait with
    | .yield n since => { en with wait := .yield (n - s.elapsed r.here since) (s.cycles r.here) }
    | _ => en)) }

/-- A team and its slots written, its work in flight sent after it, and its cores freed (R362). -/
def State.stowTeam (s : State) (t : Team) (reason : Nat) (mine slots : List Nat) : State :=
  let st : Stow := ⟨mine, reason⟩
  -- HALTPC and HALTINFO as at any stop; the spec names no REASON for this one, which is a free value (DESIGN CHOICE, log entry 13)
  let (n, s0) := s.draw
  let s1 : State := { s0.mapTeamRafts t.id (fun r =>
      if r.halted then { s0.pauseYields r with landed := none } else { ((s0.pauseYields (s0.stopMooring r)).noteAt (n % 256)) with landed := none }) with
    leases := s0.leases.filter (fun l => !(s0.raftsOf t.id).any (fun r => r.id == l.raft)) }
  let s2 := (List.range t.cores.length).foldl (fun s i => s.writeFrame t st i (if t.kernel.ring then t.member else i) slots) s1
  let ts := (numbered t.cores).map (fun (i, c) => (c, 256 + mine.getD i 0))
  let s3 := s2.follow t ((numbered t.cores).map (fun (i, c) =>
    ⟨c, 128 * t.bases.getD i 0, 128 * t.kernel.tmemLines, 256 + mine.getD i 0, 0⟩)) ts
  ((s3.moveGrants t.id ts).mapTeamRafts t.id (fun r => { r with stopping := none, skid := 0 })).setTeam
    { t with stowed := some st, stowing := none, stowTry := none }

/-! ### Stowing a group -/

/-- A stow given up: the rafts that it stopped go on, and its team may be struck again, not having been stowed (R351). -/
def State.unstow (s : State) (g : List Team) : State :=
  g.foldl (fun s t =>
    (s.mapTeamRafts t.id (fun r => if r.stopping = some 6 then { r with stopping := none, skid := 0 } else r)).setTeam
      { t with stowing := none }) { s with struck := s.struck.filter (fun x => !g.any (fun t => t.id == x.2.2)) }

/-- The frame slots kept for the victims of pre-emption that are yet to be stowed, other than a group (R357). -/
def State.slotsKept (s : State) (g : List Team) : Nat :=
  (coresOf (s.teams.filter (fun t => t.stowing == some 3 && t.stowed.isNone && !g.any (fun x => x.id == t.id)))).length
/-- Too few frame slots are free for a group. -/
def State.slotsLack (s : State) (g : List Team) : Bool := decide (s.freeSlots.length < (coresOf g).length + s.slotsKept g)

/-- A stow begins: every raft of the group stops (R362, step 1). Too few slots make it fail (R357). -/
def State.beginStow (s : State) (t : Team) (reason : Nat) : State :=
  let g := s.groupOf t
  if !(s.quietGroup g && s.matrixSettled g) then s
  else if s.slotsLack g then
    ({ s with csr := { s.csr with stowFail := s.csr.stowFail + 1 } } : State).setTeam { t with stowTry := some (reason, s.clock, s.cycles (t.cores.headD 0)) }
  else (g.foldl (fun s x => s.setTeam { x with stowing := some reason, stowTry := none }) s).stopGroup (g.map (·.id))

/-- A stow that has begun is made once nothing of the group goes on (R362). A halt or a trap that has come in between
ends it; the slots are counted anew. -/
def State.goOnStow (s : State) (t : Team) : State :=
  match t.stowing with
  | none => s
  | some reason =>
    let g := s.groupOf t
    let rafts := g.flatMap (fun x => s.raftsOf x.id)
    if g.any (fun x => x.dying.isSome && !x.ended || s.haltedTeam x) || rafts.any (fun r => !r.halted && r.stopping != some 6) then s.unstow g
    else if !(rafts.all s.still && s.matrixSettled g) then s
    else if s.slotsLack g then
      (({ s with csr := { s.csr with stowFail := s.csr.stowFail + 1 } } : State).unstow g).mapTeam t.id
        (fun x => { x with stowTry := if reason = 3 then none else some (reason, s.clock, s.cycles (t.cores.headD 0)) })
    else
      let slots := s.freeSlots.take (coresOf g).length
      let s1 := (g.foldl (fun (acc : State × Nat) x =>
        (acc.1.stowTeam x reason ((slots.drop acc.2).take x.cores.length) slots, acc.2 + x.cores.length)) (s, 0)).1
      { s1 with csr := { s1.csr with stows := s1.csr.stows + 1 } }

/-- A trigger's step: the stow begins, or goes on. -/
def State.stowFor (s : State) (t : Team) (reason : Nat) : State :=
  if t.stowing.isSome then (if t.stowing = some reason then s.goOnStow t else s)
  else if t.stowTry.isSome || !s.triggered t reason then s
  else s.beginStow t reason

/-- MOOR_LIMIT_EXPIRY (R356). -/
def execMoorLimitExpiry (raft : Nat) (s : State) : Out :=
  .next (match s.raft? raft with
    | none => s
    | some r =>
      match s.team? r.team with
      | some t => if t.stowing.isSome || s.limitHolds r then s.stowFor t 1 else s
      | none => s)
/-- STOW_DELAY_EXPIRY (R356). -/
def execStowDelayExpiry (team : Nat) (s : State) : Out :=
  .next (match s.team? team with
    | some t => s.stowFor t 2
    | none => s)

/-- STOW_RETRY: a stow that failed is tried again while its trigger holds, when slots have been freed since or 65,536
cycles of the core have passed (R357); one whose trigger holds no more is forgotten. -/
def execStowRetry (team : Nat) (s : State) : Out :=
  .next (match s.team? team with
    | none => s
    | some t =>
      match t.stowTry with
      | none =>
        -- a victim whose packet has gone is stowed all the same
        if t.stowing = some 3 && !s.struck.any (fun x => x.2.2 == t.id && s.wants x.1 x.2.1) then s.goOnStow t else s
      | some (reason, since, cycles) =>
        if !s.triggered t reason then s.setTeam { t with stowTry := none }
        else if decide (since < s.slotsFreed) || decide (65536 ≤ s.elapsed (t.cores.headD 0) cycles) then
          s.beginStow { t with stowTry := none } reason
        else s)

/-! ### Restoring (R94, R142, R363) -/

/-- The addresses that a restored group's barriers and WAITMEMs name can be read again. -/
def State.barriersReady (s : State) (g : List Team) : Bool :=
  g.all (fun t => (s.raftsOf t.id).all (fun r => r.subs.all (fun x => match x.2.wait with
    | .barrier va (some _) => !s.absent t.asid va && !s.held t.asid va
    | _ => !s.wordWaits r x.1 t.asid)))

/-- A barrier's waiter bit set for a core (R142). -/
def State.setWaiter (s : State) (asid va core : Nat) : State :=
  match s.readAt asid va 64 .write with
  | (s1, .ok, bytes) =>
    let b := Barrier.ofBytes bytes
    (s1.writeAt asid va (({ b with waiters := Nat.lor b.waiters (2 ^ core) } : Barrier).into bytes)).1
  | (s1, _, _) => s1

/-- What a sub-raft makes again before its team issues (R142). -/
def State.remake (s : State) (t : Team) (r : Raft) (e : Nat) (en : Entry) : State :=
  match en.wait with
  | .barrier va (some _) =>
    -- a halted raft reads GEN when it goes on
    let s0 := if r.halted then s.sendWakes t.asid va [r.core] else s
    let s1 := (s0.rereadBarrier r.id e t.asid).1
    match (s1.raft? r.id).bind (fun x => x.entry? e) with
    | some en' => if en'.wait = en.wait then s1.setWaiter t.asid va r.core else s1
    | none => s1
  | .mem _ _ _ _ _ _ => if r.halted then s else s.rereadWord r.id e t.asid
  | .yield n _ => s.mapEntry r.id e (fun x => { x with wait := .yield n (s.cycles r.here) })
  -- of requests made again at one time the lower raft is granted first (DESIGN CHOICE, log entry 112)
  | .quota n _ => s.mapEntry r.id e (fun x => { x with wait := .quota n s.clock })
  | _ => s
def State.remakeAll (s : State) (t : Team) : State :=
  (s.raftsOf t.id).foldl (fun s r => r.subs.foldl (fun s x => s.remake t r x.1 x.2) s) s
/-- The words waited on, read once more when the replay list has been performed (R142, R363). -/
def State.rereadAll (s : State) (t : Team) : State :=
  (s.raftsOf t.id).foldl (fun s r => if r.halted then s else r.subs.foldl (fun s x => s.rereadWord r.id x.1 t.asid) s) s

/-- One team loaded from its slots onto cores (R363). -/
def State.loadTeam (s : State) (t : Team) (st : Stow) (place : List (Nat × Nat)) : State :=
  let n := t.kernel.tmemLines
  let s1 := (numbered place).foldl (fun (s : State) (i, c, base) =>
    let k := 256 + st.slots.getD i 0
    { s with
      tile := ssets s.tile (tileKey c (128 * base)) (s.tileGet k 0 (128 * n))
      empty := ssets s.empty (lineKey c base) ((List.range n).map (fun j => if s.isEmpty k j then 1#1 else 0#1)) }) s
  let ts := (numbered place).map (fun (i, c, _) => (256 + st.slots.getD i 0, c))
  let s2 := s1.follow t ((numbered place).map (fun (i, c, base) => ⟨256 + st.slots.getD i 0, 0, 128 * n, c, 128 * base⟩)) ts
  let cores := place.map (·.1)
  let coreOf (r : Raft) := cores.getD (coreNo t r.index) 0
  let mine (x : Option Nat) : Option Raft := x.bind (fun rid => (s.raftsOf t.id).find? (fun r => r.id == rid))
  let s3 : State := { s2 with
    ops := s2.ops.map (fun o => match mine o.raft with
      | some r => if o.susp.isSome then { o with core := coreOf r } else o
      | none => o)
    reqs := s2.reqs.map (fun q => match mine (some q.raft) with
      | some r => { q with core := coreOf r }
      | none => q)
    l1 := s2.l1.filter (fun x => !(cores.contains x.core && x.asid == t.asid)) }
  ((s3.mapTeamRafts t.id (fun r => { r with core := coreOf r })).moveGrants t.id ts).setTeam
    { t with cores := cores, bases := place.map (·.2), stowed := none }

/-- RESTORE (R94, R142, R363): the whole group is placed on its die and loaded, the re-reads made, and each raft's replay
list performed. -/
def execRestore (team : Nat) (s : State) : Out :=
  .next (match s.team? team with
    | none => s
    | some t =>
      let g := s.groupOf t
      let rafts := g.flatMap (fun x => s.raftsOf x.id)
      let die := (t.cores.headD 0) / 32
      if !g.all (fun x => x.stowed.isSome && (x.dying.isNone || x.ended)) || s.down.contains die || !(rafts.all (fun r => s.replayReady r.id)) ||
          !s.barriersReady g then s
      else
        match leastByKeys (fun (p : List (Nat × Nat)) => s.placeKeys t.asid [] (fun _ => false) (p.map (·.1)))
            (s.placesFor t.kernel g.length [die] (fun c => s.reservedElse 65536 0 c)) with
        | none => s
        | some place =>
          let s1 := (numbered g).foldl (fun (s : State) (i, x) => match x.stowed with
            | some st => s.loadTeam x st (if t.kernel.ring then (place.drop i).take 1 else place)
            | none => s) s
          let s2 := g.foldl (fun s x => if x.stowed.isSome then s.remakeAll x else s) s1
          let s3 := g.foldl (fun s x => if x.stowed.isSome then s.rereadAll x else s) (rafts.foldl (fun s r => s.readmit r.id t.asid) s2)
          { s3 with csr := { s3.csr with restores := s3.csr.restores + 1 }, slotsFreed := s.clock })

/-! ### Spatial pre-emption (R351) -/

/-- The idle cores that a packet finds, reserved for it. -/
def State.reserve (s : State) (q : Queue) (p : Packet) : State :=
  let have_ := (s.reserved.filter (fun x => x.1 == q.index && x.2.1 == p.seq.toNat && s.idleCore x.2.2)).map (·.2.2)
  let more := ((s.freeFor q p).filter (fun c => !have_.contains c)).take (p.vacate - have_.length)
  { s with reserved := s.reserved.filter (fun x => s.wants x.1 x.2.1) ++ more.map (fun c => (q.index, p.seq.toNat, c)) }

/-- SPATIAL_PREEMPTION (R351): a packet's victims are chosen and struck, or a victim's stow goes on; the cores that are
free are reserved for the launch. -/
def execSpatialPreemption (queue : Nat) (s : State) : Out :=
  .next (match s.queueWith queue (fun q => q.state == 2) with
    | none => s
    | some q =>
      match s.nextPacket q.packets with
      | none => s
      | some p =>
        if p.opc != 1 || p.vacate == 0 then s
        else if s.striking q p then
          let s1 := (s.teams.filter (fun t => t.stowing == some 3 && s.struck.contains (queue, p.seq.toNat, t.id))).foldl
            (fun s t => match s.team? t.id with
              | some t' => s.goOnStow t'
              | none => s) s
          s1.reserve q p
        else
          match s.choice q p with
          | none => s
          | some vs =>
            if !vs.all s.matrixSettled then s
            else
              let s1 : State := { s with
                struck := s.struck.filter (fun x => s.wants x.1 x.2.1) ++ vs.flatten.map (fun t => (queue, p.seq.toNat, t.id)) }
              (vs.foldl (fun s g => (g.foldl (fun s x => s.mapTeam x.id (fun y => { y with stowing := some 3, stowTry := none })) s).stopGroup
                (g.map (·.id))) s1).reserve q p)

end Sys2Proof.Machine
end

