-- ==== Sys2Proof/Machine/Debug.lean ====
section
/-!
DEFINITION. The instructions of chapter 13: TRAPI and BKPT, the control registers, the debug port, WATCH, KILL and MBOX.
-/

namespace Sys2Proof.Machine

open Sys2Proof

/-! ### TRAPI and BKPT (R384) -/

/-- The sub-raft past its instruction, off the quadrant: the instruction is complete (R364, R384). -/
def State.pastSlot (s : State) (c : Ctx) : State :=
  (s.mapRaft c.r.id (fun r => ({ r with skid := if r.stopping.isSome then r.skid + 1 else r.skid } : Raft).endClause c.e none s.clock)).unrun
    c.r.id c.e
/-- Where the sub-raft goes on. -/
def State.resumePc (s : State) (c : Ctx) : DWord := (((s.raft? c.r.id).bind (fun r => r.entry? c.e)).map (·.pc)).getD c.cl.nextPc

/-- A completed instruction raises a cause at the slot after it, with IMM24 in AUX. -/
def trapAfter (s : State) (c : Ctx) (cause : Nat) (imm : BitVec 24) : Res :=
  let s1 := s.pastSlot c
  .stop (s1.takeTrap c.r.id (some c.e)
    ⟨cause, 0, s1.resumePc c, 0, c.active, detailOf c.cl.pc imm.toNat c.en.slot (opOf c.word).toNat 0 c.word⟩)

/-- TRAPI (R384). -/
def execTrapi (f : CF) (s : State) : Out := issue (.trapi f) s (fun s1 c => trapAfter s1 c 39 f.off)
/-- BKPT (R384): a trap, or under DEBUG a stop with its BREAK report. -/
def execBkpt (f : CF) (s : State) : Out :=
  issue (.bkpt f) s (fun s1 c =>
    if s1.policyOf c.t != 2 then trapAfter s1 c 40 f.off
    else
      let s2 := s1.report c.t.asid
        (reportBytes (trefOf c.t c.r.index) 2 0 c.en.slot false c.cl.pc.toNat c.active.toNat 0 (4 + f.off.toNat * 2 ^ 16))
      .stop (((s2.pastSlot c).stopTeam c.t.id 2).settleStop c.r.id))

/-! ### Control registers (R385, R386) -/

/-- A register of R386 as it reads: its width is 64 bits (or a counter's 48), its value, and whether it may be written;
none where the number is unassigned. -/
def State.csrGet (s : State) (core num : Nat) : Option (Bool × Nat × Bool) :=
  match num with
  | 0x000 => some (false, s.csr.srseed.toNat, true)
  | 0x001 => some (false, s.csr.moorLimit.toNat, true)
  | 0x002 => some (false, s.csr.stowDelay.toNat, true)
  | 0x003 => some (true, s.csr.ttBase.toNat, true)
  | 0x004 => some (true, s.csr.stowBase.toNat, true)
  | 0x005 => some (false, s.csr.stowSlots.toNat, true)
  | 0x006 => some (true, s.csr.fqBase.toNat, true)
  | 0x007 => some (false, s.csr.fqCtl.toNat, true)
  | 0x008 => some (true, s.csr.fqHead.toNat, false)
  | 0x009 => some (true, s.csr.fqTail.toNat, true)
  | 0x010 => some (true, s.csr.trapDrop.toNat, true)
  | 0x011 => some (true, s.csr.reportDrop.toNat, true)
  | 0x012 => some (true, s.csr.stows.toNat, true)
  | 0x013 => some (true, s.csr.restores.toNat, true)
  | 0x014 => some (true, s.csr.stowFail.toNat, true)
  | 0x100 => some (true, (sget s.prefDrop core).toNat, true)
  | n => if 0x180 ≤ n ∧ n ≤ 0x188 then some (true, (s.dieCounter (core / 32) (n - 0x180)).toNat, true) else none

/-- A value with its low bits zero. -/
def zeroLow (x n : Nat) : Nat := x / 2 ^ n * 2 ^ n
/-- A ring's LOG2 register takes a value of 4 to 16 with no other bit (R386, R401); another write is refused. -/
def ringCtlOk (x : Nat) : Bool := decide (4 ≤ x) && decide (x ≤ 16)
/-- STOW_SLOTS as written (R386). -/
def slotsValue (x : Nat) : Nat := min x 4096

/-- A die's counter written: its banks then sum to the value, which stands in the first of them (R274, R386) (DESIGN CHOICE,
log entry 104). -/
def State.putDieCounter (s : State) (die ctr : Nat) (x : BitVec 48) : State :=
  { s with bankCtr := sset ((List.range 32).foldl (fun m b => sset m (ctrKey die b ctr) 0) s.bankCtr) (ctrKey die 0 ctr) x }
/-- A write of a register of R386; read-only and unassigned numbers take none. -/
def State.csrPut (s : State) (core num x : Nat) : State :=
  let w : Word := BitVec.ofNat 32 x
  let ctr : BitVec 48 := BitVec.ofNat 48 x
  match num with
  | 0x000 => { s with csr := { s.csr with srseed := w } }
  | 0x001 => { s with csr := { s.csr with moorLimit := w } }
  | 0x002 => { s with csr := { s.csr with stowDelay := w } }
  | 0x003 => { s with csr := { s.csr with ttBase := BitVec.ofNat 64 (zeroLow x 20) } }
  | 0x004 => { s with csr := { s.csr with stowBase := BitVec.ofNat 64 (zeroLow x 21) } }
  | 0x005 => { s with csr := { s.csr with stowSlots := BitVec.ofNat 32 (slotsValue w.toNat) } }
  | 0x006 => { s with csr := { s.csr with fqBase := BitVec.ofNat 64 (zeroLow x 12) } }
  | 0x007 => if ringCtlOk w.toNat then { s with csr := { s.csr with fqCtl := w } } else s
  | 0x009 => { s with csr := { s.csr with fqTail := BitVec.ofNat 64 x } }
  | 0x010 => { s with csr := { s.csr with trapDrop := ctr } }
  | 0x011 => { s with csr := { s.csr with reportDrop := ctr } }
  | 0x012 => { s with csr := { s.csr with stows := ctr } }
  | 0x013 => { s with csr := { s.csr with restores := ctr } }
  | 0x014 => { s with csr := { s.csr with stowFail := ctr } }
  | 0x100 => { s with prefDrop := sset s.prefDrop core ctr }
  | n => if 0x180 ≤ n ∧ n ≤ 0x188 then s.putDieCounter (core / 32) (n - 0x180) ctr else s

/-- The core that an access names (R385). -/
def Ctx.csrCore (c : Ctx) (f : CF) : Nat := if f.off.getLsbD 20 then field f.off.toNat 19 12 else c.r.here

/-- CSRR (R385). -/
def execCsrr (f : CF) (s : State) : Out :=
  issue (.csrr f) s (fun s1 c =>
    match s1.csrGet (c.csrCore f) (field f.off.toNat 11 0) with
    | none => .trap 1 c.active 0 0
    | some (wide, x, _) =>
      if wide != f.fn.getLsbD 0 then .trap 1 c.active 0 0 else .done (c.put s1 f.d (fun _ => wordsW wide x)) .next)
/-- CSRW (R385). -/
def execCsrw (f : CF) (s : State) : Out :=
  issue (.csrw f) s (fun s1 c =>
    let num := field f.off.toNat 11 0
    match s1.csrGet (c.csrCore f) num with
    | none => .trap 1 c.active 0 0
    | some (wide, _, rw) =>
      if wide != f.fn.getLsbD 0 || !rw then .trap 1 c.active 0 0
      else .done (s1.csrPut (c.csrCore f) num (if wide then (c.sval64 f.a).toNat else (c.sval f.a).toNat)) .next)

/-! ### The debug port (R375, R380 to R382, R387, R388) -/

/-- What a TREF names (R375): a team, and one of its rafts, the lowest live one where ALL is set (DEDUCED, log entry 65). -/
def State.trefTarget (s : State) (tref : Nat) : Option (Team × Raft) :=
  if bit tref 62 then none
  else
    match s.teams.find? (fun t => !t.ended && t.cores.headD 256 == field tref 55 48 && t.lnum.toNat % 2 ^ 16 == field tref 47 32 &&
        t.linear == field tref 31 0) with
    | none => none
    | some t =>
      let rs := s.raftsOf t.id
      ((if bit tref 63 then leastBy (fun (r : Raft) => r.index) rs else rs.find? (fun r => r.index == field tref 61 56))).map (fun r => (t, r))

/-- A debug instruction returns: its acquire, and its status (R382). -/
def Ctx.debugDone (c : Ctx) (s : State) (f : CF) (status : Nat) : Res :=
  .done (c.put (s.acquireDrop c.r c.t.asid 4 0xFF) f.d (fun _ => words1 status)) .next

/-- The operation that an issuing sub-raft waits for. -/
def State.myDebug (s : State) (c : Ctx) : Option DebugOp := s.debugs.find? (fun d => d.raft == c.r.id && d.ent == c.e)
/-- A debug operation begins, and has its effect as far as that can come at once; the instruction stays at its slot. -/
def State.beginDebug (s : State) (c : Ctx) (kind team : Nat) (target : Option Nat) (effect : State → State) : Res :=
  let d : DebugOp := ⟨c.r.id, c.e, kind, team, target, none⟩
  .stay ((effect { s with debugs := s.debugs ++ [d] }).conclude team)

/-- A debug instruction on a raft or team (R382, R387): the release; an operation that it has begun goes on; the checks
that the six share; then its own work. `policies` is the set of policies it is admitted under (DEDUCED, log entry 64). -/
def debugIssue (i : Instr) (f : CF) (policies : List Nat) (stowedToo : Bool) (s : State)
    (work : State → Ctx → Nat → Team → Raft → Res) : Out :=
  issue i s (fun s1 c =>
    match s1.myDebug c with
    | some d =>
      match d.status with
      | none => .stay s1
      | some st => c.debugDone { s1 with debugs := s1.debugs.filter (fun x => x != d) } f st
    | none =>
      (worst (s1.releaseWork c.r.id 0xFF)).orElse s1 (
        let w := c.swords f.a 8
        let tref := (c.sval64 f.a).toNat
        if w.getD 3 0 != 0 || w.getD 6 0 != 0 || w.getD 7 0 != 0 then c.debugDone s1 f 5
        else
          match s1.trefTarget tref with
          | none => c.debugDone s1 f 1
          | some (t, r) =>
            if s1.debugs.any (fun d => d.team == t.id && d.status.isNone) then c.debugDone s1 f 4
            else if t.stowed.isSome && !stowedToo then c.debugDone s1 f 6
            else if !policies.contains (s1.policyOf t) then c.debugDone s1 f 2
            else work s1 c tref t r))

/-- Every live raft of a team is halted (R380). -/
def State.teamHalted (s : State) (t : Team) : Bool := (s.raftsOf t.id).all (·.halted)
/-- The target of an operation is halted. -/
def State.targetHalted (s : State) (tref : Nat) (t : Team) (r : Raft) : Bool := if bit tref 63 then s.teamHalted t else r.halted

/-- DBGHALT (R380). -/
def execDbghalt (f : CF) (s : State) : Out :=
  debugIssue (.dbghalt f) f [2] false s (fun s1 c tref t r =>
    s1.beginDebug c 0 t.id (if bit tref 63 then none else some r.id) (fun s2 =>
      if bit tref 63 then s2.stopTeam t.id 4 else s2.stopRaft r.id 4))

/-- DBGRES: the return from a trap or halt (R380). -/
def execDbgres (f : CF) (s : State) : Out :=
  debugIssue (.dbgres f) f [1, 2] false s (fun s1 c tref t r =>
    if !s1.targetHalted tref t r then c.debugDone s1 f 3
    else
      c.debugDone (if bit tref 63 then ((s1.raftsOf t.id).map (·.id)).foldl State.resumeRaft s1 else s1.resumeRaft r.id) f 0)

/-- The sub-raft that a step runs is let go (R381). -/
def State.letStep (s : State) (t : Team) (r : Raft) (e : Nat) (en : Entry) : State :=
  let wait := match en.wait with
    | .empty | .spindle => Wait.none
    | w => w
  ((s.mapTeam t.id (fun x => { x with stepping := some ⟨r.id, e, en.pc, en.mask, false, false⟩ })).mapRaft r.id (fun x =>
    { ((x.setEntry e (some { en with wait := wait })).turnAges s.clock) with halted := false, stopping := some 5, skid := 0 })).settleStop r.id
/-- DBGSTEP (R381). -/
def execDbgstep (f : CF) (s : State) : Out :=
  debugIssue (.dbgstep f) f [2] false s (fun s1 c tref t r =>
    if bit tref 63 then c.debugDone s1 f 5
    else if !s1.teamHalted t then c.debugDone s1 f 3
    else
      match r.subs with
      | [] =>
        c.debugDone (s1.report t.asid (reportBytes (trefOf t r.index) 6 0 0 false r.haltPc.toNat 0 0 0)) f 7
      | (e, en) :: _ => s1.beginDebug c 1 t.id (some r.id) (fun s2 => s2.letStep t r e en))

/-- KILL (R374, R387). -/
def execKill (f : CF) (s : State) : Out :=
  debugIssue (.kill f) f [0, 1, 2] true s (fun s1 c _ t _ =>
    s1.beginDebug c 2 t.id none (fun s2 =>
      ((s2.mapTeam t.id (fun x => { x with dying := some (x.dying.getD 42) })).stopTeam t.id 1).settleTeam t.id))

/-- SEL's item, where it names one that may be read (R388). -/
def State.selRead (s : State) (t : Team) (r : Raft) (sel : Nat) : Option Nat :=
  let ent (k : Nat) (g : Entry → Nat) : Option Nat := some (((r.entry? k).map g).getD 0)
  match sel / 2 ^ 28 with
  | 0 =>
    if field sel 21 9 = 0 ∧ field sel 8 0 < r.count ∧ field sel 27 22 < r.width then some (r.vreg (field sel 8 0) (field sel 27 22)).toNat else none
  | 1 => if field sel 27 6 = 0 then some (r.sreg (field sel 5 0)).toNat else none
  | 2 => if field sel 27 3 = 0 then some (r.preg (field sel 2 0)).toNat else none
  | 3 =>
    if field sel 27 4 ≠ 0 then none
    else
      match field sel 3 0 with
      | 8 => some r.live.toNat
      | 9 => some r.haltPc.toNat
      | 10 => some r.haltInfo.toNat
      | 11 => some (r.stack.length + r.joins.length * 2 ^ 8 + r.count * 2 ^ 16)
      | k => if k < 4 then ent k (·.pc.toNat) else if k < 8 then ent (k - 4) (·.mask.toNat) else none
  | 4 => if field sel 27 2 = 0 then some (t.breaks.getD (field sel 1 0) 0).toNat else none
  | 5 =>
    match s.ownTile t r with
    | some (core, base) =>
      if field sel 27 18 = 0 ∧ 8 * field sel 17 0 + 8 ≤ t.tileBytes then some (ofBytes (s.tileGet core (base + 8 * field sel 17 0) 8)) else none
    | none => none
  | _ => none

/-- The PC of a split entry written: the sub-raft resumes at slot 0 there; a wait that it held is abandoned, but for a
mooring on its raft's replay list (R388) (DEDUCED, log entry 66). -/
def State.writePc (s : State) (r : Raft) (e : Nat) (en : Entry) (pc : DWord) : State :=
  let wait := if en.wait.isMoored && s.replayEntries r.id != 0 then Wait.moored none else .none
  let s1 := (s.mapEntry r.id e (fun x => { (x.goto pc s.clock) with wait := wait })).markMoored r.id
  { s1 with
    reqs := s1.reqs.map (fun q => match q.kind with
      | .arrive txb ent => if q.raft = r.id ∧ ent = some e then { q with kind := .arrive txb none, dest := none } else q
      | _ => q)
    debugs := s1.debugs.filter (fun d => !(d.raft == r.id && d.ent == e)) }

/-- SEL's item written (R388); none where it may not be. -/
def State.selWrite (s : State) (t : Team) (r : Raft) (sel : Nat) (data : DWord) : Option State :=
  let w : Word := BitVec.ofNat 32 data.toNat
  match s.selRead t r sel, sel / 2 ^ 28 with
  | some _, 0 => some (s.mapRaft r.id (fun x => x.setV (field sel 8 0) (field sel 27 22) w))
  | some _, 1 => some (s.mapRaft r.id (fun x => x.setS (field sel 5 0) w))
  | some _, 2 => some (s.mapRaft r.id (fun x => x.setP (field sel 2 0) (fullMask r.width) data))
  | some _, 3 =>
    if 4 ≤ field sel 3 0 ∨ !canonical data.toNat ∨ data.toNat % 8 ≠ 0 then none
    else (r.entry? (field sel 3 0)).map (fun en => s.writePc r (field sel 3 0) en data)
  | some _, 4 => some (s.mapTeam t.id (fun x => { x with breaks := setAt x.breaks (field sel 1 0) data }))
  | some _, 5 => (s.ownTile t r).map (fun p => s.tilePut p.1 (p.2 + 8 * field sel 17 0) (toBytes 8 data.toNat))
  | _, _ => none

/-- DBGRD (R388). -/
def execDbgrd (f : CF) (s : State) : Out :=
  debugIssue (.dbgrd f) f [1, 2] false s (fun s1 c _ t r =>
    let sel := (c.sval (f.a + 2)).toNat
    if sel / 2 ^ 28 < 4 ∧ !r.halted then c.debugDone s1 f 3
    else
      match s1.selRead t r sel with
      | none => c.debugDone s1 f 5
      | some x => c.debugDone (c.put s1 (f.a + 4) (fun _ => words2 x)) f 0)
/-- DBGWR (R388). -/
def execDbgwr (f : CF) (s : State) : Out :=
  debugIssue (.dbgwr f) f [1, 2] false s (fun s1 c _ t r =>
    let sel := (c.sval (f.a + 2)).toNat
    if sel / 2 ^ 28 < 4 ∧ !r.halted then c.debugDone s1 f 3
    else
      match s1.selWrite t r sel (c.sval64 (f.a + 4)) with
      | none => c.debugDone s1 f 5
      | some s2 => c.debugDone s2 f 0)

/-! ### WATCH and MBOX (R389, R390) -/

/-- A watchpoint written, or cleared (R389). -/
def State.setPoint (s : State) (core n : Nat) (p : WatchPoint) : State :=
  let rest := s.points.filter (fun x => x.1 != 4 * core + n)
  { s with points := if p.enable then (4 * core + n, p) :: rest else rest }
/-- WATCH (R389). -/
def execWatch (f : CF) (s : State) : Out :=
  issue (.watch f) s (fun s1 c =>
    (worst (s1.releaseWork c.r.id 0xFF)).orElse s1 (
      let w := c.swords f.a 8
      let x := (w.getD 0 0).toNat
      let g := (w.getD 1 0).toNat
      if field x 31 14 ≠ 0 ∨ g % 8 ≠ 0 ∨ 2 ^ 21 ≤ g ∨ (w.drop 2).any (· != 0) then c.debugDone s1 f 5
      else c.debugDone (s1.setPoint (field x 7 0) (field x 9 8) ⟨bit x 10, bit x 11, bit x 12, bit x 13, g / 8⟩) f 0))

/-- MBOX (R390). -/
def execMbox (f : CF) (s : State) : Out :=
  issue (.mbox f) s (fun s1 c =>
    let mbox := (c.sval64 f.a).toNat
    if !canonical mbox then .trap 5 c.active mbox 0
    else if mbox % 64 ≠ 0 then .trap 7 c.active mbox 0
    else
      (worst (s1.releaseWork c.r.id 0xFF)).orElse s1 (
        match s1.postMail c.t.asid mbox ((c.swords f.d 15).flatMap (fun w => toBytes 4 w.toNat)) with
        | (s2, 3) => .stall s2 .slot
        | (s2, k) => .done (c.put s2 (f.d + 15) (fun _ => words1 k)) .next))

end Sys2Proof.Machine
end

