-- ==== Sys2Proof/Machine/Crossings.lean ====
section
/-!
DEFINITION. Chapter 14: MIGRATE and landing slots, the flits of the die links, and the peer ports.
-/

namespace Sys2Proof.Machine

open Sys2Proof

/-! ### MIGRATE (R395 to R397) -/

/-- The die that a raft sits on. -/
def Raft.die (r : Raft) : Nat := r.here / 32

/-- A raft that is to move waits at its slot, and the other sub-rafts of it stop (R396). -/
def migrateTo (c : Ctx) (s : State) (die : Nat) : Res :=
  if c.r.die = die then .done s .next else .stall s (.migrate die none)

/-- MIGRATE (R396). -/
def execMigrate (f : CF) (s : State) : Out :=
  issue (.migrate f) s (fun s1 c =>
    let va := (c.sval64 f.a).toNat
    let die := s1.homeOf c.t.asid va
    if !canonical va || die == 8 then .trap 5 c.active va 0 else migrateTo c s1 die)
/-- MIGRATE.home (R396). -/
def execMigrateHome (f : CF) (s : State) : Out := issue (.migrateHome f) s (fun s1 c => migrateTo c s1 (c.r.core / 32))

/-- An operation that fills tile memory, and writes nothing else: neither virtual memory nor a peer, and none of its raft's
registers. -/
def Op.fillsTile (o : Op) : Bool := o.dest.isNone && o.ranges.any (fun g => g.write) && o.ranges.all (fun g => !g.write || (match g.space with
  | .tile _ => true
  | .virt _ => false))
/-- What a raft's move waits for (R94, R396): its sub-rafts off the quadrants, its pending register writes, the read
locks on its registers, and what a release with mask 0xFF covers, but for operations that go on filling its team's tile
memory while it is away, as R397 allows (DEDUCED, log entry 99). -/
def State.moveBlock (s : State) (r : Raft) : Block :=
  if s.issuing r.id then .wait
  else
    worst ((s.reqs.filter (fun q => q.raft == r.id)).map Req.block ++
      ((s.ops.filter (fun o => o.raft == some r.id)).map (fun o => match s.opBlock o with
        | .wait => if o.fillsTile && o.locks.isEmpty then Block.free else .wait
        | x => x)) ++
      (if s.ops.any (fun o => o.locks.any (fun x => x.1 == r.id)) then [.wait] else []))

/-- The landing slots of a core in use, of two (R396). -/
def State.landedOn (s : State) (core : Nat) : Nat := (s.rafts.filter (fun r => r.landed == some core)).length
/-- A landing slot is free for a raft (R396). -/
def State.landingFree (s : State) (r : Raft) (core : Nat) : Bool :=
  let live := (s.teamsOn core).filter (fun x => !x.1.ended)
  decide (s.landedOn core < 2) &&
  decide (total (live.map (fun x => x.1.kernel.fileBytes x.2 r.quad)) + s.landedBytes core r.quad + r.count * r.width * 4 ≤ 524288)
/-- The core of a die that a raft lands on: the cluster of most headroom, then the lowest core. -/
def State.landingOn (s : State) (r : Raft) (die : Nat) : Option Nat :=
  leastByKeys (fun c => [255 - ((s.clusters[c / 4]?).map (·.headroom.toNat)).getD 255, c])
    ((span (32 * die) 32).filter (s.landingFree r))
/-- The MIGRATE that a raft waits at: its entry, the die, and since when it has waited for a landing slot. -/
def Raft.migration (r : Raft) : Option (Nat × Nat × Option Nat) :=
  (r.subs.filterMap (fun x => match x.2.wait with
    | .migrate die ready => some (x.1, die, ready)
    | _ => none)).head?
/-- Times that count in the cycles of a raft's core, as the cycles of another: a YIELD has waited as long, a WAITMEM polls
as long, and a mooring has lasted as long (R132, R140, R356, R396). -/
def State.retime (s : State) (r : Raft) (core : Nat) (t : Nat) : Nat := s.cycles core - s.elapsed r.here t
def State.retimed (s : State) (r : Raft) (core : Nat) : Raft :=
  { r with
    split := r.split.map (fun x => x.map (fun en => { en with wait := match en.wait with
      | .yield n since => .yield (n - s.elapsed r.here since) (s.cycles core)
      | .mem va k cond value scope since => .mem va k cond value scope (s.retime r core since)
      | .mooredIn x (.mem va k cond value scope since) => .mooredIn x (.mem va k cond value scope (s.retime r core since))
      | w => w }))
    mooredSum := r.mooredSum + (match r.mooredAt with
      | some m => s.elapsed r.here m
      | none => 0)
    mooredAt := r.mooredAt.map (fun _ => s.cycles core) }

/-- The context shipped: the raft sits on its new core, and the issuing sub-raft goes on with the next clause (R396). -/
def State.ship (s : State) (r : Raft) (e asid : Nat) (landed : Option Nat) : State :=
  let r1 := { s.retimed r (landed.getD r.core) with landed := landed }
  ((s.setRaft r1).acquireDrop r1 asid 4 0xFF).passWait r.id e

/-- A raft ready for its landing slot waits for it from now on, its lease forfeit (R396). -/
def State.awaitLanding (s : State) (r : Raft) (e die : Nat) : State :=
  { s.mapEntry r.id e (fun en => { en with wait := .migrate die (some s.clock) }) with leases := s.leases.filter (fun l => l.raft != r.id) }
/-- Another raft has waited longer for a landing slot of a die (R396). -/
def State.landsLater (s : State) (r : Raft) (die since : Nat) : Bool := s.rafts.any (fun x => match x.migration with
  | some (_, d, some t0) => d == die && x.id != r.id && (decide (t0 < since) || (t0 == since && decide (x.id < r.id))) &&
      !x.halted && (s.team? x.team).all (fun t => t.stowed.isNone)
  | _ => false)

/-- MIGRATE_LAND: a migrating raft whose earlier work is made gives up its lease and goes home, or waits for a landing slot
on the die and takes one in arrival order (R396). -/
def execMigrateLand (raft : Nat) (s : State) : Out :=
  .next (match s.raft? raft with
    | none => s
    | some r =>
      match s.team? r.team, r.migration with
      | some t, some (e, die, ready) =>
        if t.stowed.isSome || r.halted || (r.stopping.isSome && !s.stepGoes r) then s
        else
          match s.moveBlock r, ready with
          | .wait, _ => s
          | .moor, _ => s.moorIn raft e none (.migrate die ready)
          | .raise d isOp id, _ =>
            match r.entry? e with
            | some en => s.raiseAt raft e en.pc en.slot d isOp id
            | none => s
          | .free, none =>
            if die = r.core / 32 then ({ s with leases := s.leases.filter (fun l => l.raft != raft) } : State).ship r e t.asid none
            else s.awaitLanding r e die
          | .free, some since =>
            if s.landsLater r die since then s
            else match s.landingOn r die with
              | none => s
              | some core => s.ship r e t.asid (some core)
      | _, _ => s)

/-! ### The die links (R391 to R394) -/

/-- FLIT_RECEIVE (R392 to R394): a flit that its end takes is handed to the die, or sent on round the ring (R12). -/
def execFlitReceive (link : LinkDir) (flit : Flit) (s : State) : Out :=
  .next (
    let far := portAt s.links (link.source, link.dest)
    let near := portAt s.links (link.dest, link.source)
    if !linkExists link || far.down || near.down then s
    else
      -- a flit on its way has arrived
      let far1 := if far.wire.head? = some flit then { far with wire := far.wire.drop 1 } else far
      let k := (link.dest, link.source)
      let s1 : State := { s with links := setPort (setPort s.links (link.source, link.dest) far1) k (near.receive flit 3) }
      if near.takes flit then s1.handOver k flit else s1)

/-! ### The traffic of a step (R12, R272, R391, R392) -/

/-- The die whose agent has made the accesses of a step: that of the operation, or of the raft, that has moved; none where a
request was performed, whose flits stand for it; else the control die. -/
def State.asker (s before : State) : Option Nat :=
  match before.ops.find? (fun o => !s.ops.contains o) with
  | some o => some (o.core / 32)
  | none =>
    if s.reqs != before.reqs then none
    else some (((before.rafts.find? (fun r => !s.rafts.contains r)).map (fun r => r.here / 32)).getD 8)
/-- A flit with one request, from a die to another, in a virtual channel. -/
def oneRequest (here dest n vc : Nat) : Nat × Nat × Flit := (here, dest, requestFlit (requestSlot dest n) (BitVec.ofNat 2 vc))
/-- A step's accesses of engines, clause fetches and the control die: the requests, and the answers. -/
def State.askFlits (s before : State) : List (Nat × Nat × Flit) :=
  if s.asks.isEmpty then []
  else match s.asker before with
    | none => []
    | some d => s.asks.eraseDups.flatMap (fun (h, w) => if h = d then [] else [oneRequest d h s.nextId (if w then 2 else 0), oneRequest h d s.nextId 1])
/-- The requests that a step has made, to their homes; the answers to those it has performed, back from them; and the lines that it
has filled an L1 with, which answer their loads. -/
def State.reqFlits (s before : State) : List (Nat × Nat × Flit) :=
  let asked := s.reqs.filter (fun q => !before.reqs.any (fun x => x.id == q.id))
  let done := before.reqs.filter (fun q => !s.reqs.any (fun x => x.id == q.id))
  let filled := s.l1.filter (fun l => s.homeOf l.asid (128 * l.line) != l.core / 32 &&
    !before.l1.any (fun x => x.core == l.core && x.asid == l.asid && x.line == l.line))
  asked.flatMap (fun q => (s.farDies q).map (fun d => oneRequest (q.core / 32) d q.id (if q.isStore then 2 else 0))) ++
  done.flatMap (fun q => ((before.farDies q).filter (fun d => !(q.isLoad && filled.any (fun l => l.core == q.core && s.homeOf l.asid (128 * l.line) == d)))).map
    (fun d => oneRequest d (q.core / 32) q.id 1)) ++
  filled.map (fun l => (s.homeOf l.asid (128 * l.line), l.core / 32, lineFlit (l.core / 32) s.nextId l.data))
/-- The credits and notices that a step has sent (R130, R277). -/
def State.tellFlits (s before : State) : List (Nat × Nat × Flit) :=
  let dieOf (op : Nat) : Nat := (((before.ops ++ s.ops).find? (fun o => o.id == op)).map (fun o => o.core / 32)).getD 8
  (s.credits.filter (fun c => !before.credits.any (fun x => x.id == c.id))).map (fun c => oneRequest (dieOf c.op) (s.homeOf c.asid c.va) c.id 2) ++
  (s.notices.filter (fun n => !before.notices.any (fun x => x.id == n.id))).map (fun n => match n.kind with
    | .wake core asid va => oneRequest (s.homeOf asid va) (core / 32) n.id 1
    | .fired target =>
      let home := ((before.watches.find? (fun w => w.target == target)).map (fun w => s.homeOf w.asid (128 * w.line))).getD 8
      oneRequest home (match target with
        | .wait raft _ => ((s.raft? raft).map (fun r => r.here / 32)).getD 8
        | .fqueue op => dieOf op
        | _ => 8) n.id 1)
/-- The walks that a step's misses have had made on the control die (R21, R289). -/
def State.walkFlits (s before : State) : List (Nat × Nat × Flit) :=
  let sides := (s.tlb.filter (fun e => !before.tlb.contains e)).map (·.side) ++ (s.marks.filter (fun m => !before.marks.contains m)).map (·.side)
  sides.flatMap (fun d => [oneRequest d 8 s.nextId 0, oneRequest 8 d s.nextId 1])
/-- The contexts of the rafts that a step has moved: their vector registers at 240 bytes a flit, and four flits for the rest
(R396) (DESIGN CHOICE, log entry 79). -/
def State.moveFlits (s before : State) : List (Nat × Nat × Flit) :=
  s.rafts.flatMap (fun r => match before.raft? r.id with
    | some r0 => if r0.landed = r.landed then [] else
        List.replicate (ceilDiv (r.count * r.width * 4) 240 + 4) (oneRequest (r0.here / 32) (r.here / 32) r.id 2)
    | none => [])
/-- What a step has put on the links, as the die that sends it, the die that it is for, and the flit. The flits stand beside the
accesses; only their want of room delays what follows (DESIGN CHOICE, log entry 79). -/
def State.traffic (s before : State) : List (Nat × Nat × Flit) :=
  s.reqFlits before ++ s.askFlits before ++ s.tellFlits before ++ s.walkFlits before ++ s.moveFlits before
/-- The links with what a step has put on them; a flit for the die that sends it needs none. -/
def State.carry (s before : State) : State :=
  { (s.traffic before).foldl (fun (s : State) x => s.sendTo x.1 x.2.1 x.2.2) s with asks := [] }

/-! ### Terminating teams for an error (R374, R414) -/

/-- A team is terminated with a cause. -/
def State.terminate (s : State) (tid cause : Nat) : State :=
  ((s.mapTeam tid (fun t => { t with dying := some (t.dying.getD cause), stowTry := none })).stopTeam tid 1).settleTeam tid
/-- Every team of a kind is terminated with cause MEM_UE. -/
def State.terminateAll (s : State) (p : Team → Bool) : State :=
  ((s.teams.filter (fun t => !t.ended && p t)).map (·.id)).foldl (fun s id => s.terminate id 41) s
/-- A die goes down (R414, code 6): its teams, and those with a raft in a landing slot of it, are terminated, and it takes no further dispatch (DEDUCED, log entry 72). -/
def State.dieDown (s : State) (die pa : Nat) : State :=
  let s1 : State := { s with down := if s.down.contains die then s.down else s.down ++ [die] }
  (s1.terminateAll (fun t => t.cores.any (fun c => c / 32 == die) ||
    (t.stowed.isNone && (s.raftsOf t.id).any (fun r => r.here / 32 == die)))).postError ⟨pa, 0, 6, die⟩

/-- FLIT_REPLAY: a NAK makes the sender replay; after 32 failed replays the link is down, and with it the compute die at
its sending end (R394, R414) (DEDUCED, log entry 71). -/
def execFlitReplay (link : LinkDir) (s : State) : Out :=
  .next (
    let p := portAt s.links (link.source, link.dest)
    let p1 := p.retry 32
    if !linkExists link || p1 = p then s
    else
      let s1 : State := { s with links := setPort s.links (link.source, link.dest) p1 }
      if p1.down then s1.dieDown (if link.source < 8 then link.source else link.dest) 0 else s1)

/-! ### Peers (R398 to R400) -/

/-- PEER_FRAME: 1 to 16 flits for this module, each counted in its source module's channel; a NAK among them makes this
end replay at once, up to PEER_RETRY times (R398). -/
def execPeerFrame (frame : PeerFrame) (s : State) : Out :=
  .next (
    if frame.dest ≠ field s.ctl.peerId.toNat 12 0 ∨ 8192 ≤ frame.source ∨ 16 ≤ frame.port ∨ frame.flits = [] ∨ 16 < frame.flits.length then s
    else
      frame.flits.foldl (fun (s : State) f =>
        let k := (frame.source, f.vc.toNat)
        let p := portAt s.peerPorts k
        if p.down then s
        else ({ s with peerPorts := setPort s.peerPorts k ((p.receive f f.vc).retry s.ctl.peerRetry.toNat) } : State).flushPeer frame.source f.vc.toNat) s)

/-- The local ASID that a peer's ASID is imported as (R399, R401). -/
def State.imported (s : State) (module asid : Nat) : Option Nat :=
  ((List.range 1024).map (fun e => (sget s.peerImport e).toNat)).findSome? (fun x =>
    if bit x 63 && field x 44 32 == module && field x 31 16 == asid then some (field x 15 0) else none)

/-- PEER_ACCESS: an access of a peer runs in the ASID that imports it, or is refused (R399, R400). One that meets a page
that is not resident, or a hold, is not answered yet (DEDUCED, log entry 80). A claim on a full queue has a watch
registered for it, whose notice goes to the peer (R400). -/
def execPeerAccess (module srcAsid : Nat) (req : PeerReq) (s : State) : Out :=
  let answer (s : State) (status : Nat) (bytes : List Byte) : State :=
    s.replyPeer ⟨module, srcAsid, status, bytes⟩
  let refused (s : State) (v : Verdict) : State := match v with
    | .fault _ => answer s 1 []
    | _ => s
  .next (match s.imported module srcAsid with
    | none => answer s 1 []
    | some asid =>
      match req with
      | .read va n =>
        if !canonical va.toNat || !canonical (va.toNat + n - 1) then answer s 1 []
        else match s.readAt asid va.toNat n .read with
          | (s1, .ok, b) => answer s1 0 b
          | (s1, v, _) => refused s1 v
      | .write va bytes =>
        if !canonical va.toNat || !canonical (va.toNat + bytes.length - 1) then answer s 1 []
        else match s.writeAt asid va.toNat bytes with
          | (s1, .ok) => answer s1 0 []
          | (s1, v) => refused s1 v
      | .claim qhdr =>
        match s.queueAt asid qhdr.toNat with
        | none => answer s 1 []
        | some q =>
          match s.readAt asid q.qhdr 64 .write with
          | (s1, .ok, hdr) =>
            match claimStep hdr with
            | none => answer (s1.watchFor asid q.qhdr (.peer module srcAsid)) 2 []
            | some (i, _) => answer (s1.writeAt asid q.qhdr (toBytes 8 (i + 1)) true).1 0 (toBytes 8 i ++ toBytes 8 q.ring ++ toBytes 8 q.log2)
          | (s1, v, _) => refused s1 v)

end Sys2Proof.Machine
end

