-- ==== Sys2Proof/Machine/Banks.lean ====
section
/-!
DEFINITION. Work of the banks that instructions and ports ask for (chapter 10): LATHE, TLBINV with its holds, the home
table's commands, and the swap engine with the scheduler's choice by next use.
-/

namespace Sys2Proof.Machine

open Sys2Proof

/-! ### LATHE (R278 to R282) -/

/-- The fields of a LATHE. -/
def latheFields : Instr → AF
  | .lathe f => f
  | _ => ⟨0, 0, 0, 0, 0, 0, 0⟩
/-- Operation, format and element size of FN (R278). -/
def latheOp (f : AF) : Nat := field f.fn.toNat 1 0
def latheFmt (f : AF) : Nat := field f.fn.toNat 3 2
def latheSize (f : AF) : Nat := match latheFmt f with
  | 0 => 4
  | 1 => 2
  | _ => 8
/-- DST, SRC and LEN of a descriptor (R279). -/
def latheDst (d : List Word) : Nat := (d.getD 0 0).toNat + 2 ^ 32 * (d.getD 1 0).toNat
def latheSrc (d : List Word) : Nat := (d.getD 2 0).toNat + 2 ^ 32 * (d.getD 3 0).toNat
def latheLen (d : List Word) : Nat := (d.getD 4 0).toNat

/-- A finite FP32 value. -/
def finite32 (x : Nat) : Bool := match FFmt.fp32.value x with
  | .fin _ _ _ => true
  | _ => false

/-- The checks of R280 in order: the first that fails, with its address. -/
def latheCheck (f : AF) (d : List Word) (alpha : Word) : Option (Nat × Nat) :=
  let size := latheSize f
  let dst := latheDst d
  let src := latheSrc d
  let n := latheLen d
  let off (a : Nat) : Bool := !(canonical a && canonical (a + n - 1))
  if n = 0 || decide (65536 < n) || n % size != 0 || (d.drop 5).any (· != 0) ||
      (latheOp f == 3 && latheFmt f == 2 && !finite32 alpha.toNat) then some (30, 0)
  else if off dst then some (5, dst)
  else if off src then some (5, src)
  else if dst % size ≠ 0 then some (7, dst)
  else if src % size ≠ 0 then some (7, src)
  else if overlaps dst n src n then some (15, dst)
  else none

/-- LATHE at issue (R278 to R281). -/
def execLathe (f : AF) (s : State) : Out :=
  issue (.lathe f) s (fun s1 c =>
    let d := c.swords f.a 8
    let alpha := if latheOp f = 3 then c.sval f.b else 0
    match latheCheck f d alpha with
    | some (cause, addr) => .trap cause c.active addr 0
    | none =>
      c.accept s1 { c.newOp s1 (.lathe f) 3 with
        desc := d, ext := [alpha], amount := latheLen d / latheSize f
        ranges := [⟨.virt c.t.asid, latheSrc d, latheLen d, false, some c.r.here⟩, ⟨.virt c.t.asid, latheDst d, latheLen d, true, some c.r.here⟩] }
        1024 [] id)

/-- One element of LATHE: d and s combined (R281). -/
def latheElem (f : AF) (alpha d x : Nat) : Nat :=
  let flt (g : FFmt) : Nat := match latheOp f with
    | 0 => g.sum .rne [g.value d, g.value x]
    | 1 => g.minMax true d x
    | 2 => g.minMax false d x
    | _ => g.sum .rne [(FFmt.fp32.value alpha).mul (g.value x), g.value d]
  match latheFmt f with
  | 0 => flt .fp32
  | 1 => flt .bf16
  | _ =>
    let dv : BitVec 64 := BitVec.ofNat 64 d
    let xv : BitVec 64 := BitVec.ofNat 64 x
    (match latheOp f with
     | 0 => dv + xv
     | 1 => if dv.toInt < xv.toInt then xv else dv
     | 2 => if xv.toInt < dv.toInt then xv else dv
     | _ =>
       dv + (fx64Grid 0 ((FFmt.fp32.value alpha).mul (.fin (decide (xv.toInt < 0)) xv.toInt.natAbs 0))).x).toNat

/-- The addresses of element i. -/
def Op.latheAt (o : Op) (i : Nat) : Nat × Nat :=
  let size := latheSize (latheFields o.instr)
  (latheSrc o.desc + size * i, latheDst o.desc + size * i)
/-- Elements from i on that lie in element i's destination line. -/
def Op.latheRest (o : Op) (i : Nat) : Nat :=
  let size := latheSize (latheFields o.instr)
  min (o.amount - i) ((128 - (o.latheAt i).2 % 128) / size)

/-- The detail of a LATHE fault: CHUNK the destination line's index within the range (R282). -/
def latheDetail (o : Op) (i side addr : Nat) : List Byte :=
  toBytes 8 o.pc.toNat ++
  toBytes 8 (((o.latheAt i).2 / 128 - latheDst o.desc / 128) * 2 ^ 32 + o.slot % 16 * 2 ^ 28 + (opOf o.word).toNat * 2 ^ 16 + side) ++
  toBytes 8 addr ++ toBytes 8 i

/-- What stopped a LATHE at a destination line: ELEM is the element whose source failed, or the line's first (R227, R282). -/
def State.latheStop (s : State) (o : Op) (i : Nat) (r : ERes) : State :=
  match r with
  | .moor va => s.suspendOp o va
  | .fault cause side addr => s.failOp o cause addr (latheDetail o i side addr)
  | _ => s

/-- The sources of n elements from i, read at their homes (R281); and the element at which the reading has ended. -/
def State.latheReads (o : Op) (i : Nat) : Nat → State → State × ERes × Sparse 8 × Nat
  | 0, s => (s, .done, [], i)
  | n + 1, s =>
    let size := latheSize (latheFields o.instr)
    match s.engineRead o (.virt o.asid) (o.latheAt i).1 size 0 with
    | (s1, .done, b) =>
      match State.latheReads o (i + 1) n s1 with
      | (s2, r, m, k) => (s2, r, ssets m (size * i) b, k)
    | (s1, r, _) => (s1, r, [], i)

/-- n elements from `first`, each as one step at the lathe unit of its destination, whose line is ready. -/
def State.latheElems (o : Op) (m : Sparse 8) (first : Nat) : Nat → State → State
  | 0, s => s
  | n + 1, s =>
    let s1 := State.latheElems o m first n s
    let f := latheFields o.instr
    let size := latheSize f
    let va := (o.latheAt (first + n)).2
    let x := latheElem f (o.ext.headD 0).toNat (ofBytes (s1.homeGet o.asid va size)) (ofBytes (sgets m (size * (first + n)) size))
    (s1.engineWrite o (.virt o.asid) va (toBytes size x) 1 (n == 0)).1

/-- A destination line: its sources are read and the line is made ready to be written, so that a fault or an absent page is
met before any of its elements is performed (R282); then its elements, in one step of the model (DEDUCED, log entry 37). -/
def State.latheLine (s : State) (o : Op) : State :=
  let n := min o.resv (o.latheRest o.pos)
  let va := (o.latheAt o.pos).2
  match State.latheReads o o.pos n s with
  | (s1, .done, m, _) =>
    match s1.ensure o.asid va .write with
    | (s2, .ok) =>
      let s3 := State.latheElems o m o.pos n s2
      let o1 := { o with pos := o.pos + n }.spend n s.clock
      if o.amount ≤ o1.pos then (s3.setOp o1).finishOp o.id else s3.setOp o1
    | (s2, v) => s2.latheStop o o.pos (v.asERes 1 va)
  | (s1, r, _, k) => s1.latheStop o k r

/-- LATHE_ELEMENT (R281, R404). -/
def execLatheElement (op : Nat) (s : State) : Out :=
  .next (match s.op? op with
    | none => s
    | some o => if o.cls != 3 || !s.opGoes o || o.resv == 0 then s else s.latheLine o)

/-- LATHE_RESUME (R282). -/
def execLatheResume (op : Nat) (s : State) : Out :=
  .next (match s.op? op with
    | some o => if o.cls == 3 then s.resumeOp o else s
    | none => s)

/-! ### TLBINV (R292 to R294) -/

/-- A list of lines evicted: each written back if dirty, then gone (R290). -/
def State.evictAll (s : State) (ls : List L2Line) : State := ls.foldl State.evict s
/-- TLB entries and fault-pending marks of an ASID that overlap a range removed, with GLOB global entries too; walks under
way read their tables again. -/
def State.dropTranslations (s : State) (asid lo n : Nat) (glob : Bool) : State :=
  { s.rewalk with
    tlb := s.tlb.filter (fun e => !(overlaps e.base e.size lo n && (if bit e.pte.toNat 8 then glob else e.asid == asid)))
    marks := s.marks.filter (fun m => !(m.asid == asid && overlaps m.base m.size lo n)) }
/-- A page of the range is under exchange (R295). -/
def State.exchanging (s : State) (asid lo n : Nat) : Bool :=
  s.exchanges.any (fun e => (e.nearAsid == asid && overlaps e.nearVa e.size lo n) || (e.farAsid == asid && overlaps e.farVa e.size lo n))
/-- The lines of an ASID's range leave every L1 and every bank (R293). -/
def State.invalidate (s : State) (asid lo n : Nat) : State :=
  let s1 : State := { s with l1 := s.l1.filter (fun l => !(l.asid == asid && overlaps (128 * l.line) 128 lo n)) }
  s1.evictAll (s1.lines.filter (fun l => l.asid == asid && overlaps (128 * l.line) 128 lo n))

/-- TLBINV in its three forms; the release, every step at the homes and the acquire are one step here (R293). -/
def tlbinvIssue (i : Instr) (f : CF) (fn : Nat) (s : State) : Out :=
  issue i s (fun s1 c =>
    let all := f.off.getLsbD 18
    let asid := if f.off.getLsbD 16 then field f.off.toNat 15 0 else c.t.asid
    let start := if all then 0 else (c.sval64 f.a).toNat
    let len := if all then 2 ^ 57 else (c.sval f.d).toNat
    if !all && len != 0 && !(canonical start && canonical (start + len - 1)) then .trap 5 c.active start 0
    else
      (worst (s1.releaseWork c.r.id 0xFF)).orElse s1 (
        let lo := va57 start / 128 * 128
        let n := ceilDiv (va57 start + len) 128 * 128 - lo
        let done (st : State) : Res := .done (st.acquireDrop c.r c.t.asid 4 0xFF) .next
        if len = 0 then done s1
        else if fn = 2 then
          done (({ s1 with holds := s1.holds.erase ⟨asid, lo, n⟩ } : State).dropTranslations asid lo n (f.off.getLsbD 17)).unpage.flushPosts
        else if s1.exchanging asid lo n || (fn == 1 && decide (16 ≤ s1.holds.length)) then .stall s1 .slot
        else
          let s2 : State := if fn = 1 then { s1 with holds := s1.holds ++ [⟨asid, lo, n⟩] } else s1
          done (((s2.invalidate asid lo n).dropTranslations asid lo n (f.off.getLsbD 17)).unpage)))

/-- TLBINV (R293). -/
def execTlbinv (f : CF) (s : State) : Out := tlbinvIssue (.tlbinv f) f 0 s
/-- TLBINV_HOLD (R293, R294). -/
def execTlbinvHold (f : CF) (s : State) : Out := tlbinvIssue (.tlbinvHold f) f 1 s
/-- TLBINV_FREE (R293) (DEDUCED, log entry 25). -/
def execTlbinvFree (f : CF) (s : State) : Out := tlbinvIssue (.tlbinvFree f) f 2 s

/-! ### The home table's commands (R266, R267) -/

/-- Fields of HT_ENTRY; its format. -/
def htAsid (e : DWord) : Nat := field e.toNat 63 48
def htRegion (e : DWord) : Nat := field e.toNat 47 12
def htHome (e : DWord) : Nat := field e.toNat 3 0
def htOk (e : DWord) : Bool := field e.toNat 11 4 == 0 && decide (htHome e ≤ 8)

/-- A region's home changes: its lines leave the old home, the table changes, and every watch on a line of the region
fires (R267). -/
def State.rehome (s : State) (asid region : Nat) (edit : List HomeEntry → List HomeEntry) : State :=
  let s1 := s.evictAll (s.lines.filter (fun l => l.asid == asid && l.line / 2 ^ 14 == region))
  let s2 : State := { s1 with home := edit s1.home }
  (((s2.watches.filter (fun w => w.asid == asid && w.line / 2 ^ 14 == region)).map (·.line)).eraseDups).foldl (fun s line => s.fire asid line) s2
/-- An entry named by ASID and region. -/
def HomeEntry.names (e : HomeEntry) (asid region : Nat) : Bool := e.asid == asid && e.region == region

/-- The command of an OP that HT_CMD runs ends: BUSY clears, and STATUS is as it says (R267). Accesses meanwhile meet the
region as it was (DEDUCED, log entry 24). -/
def State.htRun (s : State) (op : BitVec 2) (run : State → DWord → State) : Out :=
  .next (match s.htBusy with
    | some e => if s.htOp = op then run { s with htBusy := none } e else s
    | none => s)
/-- The entry that the home table holds for what HT_ENTRY names (R266). -/
def State.htFound (s : State) (e : DWord) : Option HomeEntry := s.home.find? (·.names (htAsid e) (htRegion e))

/-- HT_SET (R267). -/
def execHtSet (s : State) : Out :=
  s.htRun 1 (fun s e =>
    let a := htAsid e
    let r := htRegion e
    if !htOk e then { s with htStatus := 1 }
    else
      match s.htFound e with
      | some old =>
        if old.home = htHome e then { s with htStatus := 0 }
        else { s.rehome a r (fun t => t.map (fun x => if x.names a r then { x with home := htHome e } else x)) with htStatus := 0 }
      | none =>
        if 65536 ≤ s.home.length then { s with htStatus := 2 }
        else { s.rehome a r (fun t => t ++ [⟨a, r, htHome e⟩]) with htStatus := 0 })
/-- HT_REMOVE (R267) (DEDUCED, log entry 51). -/
def execHtRemove (s : State) : Out :=
  s.htRun 2 (fun s e =>
    let a := htAsid e
    let r := htRegion e
    if !htOk e then { s with htStatus := 1 }
    else if (s.htFound e).isSome then { s.rehome a r (fun t => t.filter (fun x => !x.names a r)) with htStatus := 0 }
    else { s with htStatus := 3 })
/-- HT_REMOVE_ASID (R267) (DEDUCED, log entry 51). -/
def execHtRemoveAsid (s : State) : Out :=
  s.htRun 3 (fun s e =>
    if !htOk e then { s with htStatus := 1 }
    else
      { ((s.home.filter (fun x => x.asid == htAsid e)).foldl (fun s x =>
          s.rehome x.asid x.region (fun t => t.filter (fun y => !y.names x.asid x.region))) s) with htStatus := 0 })
/-- A write of HT_CMD (R267): ignored while a command runs, and without effect where OP is 0; a set of the HOME that the
entry already holds completes at once; any other command runs on with BUSY 1. -/
def State.htCommand (s : State) (op : BitVec 2) : State :=
  let e := s.htEntry
  if s.htBusy.isSome || op == 0 then s
  else if op == 1 && htOk e && (s.htFound e).any (fun x => x.home == htHome e) then { s with htOp := op, htStatus := 0 }
  else { s with htOp := op, htBusy := some e }

/-! ### The swap engine (R295, R296) -/

/-- A resident page as the tables hold it. -/
structure PageAt where
  asid : Nat
  va : Nat
  size : Nat
  pte : DWord
  pteAt : Nat
  deriving DecidableEq, Repr

/-- The entries of a table that memory holds anything in. -/
def State.usedEntries (s : State) (lo count size : Nat) : List Nat :=
  ((s.pmem.filter (fun e => decide (lo ≤ e.1) && decide (e.1 < lo + count * size))).map (fun e => (e.1 - lo) / size)).eraseDups
/-- The resident pages below a table. -/
def State.tablePages (s : State) (asid : Nat) : List (Nat × Nat × Nat) → Nat → Nat → List PageAt
  | [], _, _ => []
  | (shift, width, align) :: rest, va, table =>
    (s.usedEntries table (2 ^ width) 8).flatMap (fun i =>
      let at_ := table + 8 * i
      let pte := s.phys64 at_
      let base := va + i * 2 ^ shift
      if !bit pte.toNat 0 then []
      else if bit pte.toNat 1 then (if decide (shift < 39) && leafOk pte (2 ^ shift) then [⟨asid, base, 2 ^ shift, pte, at_⟩] else [])
      else if nextOk pte align then State.tablePages s asid rest base (field pte.toNat 51 8 * 256)
      else [])
/-- Every resident page. -/
def State.allPages (s : State) : List PageAt :=
  (s.usedEntries s.ctl.asidBase.toNat 65536 16).flatMap (fun asid =>
    let d := (s.phys64 (s.ctl.asidBase.toNat + 16 * asid)).toNat
    if field d 63 52 = 0 ∧ field d 20 1 = 0 ∧ bit d 0 ∧ paOk (field d 51 21 * 2 ^ 21) then
      s.tablePages asid [(39, 18, 4096), (30, 9, 4096), (21, 9, 256), (16, 5, 1)] 0 (field d 51 21 * 2 ^ 21)
    else [])

/-- A page that the swap engine may move (R295), and that is not being moved. -/
def State.movable (s : State) (p : PageAt) : Bool :=
  decide (p.size < 2 ^ 30) && !bit p.pte.toNat 10 && !bit p.pte.toNat 5 &&
  !s.holds.any (fun h => h.asid == p.asid && overlaps h.lo h.len p.va p.size) &&
  !s.exchanges.any (fun e => overlaps (pteFrame e.nearPte) e.size (pteFrame p.pte) p.size || overlaps (pteFrame e.farPte) e.size (pteFrame p.pte) p.size)

/-- A range list names a page. -/
def namesPage (asid : Nat) (lists : List (Nat × Nat)) (p : PageAt) : Bool :=
  asid == p.asid && lists.any (fun x => overlaps (va57 x.1) x.2 p.va p.size)
/-- The range lists of the queued LAUNCH packets in dispatch order: by effective priority, then the oldest (R350). Queued are
the packets that have been consumed and not started (DESIGN CHOICE, log entry 38). -/
def State.queuedLists (s : State) : List (Nat × List (Nat × Nat)) :=
  (sortBy (fun (q : Queue) => (127 - s.effPrio q) * 2 ^ 80 + q.startable) (s.queues.filter (fun q => q.state != 4 && q.state != 5))).flatMap (fun q =>
    (q.packets.filter (fun p => p.stage == 0 && p.opc == 1)).map (fun p =>
      (q.asid, (State.rangeList q.asid (p.w 0x20) (field (p.w 0x28) 7 0) s).2.2.1)))
/-- next_use of a page; 2^40 stands for infinity (R296). -/
def State.nextUse (s : State) (queued : List (Nat × List (Nat × Nat))) (p : PageAt) : Nat :=
  if s.launches.any (fun l => !l.over && namesPage l.asid l.lists p) then 0
  else match (numbered queued).find? (fun x => namesPage x.2.1 x.2.2 p) with
    | some x => x.1 + 1
    | none => 2 ^ 40
/-- The stack that a near frame lies in (R283). -/
def stackOf (pa : Nat) : Nat := pa / 0xC00000000

/-- The exchange that next use chooses: the incoming far page and the near victim (R296). -/
def State.chooseSwap (s : State) : Option (PageAt × PageAt) :=
  let queued := s.queuedLists
  if queued.isEmpty && s.launches.all (fun l => l.over || l.lists.isEmpty) then none
  else
    let pages := s.allPages.filter s.movable
    match leastByKeys (fun (p : PageAt) => [s.nextUse queued p, p.asid, p.va])
        (pages.filter (fun p => paFar (pteFrame p.pte) && decide (s.nextUse queued p < 2 ^ 40))) with
    | none => none
    | some far =>
      let die := s.homeOf far.asid far.va
      match leastByKeys (fun (p : PageAt) => [2 ^ 40 - s.nextUse queued p, p.asid, p.va])
          (pages.filter (fun p => paNear (pteFrame p.pte) && p.size == far.size && (die == 8 || stackOf (pteFrame p.pte) == die))) with
      | none => none
      | some near => if s.nextUse queued far < s.nextUse queued near then some (far, near) else none

/-- SWAP_START (R295, R296): the chosen exchange starts on the near half of the die whose stack holds the victim. -/
def execSwapStart (die : Nat) (s : State) : Out :=
  .next (if s.exchanges.any (fun e => e.die == die) then s
    else match s.chooseSwap with
      | none => s
      | some (far, near) =>
        if stackOf (pteFrame near.pte) ≠ die then s
        else { s with exchanges := s.exchanges ++
          [⟨die, near.asid, near.va, near.pteAt, near.pte, far.asid, far.va, far.pteAt, far.pte, near.size, 0, [], [], []⟩] })

/-- Pieces of an exchange. -/
def Exchange.pieces (e : Exchange) : Nat := e.size / 4096
/-- One exchange changed. -/
def State.setExchange (s : State) (e : Exchange) : State := { s with exchanges := s.exchanges.map (fun x => if x.die = e.die then e else x) }
/-- Raw bytes of memory, as the engine itself reads and writes its frames. -/
def State.rawPut (s : State) (pa : Nat) (bytes : List Byte) : State := { s with pmem := ssets s.pmem pa bytes }

/-- SWAP_PIECE_COPY: the next piece of both frames into the buffer (R295). -/
def execSwapPieceCopy (die : Nat) (s : State) : Out :=
  .next (match s.exchanges.find? (fun e => e.die == die) with
    | none => s
    | some e =>
      if e.pieces ≤ e.copied then s
      else
        let at_ := 4096 * e.copied
        s.setExchange { e with
          copied := e.copied + 1
          slotN := ssets e.slotN at_ (sgets s.pmem (pteFrame e.nearPte + at_) 4096)
          slotF := ssets e.slotF at_ (sgets s.pmem (pteFrame e.farPte + at_) 4096) })

/-- SWAP_PIECE_WRITE: the lowest piece not written out since its last change, into the other frame (R295). -/
def execSwapPieceWrite (die : Nat) (s : State) : Out :=
  .next (match s.exchanges.find? (fun e => e.die == die) with
    | none => s
    | some e =>
      if e.copied < e.pieces then s
      else match (List.range e.pieces).find? (fun k => !e.written.contains k) with
        | none => s
        | some k =>
          let at_ := 4096 * k
          ((s.rawPut (pteFrame e.farPte + at_) (sgets e.slotN at_ 4096)).rawPut (pteFrame e.nearPte + at_) (sgets e.slotF at_ 4096)).setExchange
            { e with written := e.written ++ [k] })

/-- A PTE with another frame and tier, every other bit unchanged. -/
def retarget (pte frame : DWord) (far : Bool) : DWord :=
  let m : DWord := 0x000FFFFFFFFF0200#64
  (pte &&& ~~~m) ||| (frame &&& 0x000FFFFFFFFF0000#64) ||| (if far then 0x200#64 else 0)
/-- The TLB entries of a page take its new PTE. -/
def State.retag (s : State) (pteAt : Nat) (pte : DWord) : State :=
  { s with tlb := s.tlb.map (fun e => if e.pteAt = pteAt then { e with pte := pte } else e) }

/-- SWAP_SWITCH: both PTEs and every TLB entry of either page at once; or, where a PTE has changed apart from A and D,
the frames restored and the PTEs left (R295). -/
def execSwapSwitch (die : Nat) (s : State) : Out :=
  .next (match s.exchanges.find? (fun e => e.die == die) with
    | none => s
    | some e =>
      if e.copied < e.pieces || (List.range e.pieces).any (fun k => !e.written.contains k) then s
      else
        let n := s.phys64 e.nearAt
        let f := s.phys64 e.farAt
        let gone (st : State) : State := { st with exchanges := st.exchanges.filter (fun x => x.die != die) }
        if n &&& ~~~0xC0#64 ≠ e.nearPte &&& ~~~0xC0#64 ∨ f &&& ~~~0xC0#64 ≠ e.farPte &&& ~~~0xC0#64 then
          gone ((s.rawPut (pteFrame e.nearPte) (sgets e.slotN 0 e.size)).rawPut (pteFrame e.farPte) (sgets e.slotF 0 e.size))
        else
          let n' := retarget n f true
          let f' := retarget f n false
          (((gone s).rewalk.setPhys64 e.nearAt n').setPhys64 e.farAt f').retag e.nearAt n' |>.retag e.farAt f')

end Sys2Proof.Machine
end

