-- ==== Sys2Proof/Machine/Flags.lean ====
section
/-!
DEFINITION. The flag computations: the status word of an FX64 home (R41, R45) and how its sticky flags are set. The
flags of a stream walk (R136) are `streamFlags`, beside the walks, in Ops.
-/

namespace Sys2Proof.Machine

open Sys2Proof

/-- The four sticky flags as bits [19:16] of the status word, from the lowest: SAT, SMALL, SUSPECT, EMPTY (R45). -/
abbrev Fx64Flags := BitVec 4

/-- SAT and SMALL as a product, a scaling or a pool sets them (R38, R248, R255). -/
def fxFlags (sat small : Bool) : Fx64Flags := (if sat then 1 else 0) ||| (if small then 2 else 0)
/-- SUSPECT of a drained element (R41, R247): a finite element with |X| ≥ 2^62. -/
def suspectFlag (x : DWord) (tag : BitVec 2) : Fx64Flags := if tag = 0 ∧ 2 ^ 62 ≤ x.toInt.natAbs then 4 else 0
/-- EMPTY (R41, R255). -/
def emptyFlag : Fx64Flags := 8

/-- A status word with the flags of a word of ANC (R241). -/
def statusOf (anc : Int) : DWord := BitVec.ofNat 64 (wrapN 11 anc)
/-- The anchor of a status word (R45). -/
def statusAnchor (w : DWord) : Int := asSigned 11 (field w.toNat 10 0)
/-- One status update (R39, R45): flags ORed in, reserved bits written back as zero. -/
def statusOr (w : DWord) (fl : Fx64Flags) : DWord :=
  BitVec.ofNat 64 (field w.toNat 10 0 + 65536 * (BitVec.ofNat 4 (field w.toNat 19 16) ||| fl).toNat)

/-- n / d · 2^e of a sign on the grid of an anchor (R38, R255). -/
def fx64Quot (anc : Int) (neg : Bool) (n d : Nat) (e : Int) : FxProd :=
  let (p, q) := scaleQuot n d (anc - e)
  let k := roundQuot .rne neg p q
  ⟨BitVec.ofInt 64 (if neg then -(k : Int) else k), 0, decide (2 ^ 62 ≤ k), k == 0 && n != 0⟩

end Sys2Proof.Machine
end

