-- ==== Sys2Proof/Machine/Vector.lean ====
section
/-!
DEFINITION. The vector instructions (chapter 06): each meaning is one direct application of a shared shape to the
value that its entry computes in a lane.
-/

namespace Sys2Proof.Machine

open Sys2Proof

/-! ### Shared shapes -/

/-- An instruction that writes `val` of each enabled lane to D. -/
def laneWrite (i : Instr) (s : State) (d : RegNum) (val : State → Ctx → Nat → List Word) : Out :=
  issue i s (fun s1 c => .done (c.put s1 d (val s1 c)) .next)
/-- An instruction that writes a predicate in each enabled lane. -/
def lanePred (i : Instr) (s : State) (d : RegNum) (val : State → Ctx → Nat → Bool) : Out :=
  issue i s (fun s1 c => .done (c.putP s1 d (val s1 c)) .next)
/-- A collective result: one value for the raft, written to an s register once, or to every enabled lane (R144). -/
def collWrite (i : Instr) (s : State) (d : RegNum) (val : State → Ctx → List Word) : Out :=
  issue i s (fun s1 c => .done (s1.mapRaft c.r.id (fun r =>
    if Kind.of d = .scl then r.setGroup d 0 (val s1 c) else r.setLanes (c.reg d) (fun _ => val s1 c) c.lanes)) .next)

/-- The sources of format V3 in a lane: 32 bits, or a pair. -/
def srcA (f : V3) (s : State) (c : Ctx) (lane : Nat) : Nat := c.src s f.a f.xa f.k lane
def srcB (f : V3) (s : State) (c : Ctx) (lane : Nat) : Nat := c.src s f.b f.xb f.k lane
def srcC (f : V3) (s : State) (c : Ctx) (lane : Nat) : Nat := c.src s f.c f.xc f.k lane
def srcAW (f : V3) (s : State) (c : Ctx) (lane : Nat) : Nat := if f.w then c.src64 s f.a f.xa f.k lane else srcA f s c lane
def srcBW (f : V3) (s : State) (c : Ctx) (lane : Nat) : Nat := if f.w then c.src64 s f.b f.xb f.k lane else srcB f s c lane
def srcCW (f : V3) (s : State) (c : Ctx) (lane : Nat) : Nat := if f.w then c.src64 s f.c f.xc f.k lane else srcC f s c lane

/-! ### Integer arithmetic (R148 to R157) -/

/-- The element width that FN[3:2] and W select (R149). -/
def elemBits (w : Bool) (fn : BitVec 4) : Nat := if w then 64 else match field fn.toNat 3 2 with
  | 0 => 32
  | 1 => 16
  | _ => 8

/-- A word whose elements of n bits are given, E = max 1 (32 / n) of them (R26). -/
def mapElems (n : Nat) (g : Nat → Nat) : Nat := total ((List.range (max 1 (32 / n))).map (fun k => g k * 2 ^ (n * k)))
/-- Element k of n bits. -/
def elemAt (n x k : Nat) : Nat := x / 2 ^ (n * k) % 2 ^ n

/-- R149 on whole words: FN[1] unsigned, FN[0] saturating. -/
def intArith (n : Nat) (fn : BitVec 4) (op : Int → Int → Int → Int) (a b c : Nat) : Nat :=
  mapElems n (fun k =>
    let sg := !fn.getLsbD 1
    narrowInt (fn.getLsbD 0) sg n (op (intOf sg n (elemAt n a k)) (intOf sg n (elemAt n b k)) (intOf sg n (elemAt n c k))))

/-- The value that IADD to IABS write in a lane. -/
def arithVal (f : V3) (op : Int → Int → Int → Int) (s : State) (c : Ctx) (lane : Nat) : List Word :=
  wordsW f.w (intArith (elemBits f.w f.fn) f.fn op (srcAW f s c lane) (srcBW f s c lane) (srcCW f s c lane))

/-- IADD (R149). -/
def execIadd (f : V3) (s : State) : Out := laneWrite (.iadd f) s f.d (arithVal f (fun a b _ => a + b))
/-- ISUB (R149). -/
def execIsub (f : V3) (s : State) : Out := laneWrite (.isub f) s f.d (arithVal f (fun a b _ => a - b))
/-- IMUL (R149). -/
def execImul (f : V3) (s : State) : Out := laneWrite (.imul f) s f.d (arithVal f (fun a b _ => a * b))
/-- IMAD (R149). -/
def execImad (f : V3) (s : State) : Out := laneWrite (.imad f) s f.d (arithVal f (fun a b c => a * b + c))
/-- IMIN (R149). -/
def execImin (f : V3) (s : State) : Out := laneWrite (.imin f) s f.d (arithVal f (fun a b _ => min a b))
/-- IMAX (R149). -/
def execImax (f : V3) (s : State) : Out := laneWrite (.imax f) s f.d (arithVal f (fun a b _ => max a b))
/-- IABS (R149). -/
def execIabs (f : V3) (s : State) : Out := laneWrite (.iabs f) s f.d (arithVal f (fun a _ _ => a.natAbs))

/-- Bitwise logic over 32 or 64 bits (R150). -/
def logicVal (f : V3) (op : Nat → Nat → Nat) (s : State) (c : Ctx) (lane : Nat) : List Word :=
  wordsW f.w (op (srcAW f s c lane) (srcBW f s c lane))
/-- AND NOT on 64 bits. -/
def andNot (a b : Nat) : Nat := Nat.land a (2 ^ 64 - 1 - b)

/-- AND (R150). -/
def execAnd (f : V3) (s : State) : Out := laneWrite (.and f) s f.d (logicVal f Nat.land)
/-- OR (R150). -/
def execOr (f : V3) (s : State) : Out := laneWrite (.or f) s f.d (logicVal f Nat.lor)
/-- XOR (R150). -/
def execXor (f : V3) (s : State) : Out := laneWrite (.xor f) s f.d (logicVal f Nat.xor)
/-- ANDN (R150). -/
def execAndn (f : V3) (s : State) : Out := laneWrite (.andn f) s f.d (logicVal f andNot)

/-- The kinds of shift (R151). -/
inductive Shift where
  | shl | shr | sar | rotl
  deriving DecidableEq, Repr

/-- One element shifted (R151). -/
def shiftElem (kind : Shift) (n a amt : Nat) : Nat :=
  match kind with
  | .shl => if amt < n then a * 2 ^ amt % 2 ^ n else 0
  | .shr => if amt < n then a / 2 ^ amt else 0
  | .sar => if amt < n then wrapN n (asSigned n a / 2 ^ amt) else if asSigned n a < 0 then 2 ^ n - 1 else 0
  | .rotl => (a * 2 ^ (amt % n) + a / 2 ^ (n - amt % n)) % 2 ^ n

/-- The value that a shift writes: element k's amount is element k of B, the whole of B for one element (R151). -/
def shiftVal (kind : Shift) (f : V3) (s : State) (c : Ctx) (lane : Nat) : List Word :=
  let n := elemBits f.w f.fn
  let a := srcAW f s c lane
  let b := srcB f s c lane
  wordsW f.w (mapElems n (fun k => shiftElem kind n (elemAt n a k) (if f.w then b else elemAt n b k)))

/-- SHL (R151). -/
def execShl (f : V3) (s : State) : Out := laneWrite (.shl f) s f.d (shiftVal .shl f)
/-- SHR (R151). -/
def execShr (f : V3) (s : State) : Out := laneWrite (.shr f) s f.d (shiftVal .shr f)
/-- SAR (R151). -/
def execSar (f : V3) (s : State) : Out := laneWrite (.sar f) s f.d (shiftVal .sar f)
/-- ROTL (R151). -/
def execRotl (f : V3) (s : State) : Out := laneWrite (.rotl f) s f.d (shiftVal .rotl f)

/-- Bits in a source of POPC, CLZ and BREV (R152). -/
def srcBits (w : Bool) : Nat := if w then 64 else 32
/-- The number of one bits among the low n. -/
def popCount (n x : Nat) : Nat := ((List.range n).filter (fun i => x.testBit i)).length
/-- The number of zero bits above the highest one. -/
def leadingZeros (n x : Nat) : Nat := if x = 0 then n else n - 1 - Nat.log2 x
/-- Bits reversed. -/
def reverseBits (n x : Nat) : Nat := total ((List.range n).map (fun i => if x.testBit i then 2 ^ (n - 1 - i) else 0))

/-- POPC (R152). -/
def execPopc (f : V3) (s : State) : Out :=
  laneWrite (.popc f) s f.d (fun s1 c l => words1 (popCount (srcBits f.w) (srcAW f s1 c l)))
/-- CLZ (R152). -/
def execClz (f : V3) (s : State) : Out :=
  laneWrite (.clz f) s f.d (fun s1 c l => words1 (leadingZeros (srcBits f.w) (srcAW f s1 c l)))
/-- BREV (R152). -/
def execBrev (f : V3) (s : State) : Out :=
  laneWrite (.brev f) s f.d (fun s1 c l => wordsW f.w (reverseBits (srcBits f.w) (srcAW f s1 c l)))

/-- The position and length of a control word (R153). -/
def bfPos (q : Nat) : Nat := q % 32
def bfLen (q : Nat) : Nat := min (field q 13 8) (32 - bfPos q)
/-- BFE's value. -/
def bfExtract (zeroExt : Bool) (a q : Nat) : Nat :=
  let len := bfLen q
  if len = 0 then 0
  else
    let x := a / 2 ^ bfPos q % 2 ^ len
    if zeroExt then x else wrapN 32 (asSigned len x)
/-- BFI's value. -/
def bfInsert (a b q : Nat) : Nat :=
  let m := (2 ^ bfLen q - 1) * 2 ^ bfPos q
  Nat.lor (Nat.land a (2 ^ 32 - 1 - m)) (Nat.land (b * 2 ^ bfPos q) m)

/-- BFE (R153). -/
def execBfe (f : V3) (s : State) : Out :=
  laneWrite (.bfe f) s f.d (fun s1 c l => words1 (bfExtract (f.fn.getLsbD 1) (srcA f s1 c l) (srcB f s1 c l)))
/-- BFI (R153). -/
def execBfi (f : V3) (s : State) : Out :=
  laneWrite (.bfi f) s f.d (fun s1 c l => words1 (bfInsert (srcA f s1 c l) (srcB f s1 c l) (srcC f s1 c l)))

/-- The conditions of ICMP (R154) on exact integers. -/
def icmpCond (cond : Nat) (a b : Int) : Bool :=
  match cond with
  | 0 => a == b
  | 1 => a != b
  | 2 => decide (a < b)
  | 3 => decide (a ≤ b)
  | 4 => decide (a > b)
  | _ => decide (a ≥ b)
/-- A compare of n-bit operands: FN[3] unsigned, FN[2:0] the condition. -/
def icmpVal (n : Nat) (fn : BitVec 4) (a b : Nat) : Bool :=
  icmpCond (field fn.toNat 2 0) (intOf (!fn.getLsbD 3) n a) (intOf (!fn.getLsbD 3) n b)

/-- ICMP (R154). -/
def execIcmp (f : V3) (s : State) : Out :=
  lanePred (.icmp f) s f.d (fun s1 c l => icmpVal (srcBits f.w) f.fn (srcAW f s1 c l) (srcBW f s1 c l))
/-- SEL (R155). -/
def execSel (f : V3) (s : State) : Out :=
  laneWrite (.sel f) s f.d (fun s1 c l => wordsW f.w (if c.pred f.c l then srcAW f s1 c l else srcBW f s1 c l))
/-- MOV (R155). -/
def execMov (f : V3) (s : State) : Out := laneWrite (.mov f) s f.d (fun s1 c l => wordsW f.w (srcAW f s1 c l))

/-- The source of format VI in a lane; it takes no permute (R60). -/
def srcVI (f : VI) (s : State) (c : Ctx) (lane : Nat) : Nat := c.src s f.a 0 0 lane

/-- IADDI (R156). -/
def execIaddi (f : VI) (s : State) : Out :=
  laneWrite (.iaddi f) s f.d (fun s1 c l =>
    words1 (narrowInt (f.fn.getLsbD 0) (!f.fn.getLsbD 1) 32 (intOf (!f.fn.getLsbD 1) 32 (srcVI f s1 c l) + f.imm.toInt)))
/-- ANDI (R156). -/
def execAndi (f : VI) (s : State) : Out := laneWrite (.andi f) s f.d (fun s1 c l => words1 (Nat.land (srcVI f s1 c l) f.imm.toNat))
/-- ORI (R156). -/
def execOri (f : VI) (s : State) : Out := laneWrite (.ori f) s f.d (fun s1 c l => words1 (Nat.lor (srcVI f s1 c l) f.imm.toNat))
/-- XORI (R156). -/
def execXori (f : VI) (s : State) : Out := laneWrite (.xori f) s f.d (fun s1 c l => words1 (Nat.xor (srcVI f s1 c l) f.imm.toNat))
/-- The kind of SHI (R156). -/
def shiKind (imm : Word) : Shift := match field imm.toNat 9 8 with
  | 0 => .shl
  | 1 => .shr
  | 2 => .sar
  | _ => .rotl
/-- SHI (R156). -/
def execShi (f : VI) (s : State) : Out :=
  laneWrite (.shi f) s f.d (fun s1 c l =>
    let n := elemBits false f.fn
    words1 (mapElems n (fun k => shiftElem (shiKind f.imm) n (elemAt n (srcVI f s1 c l) k) (field f.imm.toNat 5 0))))
/-- MOVI (R156). -/
def execMovi (f : VI) (s : State) : Out := laneWrite (.movi f) s f.d (fun _ _ _ => [f.imm])
/-- ICMPI (R156). -/
def execIcmpi (f : VI) (s : State) : Out :=
  lanePred (.icmpi f) s f.d (fun s1 c l => icmpVal 32 f.fn (srcVI f s1 c l) f.imm.toNat)

/-- DOT4's value (R157). -/
def dot4Val (fn : BitVec 4) (a b c : Nat) : Nat :=
  let ua := fn.getLsbD 2
  let ub := fn.getLsbD 1
  let dot := (List.range 4).foldl (fun (acc : Int) k => acc + intOf (!ua) 8 (elemAt 8 a k) * intOf (!ub) 8 (elemAt 8 b k)) 0
  let sg := !(ua && ub)
  narrowInt (fn.getLsbD 0) sg 32 (dot + intOf sg 32 c)
/-- DOT4 (R157). -/
def execDot4 (f : V3) (s : State) : Out :=
  laneWrite (.dot4 f) s f.d (fun s1 c l => words1 (dot4Val f.fn (srcA f s1 c l) (srcB f s1 c l) (srcC f s1 c l)))

/-! ### FP32 (R158 to R163) -/

/-- The rounding mode of FN[2:0]. -/
def rcOf (fn : BitVec 4) : Rnd := Rnd.ofCode (fn.toNat % 8)
/-- The FP32 value of a word. -/
def f32 (x : Nat) : FVal := FFmt.fp32.value x

/-- FADD (R158). -/
def execFadd (f : V3) (s : State) : Out :=
  laneWrite (.fadd f) s f.d (fun s1 c l => words1 (FFmt.fp32.sum (rcOf f.fn) [f32 (srcA f s1 c l), f32 (srcB f s1 c l)]))
/-- FSUB (R158). -/
def execFsub (f : V3) (s : State) : Out :=
  laneWrite (.fsub f) s f.d (fun s1 c l => words1 (FFmt.fp32.sum (rcOf f.fn) [f32 (srcA f s1 c l), (f32 (srcB f s1 c l)).neg]))
/-- FMUL (R158). -/
def execFmul (f : V3) (s : State) : Out :=
  laneWrite (.fmul f) s f.d (fun s1 c l => words1 (FFmt.fp32.ofVal (rcOf f.fn) false ((f32 (srcA f s1 c l)).mul (f32 (srcB f s1 c l)))))
/-- FFMA (R158). -/
def execFfma (f : V3) (s : State) : Out :=
  laneWrite (.ffma f) s f.d (fun s1 c l =>
    words1 (FFmt.fp32.sum (rcOf f.fn) [(f32 (srcA f s1 c l)).mul (f32 (srcB f s1 c l)), f32 (srcC f s1 c l)]))
/-- FMIN (R159). -/
def execFmin (f : V3) (s : State) : Out :=
  laneWrite (.fmin f) s f.d (fun s1 c l => words1 (FFmt.fp32.minMax false (srcA f s1 c l) (srcB f s1 c l)))
/-- FMAX (R159). -/
def execFmax (f : V3) (s : State) : Out :=
  laneWrite (.fmax f) s f.d (fun s1 c l => words1 (FFmt.fp32.minMax true (srcA f s1 c l) (srcB f s1 c l)))
/-- FCMP (R160). -/
def execFcmp (f : V3) (s : State) : Out :=
  lanePred (.fcmp f) s f.d (fun s1 c l => fcmpCond (field f.fn.toNat 2 0) (f32 (srcA f s1 c l)) (f32 (srcB f s1 c l)))
/-- FCLASS (R161). -/
def execFclass (f : V3) (s : State) : Out := laneWrite (.fclass f) s f.d (fun s1 c l => words1 (fclass32 (srcA f s1 c l)))

/-- A function of R162 applied to the operand and to what the part proposes. -/
def transVal (g : Nat → Nat → Nat) (part : Word → Word) (a : Nat) : List Word := words1 (g a (part (BitVec.ofNat 32 a)).toNat)
/-- FRCP (R162). -/
def execFrcp (f : V3) (s : State) : Out := laneWrite (.frcp f) s f.d (fun s1 c l => transVal frcp32 Config.rcp (srcA f s1 c l))
/-- FRSQ (R162). -/
def execFrsq (f : V3) (s : State) : Out := laneWrite (.frsq f) s f.d (fun s1 c l => transVal frsq32 Config.rsq (srcA f s1 c l))
/-- FEXP2 (R162). -/
def execFexp2 (f : V3) (s : State) : Out := laneWrite (.fexp2 f) s f.d (fun s1 c l => transVal fexp232 Config.exp2 (srcA f s1 c l))
/-- FLOG2 (R162). -/
def execFlog2 (f : V3) (s : State) : Out := laneWrite (.flog2 f) s f.d (fun s1 c l => transVal flog232 Config.log2 (srcA f s1 c l))
/-- FSIN (R162). -/
def execFsin (f : V3) (s : State) : Out := laneWrite (.fsin f) s f.d (fun s1 c l => transVal (fsincos32 false) Config.sin (srcA f s1 c l))
/-- FCOS (R162). -/
def execFcos (f : V3) (s : State) : Out := laneWrite (.fcos f) s f.d (fun s1 c l => transVal (fsincos32 true) Config.cos (srcA f s1 c l))
/-- FSQRT (R163). -/
def execFsqrt (f : V3) (s : State) : Out := laneWrite (.fsqrt f) s f.d (fun s1 c l => words1 (FFmt.fp32.sqrt (rcOf f.fn) (f32 (srcA f s1 c l))))
/-- FDIV (R163). -/
def execFdiv (f : V3) (s : State) : Out :=
  laneWrite (.fdiv f) s f.d (fun s1 c l => words1 (FFmt.fp32.div (rcOf f.fn) (f32 (srcA f s1 c l)) (f32 (srcB f s1 c l))))

/-! ### Packed halves, FP64, FDOT2H (R164 to R166) -/

/-- The half format and the rounding mode of FN (R164). -/
def halfFmt (fn : BitVec 4) : FFmt := if fn.getLsbD 0 then .bf16 else .fp16
def halfRc (fn : BitVec 4) : Rnd := Rnd.ofCode (fn.toNat / 2)
/-- A packed operation on the two halves (R164). -/
def halves (g : Nat → Nat) : List Word := words1 (mapElems 16 g)

/-- HADD2 (R164). -/
def execHadd2 (f : V3) (s : State) : Out :=
  laneWrite (.hadd2 f) s f.d (fun s1 c l => halves (fun k =>
    (halfFmt f.fn).sum (halfRc f.fn) [(halfFmt f.fn).value (elemAt 16 (srcA f s1 c l) k), (halfFmt f.fn).value (elemAt 16 (srcB f s1 c l) k)]))
/-- HMUL2 (R164). -/
def execHmul2 (f : V3) (s : State) : Out :=
  laneWrite (.hmul2 f) s f.d (fun s1 c l => halves (fun k =>
    (halfFmt f.fn).ofVal (halfRc f.fn) false (((halfFmt f.fn).value (elemAt 16 (srcA f s1 c l) k)).mul ((halfFmt f.fn).value (elemAt 16 (srcB f s1 c l) k)))))
/-- HFMA2 (R164). -/
def execHfma2 (f : V3) (s : State) : Out :=
  laneWrite (.hfma2 f) s f.d (fun s1 c l => halves (fun k =>
    (halfFmt f.fn).sum (halfRc f.fn)
      [((halfFmt f.fn).value (elemAt 16 (srcA f s1 c l) k)).mul ((halfFmt f.fn).value (elemAt 16 (srcB f s1 c l) k)),
       (halfFmt f.fn).value (elemAt 16 (srcC f s1 c l) k)]))
/-- HMIN2 (R164). -/
def execHmin2 (f : V3) (s : State) : Out :=
  laneWrite (.hmin2 f) s f.d (fun s1 c l => halves (fun k =>
    (halfFmt f.fn).minMax false (elemAt 16 (srcA f s1 c l) k) (elemAt 16 (srcB f s1 c l) k)))
/-- HMAX2 (R164). -/
def execHmax2 (f : V3) (s : State) : Out :=
  laneWrite (.hmax2 f) s f.d (fun s1 c l => halves (fun k =>
    (halfFmt f.fn).minMax true (elemAt 16 (srcA f s1 c l) k) (elemAt 16 (srcB f s1 c l) k)))

/-- The FP64 value of a pair. -/
def f64 (x : Nat) : FVal := FFmt.fp64.value x
/-- DADD (R165). -/
def execDadd (f : V3) (s : State) : Out :=
  laneWrite (.dadd f) s f.d (fun s1 c l => words2 (FFmt.fp64.sum (rcOf f.fn) [f64 (srcAW f s1 c l), f64 (srcBW f s1 c l)]))
/-- DMUL (R165). -/
def execDmul (f : V3) (s : State) : Out :=
  laneWrite (.dmul f) s f.d (fun s1 c l => words2 (FFmt.fp64.ofVal (rcOf f.fn) false ((f64 (srcAW f s1 c l)).mul (f64 (srcBW f s1 c l)))))
/-- DFMA (R165). -/
def execDfma (f : V3) (s : State) : Out :=
  laneWrite (.dfma f) s f.d (fun s1 c l =>
    words2 (FFmt.fp64.sum (rcOf f.fn) [(f64 (srcAW f s1 c l)).mul (f64 (srcBW f s1 c l)), f64 (srcCW f s1 c l)]))
/-- FDOT2H (R166, R47). -/
def execFdot2h (f : V3) (s : State) : Out :=
  laneWrite (.fdot2h f) s f.d (fun s1 c l =>
    let h (x k : Nat) := (halfFmt f.fn).value (elemAt 16 x k)
    let a := srcA f s1 c l
    let b := srcB f s1 c l
    words1 (FFmt.fp32.sum (halfRc f.fn) [(h a 0).mul (h b 0), (h a 1).mul (h b 1), f32 (srcC f s1 c l)]))

/-! ### CVT (R167 to R169) -/

/-- Element i of a group of width w, from the group's words (R168). -/
def groupElem (w : Nat) (words : List Word) (i : Nat) : Nat :=
  if w = 64 then (words.getD (2 * i) 0).toNat + 2 ^ 32 * (words.getD (2 * i + 1) 0).toNat
  else elemAt w (words.getD (i * w / 32) 0).toNat (i % (32 / w))
/-- The words of a group of `regs` registers whose elements of width w are given (R168). -/
def groupWords (w regs : Nat) (elems : List Nat) : List Word :=
  if w = 64 then elems.flatMap words2
  else (List.range regs).map (fun r => BitVec.ofNat 32 (total ((List.range (32 / w)).map (fun k =>
    (elems.getD (r * (32 / w) + k) 0) * 2 ^ (w * k)))))

/-- The generator's rnum (R33). -/
def rnumOf (t : Team) (r : Raft) : Word := BitVec.ofNat 32 (t.linear * 64 + r.index)
/-- SRSEED in force for a raft (R33). -/
def State.srSeed (s : State) (t : Team) : Word := match s.launch? t.launch with
  | some l => l.srseed
  | none => 0

/-- The registers that CVT writes in a lane (R168). -/
def cvtVal (f : V3) (s : State) (c : Ctx) (lane : Nat) : List Word :=
  let src := NFmt.ofCode (cvtSrc f)
  let dst := NFmt.ofCode f.fn.toNat
  let (e, ns, nd) := cvtCounts (cvtGrp f) (cvtSrc f) f.fn.toNat
  let words := (List.range ns).map (fun j => BitVec.ofNat 32 (
    (s.readReg c.r c.t (nextReg (c.reg f.a) j) (permLane f.xa.toNat f.k.toNat c.r.width lane)).toNat))
  let use := sget c.r.srUse lane
  let conv (i : Nat) : Nat :=
    let x := groupElem src.bits words i
    let mode := if cvtRc f = 4 then
        .sr (srBits (s.srSeed c.t) c.t.lnum (rnumOf c.t c.r) (BitVec.ofNat 32 lane) (use + BitVec.ofNat 32 i))
      else Rnd.ofCode (cvtRc f)
    convertNum src dst mode (cvtSat f) x
  if !cvtGrp f && decide (dst.bits < 32) then words1 (extendElem dst (conv 0))
  else groupWords dst.bits nd ((List.range e).map conv)

/-- The lanes whose stochastic use count advances: every converting lane, or the one lane that converts (R33, R168). -/
def cvtLanes (c : Ctx) (f : V3) : List Nat :=
  if c.uni || Kind.of f.d == .scl then c.lanes.take 1 else c.lanes

/-- CVT (R168). -/
def execCvt (f : V3) (s : State) : Out :=
  issue (.cvt f) s (fun s1 c =>
    let s2 := c.put s1 f.d (cvtVal f s1 c)
    let e := (cvtCounts (cvtGrp f) (cvtSrc f) f.fn.toNat).1
    .done (if cvtRc f = 4 then
        s2.mapRaft c.r.id (fun r => { r with srUse := (cvtLanes c f).foldl (fun m l => sset m l (sget m l + BitVec.ofNat 32 e)) r.srUse })
      else s2) .next)

/-! ### Cross-lane and predicate instructions (R170 to R175) -/

/-- The lane that SHFL reads for lane i (R170). -/
def shflLane (mode w i b : Nat) : Nat :=
  match mode with
  | 0 => b % w
  | 1 => if b ≤ i then i - b else i
  | 2 => if i + b < w then i + b else i
  | _ => Nat.xor i (b % w)

/-- SHFL (R170); LANE and ORIGIN in B differ by lane (DEDUCED, log entry 96). -/
def execShfl (f : V3) (s : State) : Out :=
  laneWrite (.shfl f) s f.d (fun s1 c l =>
    let j := shflLane (field f.fn.toNat 1 0) c.r.width l (srcB f s1 c l)
    wordsW f.w (if f.w then c.src64 s1 f.a 0 0 j else c.src s1 f.a 0 0 j))

/-- VOTE's result over the enabled lanes (R171). -/
def voteVal (f : V3) (c : Ctx) : Nat :=
  let ps := c.lanes.map (c.pred f.a)
  match field f.fn.toNat 1 0 with
  | 0 => if ps.all id then 1 else 0
  | 1 => if ps.any id then 1 else 0
  | 2 => (maskOf (c.lanes.filter (c.pred f.a))).toNat
  | _ => if ps.all id || !ps.any id then 1 else 0
/-- VOTE (R171). -/
def execVote (f : V3) (s : State) : Out :=
  if Kind.of f.d = .pred then lanePred (.vote f) s f.d (fun _ c _ => voteVal f c == 1)
  else collWrite (.vote f) s f.d (fun _ c => wordsW f.w (voteVal f c))

/-- The operations of REDUX and SCAN apart from the FP32 sum, on n-bit values (R172). -/
def reduxOp (n fn : Nat) (a b : Nat) : Nat :=
  match fn with
  | 0 => (a + b) % 2 ^ n
  | 1 => if intOf true n a ≤ intOf true n b then a else b
  | 2 => if intOf true n a ≥ intOf true n b then a else b
  | 3 => min a b
  | 4 => max a b
  | 5 => Nat.land a b
  | 6 => Nat.lor a b
  | 7 => Nat.xor a b
  | 9 => FFmt.fp32.minMax false a b
  | _ => FFmt.fp32.minMax true a b
/-- The identities (R172). -/
def reduxId (n fn : Nat) : Nat :=
  match fn with
  | 1 => 2 ^ (n - 1) - 1
  | 2 => 2 ^ (n - 1)
  | 3 | 5 => 2 ^ n - 1
  | 9 | 10 => FFmt.fp32.nanCode
  | _ => 0

/-- An FP32 sum of two elements, either of which may be empty (R46). With an empty element the other passes as it is, the bits of a
NaN too, although R28 has the NaN of an arithmetic operation canonical (DESIGN CHOICE, log entry 117). -/
def faddE (mode : Rnd) : Option Nat → Option Nat → Option Nat
  | none, y => y
  | x, none => x
  | some x, some y => some (FFmt.fp32.sum mode [f32 x, f32 y])
/-- One level of the pairwise tree (R46). -/
def treeLevel (mode : Rnd) : List (Option Nat) → List (Option Nat)
  | x :: y :: rest => faddE mode x y :: treeLevel mode rest
  | rest => rest
/-- The tree's levels down to one node. -/
def treeSum (mode : Rnd) : Nat → List (Option Nat) → Nat
  | 0, xs => ((xs.head?).getD none).getD 0
  | k + 1, xs => treeSum mode k (treeLevel mode xs)

/-- The rounding mode in B of `.fadd` (R172, R173). -/
def bRc (f : V3) : Rnd := Rnd.ofCode (field f.b.toNat 2 0)
/-- Every lane's value, or none where the lane is not enabled. -/
def laneVals (c : Ctx) (val : Nat → Nat) : List (Option Nat) :=
  (List.range c.r.width).map (fun l => if c.active.getLsbD l then some (val l) else none)
/-- REDUX's result (R172). -/
def reduxVal (f : V3) (s : State) (c : Ctx) : Nat :=
  let n := srcBits f.w
  if f.fn.toNat = 8 then treeSum (bRc f) (Nat.log2 c.r.width) (laneVals c (srcA f s c))
  else (c.lanes.map (srcAW f s c)).foldl (reduxOp n f.fn.toNat) (reduxId n f.fn.toNat)
/-- REDUX (R172). -/
def execRedux (f : V3) (s : State) : Out := collWrite (.redux f) s f.d (fun s1 c => wordsW f.w (reduxVal f s1 c))

/-- SCAN's operation as one of REDUX's (R173). -/
def scanOp (fn : Nat) : Nat :=
  match fn % 8 with
  | 5 => 6
  | 6 => 7
  | 7 => 8
  | k => k
/-- The steps of the FP32 prefix sum: distances d = 1, 2, 4, … (R46). -/
def scanSteps (mode : Rnd) : List Nat → List (Option Nat) → List (Option Nat)
  | [], y => y
  | d :: ds, y => scanSteps mode ds ((numbered y).map (fun (i, v) => if i < d then v else faddE mode (y.getD (i - d) none) v))
/-- SCAN's value of a lane (R173). -/
def scanVal (f : V3) (s : State) (c : Ctx) (lane : Nat) : Nat :=
  let op := scanOp f.fn.toNat
  let excl := f.fn.getLsbD 3
  let n := srcBits f.w
  if op = 8 then
    let y := scanSteps (bRc f) ((List.range (Nat.log2 c.r.width)).map (fun k => 2 ^ k)) (laneVals c (srcA f s c))
    if excl then (if lane = 0 then 0 else (y.getD (lane - 1) none).getD 0) else (y.getD lane none).getD 0
  else
    match (c.lanes.filter (fun j => if excl then decide (j < lane) else decide (j ≤ lane))).map (srcAW f s c) with
    | [] => reduxId n op
    | x :: xs => xs.foldl (reduxOp n op) x
/-- SCAN (R173). -/
def execScan (f : V3) (s : State) : Out := laneWrite (.scan f) s f.d (fun s1 c l => wordsW f.w (scanVal f s1 c l))

/-- PLOP's predicate results (R174). -/
def plopVal (f : V3) (s : State) (c : Ctx) (l : Nat) : Bool :=
  match f.fn.toNat with
  | 0 => c.pred f.a l && c.pred f.b l
  | 1 => c.pred f.a l || c.pred f.b l
  | 2 => c.pred f.a l != c.pred f.b l
  | 3 => c.pred f.a l && !c.pred f.b l
  | 4 => !c.pred f.a l
  | 5 => c.pred f.a l
  | 6 => true
  | 7 => false
  | _ => c.src s f.a 0 0 l != 0
/-- PLOP (R174). -/
def execPlop (f : V3) (s : State) : Out :=
  if f.fn = 9 then laneWrite (.plop f) s f.d (fun _ c l => words1 (if c.pred f.a l then 1 else 0))
  else lanePred (.plop f) s f.d (plopVal f)

/-- LANE's collective results (R175). -/
def laneVal (f : V3) (c : Ctx) : Nat :=
  let set := c.lanes.filter (c.pred f.a)
  match f.fn.toNat with
  | 0 => (set.head?).getD (2 ^ 32 - 1)
  | 1 => (set.getLast?).getD (2 ^ 32 - 1)
  | _ => set.length
/-- LANE (R175). -/
def execLane (f : V3) (s : State) : Out :=
  if f.fn = 3 then laneWrite (.lane f) s f.d (fun _ c l => words1 ((c.lanes.filter (c.pred f.a)).filter (fun j => decide (j < l))).length)
  else collWrite (.lane f) s f.d (fun _ c => words1 (laneVal f c))

/-! ### PBLK (R64, R123) -/

/-- PBLK reads its predicate once, in every lane, and covers the LEN slots that follow it (R64). -/
def execPblk (f : PB) (s : State) : Out :=
  issue (.pblk f) s (fun s1 c =>
    .done (s1.mapEntry c.r.id c.e (fun en =>
      { en with cover := some ⟨c.r.preg (f.a.toNat - 480), f.pat, en.slot + 1, en.slot + 1 + f.fn.toNat⟩ })) .next)

end Sys2Proof.Machine
end

