-- ==== Sys2Proof/Machine/Matrix.lean ====
section
/-!
DEFINITION. The matrix engine and window walker (chapter 09): MACC, MLOOP, MDRAIN, MSCALE, MSTAT, WVIEW and WPOOL at
issue, and the events by which they start, step, merge, complete and resume.
-/

namespace Sys2Proof.Machine

open Sys2Proof

/-! ### Formats, regions and views (R231 to R234, R250 to R252) -/

/-- Formats of matrix operands (R232): the storage format, element width, MX, and Kstep (R231). -/
def mfmt (code : Nat) : FFmt :=
  match code with
  | 0 => .fp16
  | 1 => .bf16
  | 2 | 4 => .e4m3
  | 3 | 5 => .e5m2
  | _ => .e2m1
def mwidth (code : Nat) : Nat := if code ≤ 1 then 16 else if code ≤ 5 then 8 else 4
def mmx (code : Nat) : Bool := decide (4 ≤ code)
def kstep (code : Nat) : Nat := if code ≤ 1 then 32 else if code ≤ 5 then 64 else 256
/-- REG (R233). -/
def regionBytes (code : Nat) : Nat := 16 * kstep code * mwidth code + (if mmx code then 4 * kstep code else 0)

/-- An element of an operand as a step or pool meets it: omitted; a value with its scale byte; or bytes of tile memory,
with the half of a byte that holds a 4-bit element and the scale byte's offset. -/
inductive MElem where
  | omitted
  | code (raw : Nat) (scale : Option Nat)
  | tile (addr len : Nat) (half : Option Nat) (scale : Option Nat)
  deriving DecidableEq, Repr

/-- The tile-memory lines of an element. -/
def MElem.lines : MElem → List Nat
  | .tile a n _ sc => [a / 128, (a + n - 1) / 128] ++ (match sc with | some x => [x / 128] | none => [])
  | _ => []

/-- Element (x, k) of a plane's region that begins at a base (R233). -/
def planeElem (fmt lay base x k : Nat) : MElem :=
  let c := if lay = 0 then 16 else 32
  let e := mwidth fmt
  let bits := (k / c * 128 * c + x * c + k % c) * e
  .tile (base + bits / 8) (max 1 (e / 8)) (if e = 4 then some (bits / 4 % 2) else none)
    (if mmx fmt then some (base + 16 * kstep fmt * e + k / 32 * 128 + x) else none)

/-- A field of a captured view (R250). -/
def vw (v : List Word) (i hi lo : Nat) : Nat := field (v.getD i 0).toNat hi lo
def viewFmt (v : List Word) : Nat := vw v 7 2 0
def viewC (v : List Word) : Nat := if vw v 7 5 5 = 0 then 16 else 32
/-- The input extent's length in bytes (R251). -/
def viewBytes (v : List Word) : Nat := ceilDiv (vw v 2 31 16) (viewC v) * vw v 1 31 16 * vw v 1 15 0 * viewC v * mwidth (viewFmt v) / 8
/-- Input element (y, x, ch) (R251), in an allocation that begins at a base. -/
def viewElem (v : List Word) (base y x ch : Nat) : MElem :=
  let c := viewC v
  let e := mwidth (viewFmt v) / 8
  .tile (base + vw v 0 20 0 + (ch / c * vw v 1 31 16 * vw v 1 15 0 * c + (y * vw v 1 15 0 + x) * c + ch % c) * e) e none none

/-- R252's mirror. -/
def mirror (i : Int) (n : Nat) : Nat :=
  if n = 1 then 0
  else
    let q := (i % (2 * n - 2 : Nat)).toNat
    if q < n then q else 2 * n - 2 - q

/-- A tap of a filter position and channel at an output pixel (R252), and whether it is in bounds. -/
def tapAt (v : List Word) (base p r sx ch : Nat) : MElem × Bool :=
  let h := vw v 1 31 16
  let wd := vw v 1 15 0
  let iy : Int := (p / vw v 3 15 0 * vw v 4 31 24 + r * vw v 4 15 8 : Nat) - (vw v 5 31 16 : Nat)
  let ix : Int := (p % vw v 3 15 0 * vw v 4 23 16 + sx * vw v 4 7 0 : Nat) - (vw v 5 15 0 : Nat)
  if 0 ≤ iy ∧ iy < h ∧ 0 ≤ ix ∧ ix < wd then (viewElem v base iy.toNat ix.toNat ch, true)
  else
    (match vw v 7 7 6 with
     | 0 => .omitted
     | 1 => .code (vw v 6 15 0 % 2 ^ mwidth (viewFmt v)) none
     | 2 => viewElem v base (mirror iy h) (mirror ix wd) ch
     | _ => viewElem v base (clampInt 0 (h - 1 : Nat) iy).toNat (clampInt 0 (wd - 1 : Nat) ix).toNat ch, false)
/-- tap(p, kk) of R252. -/
def tap (v : List Word) (base p kk : Nat) : MElem :=
  let s := vw v 2 7 0
  let c := vw v 2 31 16
  let cp := ceilDiv c 32 * 32
  if vw v 3 31 16 * vw v 3 15 0 ≤ p ∨ vw v 2 15 8 * s * cp ≤ kk ∨ c ≤ kk % cp then .omitted
  else (tapAt v base p (kk / (s * cp)) (kk / cp % s) (kk % cp)).1

/-- The value of an element of a core's tile memory or at hand, and its block scale (R30, R38). -/
def State.melem (s : State) (core fmt : Nat) (e : MElem) : FVal × FVal :=
  let one : FVal := .fin false 1 0
  match e with
  | .omitted => (one, one)
  | .code raw sc => ((mfmt fmt).value raw, match sc with
    | some x => e8m0 x
    | none => one)
  | .tile a n half sc =>
    let x := ofBytes (s.tileGet core a n)
    let raw := match half with
      | some h => x / 16 ^ h % 16
      | none => x
    ((mfmt fmt).value raw, match sc with
      | some y => e8m0 (ofBytes (s.tileGet core y 1))
      | none => one)

/-! ### MLOOP's descriptor (R242) -/

def mlSteps (d : List Word) : Nat := vw d 2 31 16
def mlAfmt (d : List Word) : Nat := vw d 2 15 13
def mlBfmt (d : List Word) : Nat := vw d 2 12 10
/-- ASRC: the A operand is a window view. BSRC: B comes from the quartet's registers. -/
def mlView (d : List Word) : Bool := vw d 2 7 7 == 1
def mlRegs (d : List Word) : Bool := vw d 2 6 6 == 1
def mlVirt (d : List Word) : Bool := vw d 2 5 5 == 1
def mlMext (d : List Word) : Nat := vw d 3 31 25 + 1
def mlNext (d : List Word) : Nat := vw d 3 24 18 + 1
def mlKlast (d : List Word) : Nat := vw d 3 17 10 + 1
def mlHome (d : List Word) : Nat := (d.getD 0 0).toNat + 2 ^ 32 * (d.getD 1 0).toNat
def mlA (d : List Word) : Nat := (d.getD 4 0).toNat
def mlB (d : List Word) : Nat := (d.getD 6 0).toNat
def mlAinc (d : List Word) : Int := (d.getD 5 0).toInt
def mlBinc (d : List Word) : Int := (d.getD 7 0).toInt
/-- Elements of step s along K (R236). -/
def mlK (d : List Word) (s : Nat) : Nat := if s + 1 = mlSteps d then mlKlast d else kstep (mlAfmt d)

/-- Registers of a member's group per step (R234). -/
def groupRegs (fmt w : Nat) : Nat := ceilDiv (4 * kstep fmt * mwidth fmt + (if mmx fmt then kstep fmt else 0)) (4 * w)
/-- The registers that some step reads, with the last step that reads each (R235). -/
def mlRegsRead (d : List Word) (w : Nat) : List (Nat × Nat) :=
  let g := groupRegs (mlBfmt d) w
  let inc := (d.getD 7 0).toNat
  (List.range 384).filterMap (fun r =>
    if r < mlB d then none
    else
      let s := if inc = 0 then mlSteps d - 1 else min ((r - mlB d) / inc) (mlSteps d - 1)
      if r < mlB d + s * inc + g then some (r, s) else none)
/-- The first number beyond the registers that the steps read. -/
def mlTop (d : List Word) (w : Nat) : Nat := mlB d + (mlSteps d - 1) * (d.getD 7 0).toNat + groupRegs (mlBfmt d) w

/-- The first step whose group reaches beyond register `top` (R234, R259). -/
def mlStepOver (d : List Word) (w top : Nat) : Nat :=
  let first := mlB d + groupRegs (mlBfmt d) w
  if top < first then 0 else (top - first) / (d.getD 7 0).toNat + 1

/-- The descriptor's own fates (R242), with the view slot that it names. -/
def mlDescOk (d : List Word) (view : Option (List Word)) : Bool :=
  let af := mlAfmt d
  let bf := mlBfmt d
  mlSteps d != 0 && decide (af ≤ 6) && decide (bf ≤ 6) && mwidth af == mwidth bf && vw d 2 4 0 == 0 && vw d 3 9 0 == 0 &&
  decide (mlKlast d ≤ kstep af) && (mlVirt d || (d.getD 1 0) == 0) &&
  (if mlView d then
    vw d 2 9 9 == 0 && vw d 4 7 1 == 0 && (d.getD 5 0).toNat % kstep af == 0 && (match view with
      | some v => viewFmt v == af
      | none => false)
   else vw d 4 31 21 == 0 && mlA d % 128 == 0 && mlAinc d % 128 == 0) &&
  (if mlRegs d then vw d 2 8 8 == 0 && vw d 6 31 9 == 0 && decide (mlB d ≤ 383) && vw d 7 31 9 == 0
   else vw d 6 31 21 == 0 && mlB d % 128 == 0 && mlBinc d % 128 == 0)

/-- The span of a plane's regions within the allocation: its first byte and length. -/
def planeSpan (off : Nat) (inc : Int) (steps fmt : Nat) : Int × Nat :=
  let far : Int := (steps - 1 : Nat) * inc
  (off + min 0 far, far.natAbs + regionBytes fmt)

/-- The first step of a plane whose region leaves the allocation, with the offset at which that region begins. -/
def planeOut (off : Nat) (inc : Int) (steps fmt alloc : Nat) : Option (Nat × Int) :=
  let start (k : Nat) : Int := off + k * inc
  let bad (k : Nat) : Bool := decide (start k < 0) || decide ((alloc : Int) < start k + regionBytes fmt)
  let span := planeSpan off inc steps fmt
  if 0 ≤ span.1 ∧ span.1 + span.2 ≤ (alloc : Int) then none
  else
    let k := if bad 0 then 0 else if inc < 0 then off / inc.natAbs + 1 else (alloc - regionBytes fmt - off) / inc.natAbs + 1
    some (k, start k)

/-! ### Homes at issue (R44, R241, R243, R256) -/

def imageBytes : Nat := 0x22000
/-- Why a home is refused (checks 2 and 3). -/
def homeCause (base alloc : Nat) (virt : Bool) : Option Nat :=
  if base % 0x2000 ≠ 0 then some 7
  else if virt then
    (if canonical base && canonical (base + imageBytes - 1) && (decide (base < 2 ^ 56) == decide (base + imageBytes - 1 < 2 ^ 56)) then none else some 5)
  else if base + imageBytes ≤ alloc then none else some 6
/-- Where a home lies. -/
def Ctx.homePlace (c : Ctx) (s : State) (base : Nat) (virt : Bool) : Space × Nat :=
  if virt then (.virt c.t.asid, base)
  else match s.ownTile c.t c.r with
    | some (core, a) => (.tile core, a + base)
    | none => (.tile c.r.core, base)
/-- Its image as a range, or its status line. -/
def Ctx.homeRange (c : Ctx) (p : Space × Nat) : Range := ⟨p.1, p.2, imageBytes, true, some c.r.here⟩
def Ctx.statusRange (c : Ctx) (p : Space × Nat) : Range := ⟨p.1, p.2 + 0x21000, 128, false, some c.r.here⟩

/-- R259's STEP where no step fails. -/
def noStep : Nat := 0xFFFF
/-- The place of a failing check in R259's detail: its step, and 0 for A or the view input, 1 B, 2 home, 3 the destination or
factors. -/
def mplace (step side : Nat) : Nat × Nat := (step * 2 ^ 16, side)
/-- A home check, when the home's own is not the alignment: checks 2 and 3 share their place for one home. -/
def homeCheck (cause : Option Nat) (base : Nat) : Bool × Nat × Nat × Nat × Nat := (cause.isSome, cause.getD 0, base, mplace noStep 2)

/-! ### Issue -/

/-- MACC (R241). -/
def execMacc (f : AF) (s : State) : Out :=
  issue (.macc f) s (fun s1 c =>
    let virt := f.fn.getLsbD 0
    let anc := (c.sval f.c).toInt
    let base := if virt then (c.sval64 f.b).toNat else (c.sval f.b).toNat
    c.unless s1
      [(decide (anc < -1024) || decide (1023 < anc), 28, 0, mplace noStep 2), homeCheck (homeCause base c.t.tileBytes virt) base,
       (!virt && c.r.landed.isSome, 12, base, mplace noStep 2)]
      (c.accept s1 { c.newOp s1 (.macc f) 0 with
        anchor := anc, places := [c.homePlace s1 base virt], ranges := [c.homeRange (c.homePlace s1 base virt)] } 16 [] id))

/-- The four members of a raft's quartet, where all are live (R230, R243). -/
def State.quartet (s : State) (r : Raft) : List Raft :=
  (List.range 4).filterMap (fun q => s.rafts.find? (fun x =>
    x.team == r.team && x.index == r.index / 4 * 4 + q && x.live != 0 && x.exitAt.isNone))
/-- Pending writes of a raft to some v registers (R146, R235). -/
def State.pendingOn (s : State) (rid : Nat) (regs : List Nat) : List Block :=
  let hits (d : Option Dest) : Bool := match d with
    | some d => Kind.of d.first == .vec && regs.any (fun r => overlaps d.first.toNat (min d.n (d.cap - d.first.toNat)) r 1)
    | none => false
  (s.reqs.filter (fun q => q.raft == rid && hits q.dest)).map Req.block ++
  (s.ops.filter (fun o => o.raft == some rid && hits o.dest)).map s.opBlock

/-- The values of some registers of the quartet's members: key 2^15·member + 64·register + lane. -/
def quartetVals (ms : List Raft) (regs : List Nat) : Sparse 32 :=
  (numbered ms).foldl (fun m (q, r) => regs.foldl (fun m reg =>
    (List.range r.width).foldl (fun m l => sset m (2 ^ 15 * q + vKey reg l) (r.vreg reg l)) m) m) []

/-- The view that MLOOP's descriptor names. -/
def Ctx.viewAt (c : Ctx) (k : Nat) : Option (List Word) := ((c.r.views[k]?).getD none).map (·.words)
/-- The tile ranges that a loop's steps read. -/
def Ctx.mloopReads (c : Ctx) (s : State) (d : List Word) : List Range :=
  let own := c.homePlace s 0 false
  let v := (c.viewAt (vw d 4 0 0)).getD []
  let span (off : Nat) (inc : Int) (fmt : Nat) : Range :=
    let x := planeSpan off inc (mlSteps d) fmt
    ⟨own.1, own.2 + x.1.toNat, x.2, false, some c.r.here⟩
  (if mlView d then [⟨own.1, own.2 + vw v 0 20 0, viewBytes v, false, some c.r.here⟩] else [span (mlA d) (mlAinc d) (mlAfmt d)]) ++
  (if mlRegs d then [] else [span (mlB d) (mlBinc d) (mlBfmt d)])
/-- The registers that a loop reads, with the last step that reads each. -/
def Ctx.mloopRegs (c : Ctx) (d : List Word) : List (Nat × Nat) := if mlRegs d then mlRegsRead d c.r.width else []
/-- The checks of MLOOP (R242, R243), in their order. -/
def Ctx.mloopChecks (c : Ctx) (s : State) (d : List Word) : List (Bool × Nat × Nat × Nat × Nat) :=
  let base := mlHome d
  let alloc := c.t.tileBytes
  let av := planeOut (mlA d) (mlAinc d) (mlSteps d) (mlAfmt d) alloc
  let bv := planeOut (mlB d) (mlBinc d) (mlSteps d) (mlBfmt d) alloc
  let members := s.quartet c.r
  let top := members.foldl (fun n m => min n m.count) 384
  [(!mlDescOk d (c.viewAt (vw d 4 0 0)), 28, 0, mplace 0 0), homeCheck (homeCause base alloc (mlVirt d)) base,
   (!mlView d && av.isSome, 6, wrapN 64 (av.getD (0, 0)).2, mplace (av.getD (0, 0)).1 0),
   (!mlRegs d && bv.isSome, 6, wrapN 64 (bv.getD (0, 0)).2, mplace (bv.getD (0, 0)).1 1),
   (c.r.landed.isSome, 12, if mlView d then vw ((c.viewAt (vw d 4 0 0)).getD []) 0 20 0 else mlA d, mplace 0 0),
   (mlRegs d && decide (members.length < 4), 29, 0, mplace 0 1),
   (mlRegs d && decide (top < mlTop d c.r.width), 28, 0, mplace (mlStepOver d c.r.width top) 1),
   ((c.mloopReads s d).any (aliases (c.homeRange (c.homePlace s base (mlVirt d)))), 15, base, mplace noStep 2)]
/-- The loop that is accepted. -/
def Ctx.mloopOp (c : Ctx) (s : State) (f : AF) (d : List Word) : Op :=
  let regs := (c.mloopRegs d).map (·.1)
  let home := c.homePlace s (mlHome d) (mlVirt d)
  { c.newOp s (.mloop f) 0 with
    desc := d, ext := if mlView d then (c.viewAt (vw d 4 0 0)).getD [] else [], places := [home, c.homePlace s 0 false]
    vals := if mlRegs d then quartetVals (s.quartet c.r) regs else []
    locks := if mlRegs d then (s.quartet c.r).flatMap (fun m => regs.map (fun r => (m.id, r))) else []
    ranges := c.homeRange home :: c.mloopReads s d }
/-- The pending writes of the other members that a loop's slot waits for (R235). -/
def Ctx.mloopOthers (c : Ctx) (s : State) (d : List Word) : List Block :=
  ((if mlRegs d then s.quartet c.r else []).filter (fun m => m.id != c.r.id)).flatMap (fun m => s.pendingOn m.id ((c.mloopRegs d).map (·.1)))

/-- MLOOP at issue (R242, R243). -/
def execMloop (f : AF) (s : State) : Out :=
  issue (.mloop f) s (fun s1 c =>
    let d := c.swords f.a 8
    c.unless s1 (c.mloopChecks s1 d)
      ((worst (s1.pendingOn c.r.id ((c.mloopRegs d).map (·.1)))).orElse s1
        (if !(c.mloopOthers s1 d).isEmpty then .stall s1 .slot else c.accept s1 (c.mloopOp s1 f d) 16 [] id)))

/-- MDRAIN's descriptor (R246, R247): its fields, and what its record must meet. -/
def mdRows (d : List Word) : Nat := vw d 2 15 9 + 1
def mdCols (d : List Word) : Nat := vw d 2 8 2 + 1
def mdDescOk (d : List Word) : Bool :=
  vw d 2 31 24 == 0 && vw d 2 1 1 == 0 && (d.drop 4).all (· == 0) && (vw d 2 0 0 == 1 || d.getD 1 0 == 0)
/-- The rounding code, FN[3] and the destination fit (ILLOP); an MX destination's blocks fit (MATRIX_DESC). -/
def mdFits (f : AF) (r : BRec) : Bool :=
  let code := field f.fn.toNat 2 0
  let sat := f.fn.getLsbD 3
  let narrow := match storeFmt r.fmt with
    | .flt .fp64 | .flt .fp32 => false
    | .flt _ => true
    | .int _ _ => false
  (code != 4 || narrow) && (sat || !(isMx r.fmt || storeFmt r.fmt == .flt .e2m1))
def mdBlocks (d : List Word) (r : BRec) : Bool :=
  !isMx r.fmt || (r.ext0 % 32 == 0 && (d.getD 3 0).toNat % 32 == 0 && mdCols d % 32 == 0)

/-- The checks of MDRAIN after its record is read (R246, R256), in their order. -/
def Ctx.mdrainChecks (c : Ctx) (s : State) (f : AF) (d : List Word) (r : BRec) : List (Bool × Nat × Nat × Nat × Nat) :=
  let virt := vw d 2 0 0 == 1
  let base := mlHome d
  let org : Int := (d.getD 3 0).toInt
  let far : Int := org + (mdCols d - 1 : Nat) + ((mdRows d - 1) * r.ext0 : Nat)
  let ext := extentCause r c.t.tileBytes
  let here := some c.r.here
  [(r.space == 2 || r.space == 3, 28, 0, mplace noStep 3), (!mdFits f r, 1, 0, mplace noStep 3), (!mdBlocks d r, 28, 0, mplace noStep 3),
   homeCheck (homeCause base c.t.tileBytes virt) base, (ext.isSome, ext.getD 0, wrapN 64 (Rec.extent r).1, mplace noStep 3),
   (strictOut r org || strictOut r far, 25, 0, mplace noStep 3), (c.r.landed.isSome && !virt, 12, base, mplace noStep 2),
   (c.r.landed.isSome && r.space == 1, 12, wrapN 64 (Rec.extent r).1, mplace noStep 3),
   (aliases (c.homeRange (c.homePlace s base virt)) (recRange (c.placeOf s r) r true here), 15, base, mplace noStep 2)]
/-- The drain that is accepted. -/
def Ctx.mdrainOp (c : Ctx) (s : State) (f : AF) (d : List Word) (r : BRec) : Op :=
  let home := c.homePlace s (mlHome d) (vw d 2 0 0 == 1)
  let place := c.placeOf s r
  { c.newOp s (.mdrain f) 0 with
    desc := d, recs := [default, r], places := [home, place], ext := [c.r.drain, s.srSeed c.t, c.t.lnum, rnumOf c.t c.r]
    ranges := [c.homeRange home, recRange place r true (some c.r.here)] }

/-- MDRAIN at issue (R246, R247, R256). -/
def execMdrain (f : AF) (s : State) : Out :=
  issue (.mdrain f) s (fun s1 c =>
    let d := c.swords f.a 8
    if !mdDescOk d then c.failCheck s1 28 0 (mplace noStep 2)
    else
      c.withRec s1 (vw d 2 23 16) c.active true (some (mplace noStep 3)) (fun s2 r =>
        c.unless s2 (c.mdrainChecks s2 f d r)
          (c.accept s2 (c.mdrainOp s2 f d r) 16 []
            (fun st => if field f.fn.toNat 2 0 == 4 then st.mapRaft c.r.id (fun x => { x with drain := x.drain + 1 }) else st))))

/-- MSCALE's factors in v registers: the group, renamed as one unit (R134), and the registers it takes up
(DEDUCED, log entry 36). -/
def Ctx.scaleOpd (c : Ctx) (f : AF) : Opd := ⟨.b, f.b, 128 / c.r.width, 1, true, false, [.vec]⟩
/-- MSCALE's home and the offset of its factors in tile memory. -/
def Ctx.scaleHome (c : Ctx) (f : AF) : Nat := if f.fn.getLsbD 1 then (c.sval64 f.c).toNat else (c.sval f.c).toNat
/-- The range of MSCALE's factors. -/
def Ctx.scaleFrom (c : Ctx) (s : State) (f : AF) : Range :=
  let p := c.homePlace s (c.sval f.b).toNat false
  ⟨p.1, p.2, 512, false, some c.r.here⟩
/-- The checks of MSCALE (R256), in their order. -/
def Ctx.mscaleChecks (c : Ctx) (s : State) (f : AF) : List (Bool × Nat × Nat × Nat × Nat) :=
  let virt := f.fn.getLsbD 1
  let inRegs := f.fn.getLsbD 0
  let base := c.scaleHome f
  let off := (c.sval f.b).toNat
  let cause := homeCause base c.t.tileBytes virt
  [(cause == some 7, 7, base, mplace noStep 2), (!inRegs && off % 4 != 0, 7, off, mplace noStep 3), homeCheck cause base,
   (!inRegs && decide (c.t.tileBytes < off + 512), 6, off, mplace noStep 3),
   (c.r.landed.isSome && !virt, 12, base, mplace noStep 2), (c.r.landed.isSome && !inRegs, 12, off, mplace noStep 3),
   (!inRegs && aliases (c.homeRange (c.homePlace s base virt)) (c.scaleFrom s f), 15, base, mplace noStep 2)]
/-- The scaling that is accepted. -/
def Ctx.mscaleOp (c : Ctx) (s : State) (f : AF) : Op :=
  let inRegs := f.fn.getLsbD 0
  let home := c.homePlace s (c.scaleHome f) (f.fn.getLsbD 1)
  let first := (c.reg f.b).toNat
  { c.newOp s (.mscale f) 0 with
    places := [home, c.homePlace s (c.sval f.b).toNat false]
    vals := if inRegs then (List.range 128).foldl (fun m i => sset m i (c.r.vreg (first + i / c.r.width) (i % c.r.width))) [] else []
    ranges := if inRegs then [c.homeRange home] else [c.homeRange home, c.scaleFrom s f] }

/-- MSCALE at issue (R248, R256). -/
def execMscale (f : AF) (s : State) : Out :=
  issue (.mscale f) s (fun s1 c =>
    if f.fn.getLsbD 0 && (!c.renameOk (c.scaleOpd f) || decide (c.r.count < (c.reg f.b).toNat + 128 / c.r.width)) then .trap 1 c.active 0 0
    else
      (if f.fn.getLsbD 0 then s1.interlock c [c.scaleOpd f] else .free).orElse s1
        (c.unless s1 (c.mscaleChecks s1 f) (c.accept s1 (c.mscaleOp s1 f) 16 [] id)))

/-- MSTAT at issue (R249, R256). -/
def execMstat (f : AF) (s : State) : Out :=
  issue (.mstat f) s (fun s1 c =>
    let virt := f.fn.getLsbD 0
    let base := if virt then (c.sval64 f.b).toNat else (c.sval f.b).toNat
    let home := c.homePlace s1 base virt
    c.unless s1 [homeCheck (homeCause base c.t.tileBytes virt) base, (!virt && c.r.landed.isSome, 12, base, mplace noStep 2)]
      (c.accept s1 { c.newOp s1 (.mstat f) 0 with
        dest := some ⟨f.d, 1, c.active, true, 384⟩, places := [home], ranges := [c.statusRange home] } 16 [] id))

/-- WVIEW's descriptor (R250). -/
def viewOk (v : List Word) : Bool :=
  vw v 0 31 21 == 0 && vw v 0 20 0 % 128 == 0 &&
  [vw v 1 31 16, vw v 1 15 0, vw v 2 31 16, vw v 2 15 8, vw v 2 7 0, vw v 3 31 16, vw v 3 15 0, vw v 4 31 24, vw v 4 23 16,
   vw v 4 15 8, vw v 4 7 0].all (· != 0) &&
  vw v 6 31 16 == 0 && vw v 7 31 8 == 0 && vw v 7 4 3 == 0 && decide (viewFmt v ≤ 3)
/-- WVIEW (R17, R237, R250, R251): it completes when the engine's input queue accepts it. -/
def execWview (f : AF) (s : State) : Out :=
  issue (.wview f) s (fun s1 c =>
    let v := c.swords f.a 8
    c.unless s1
      [(!viewOk v, 28, 0, mplace noStep 0), (decide (c.t.tileBytes < vw v 0 20 0 + viewBytes v), 6, vw v 0 20 0, mplace noStep 0),
       (c.r.landed.isSome, 12, vw v 0 20 0, mplace noStep 0)]
      (if s1.roomFor (c.newOp s1 (.wview f) 0) 16 then
        .done (s1.mapRaft c.r.id (fun r => { r with views := setAt r.views (field f.imm.toNat 0 0) (some ⟨v⟩) })) .next
       else .stall s1 .slot))

/-- The input that WPOOL reads. -/
def Ctx.poolFrom (c : Ctx) (s : State) (d : List Word) : Range :=
  let own := c.homePlace s 0 false
  let v := (c.viewAt (vw d 2 0 0)).getD []
  ⟨own.1, own.2 + vw v 0 20 0, viewBytes v, false, some c.r.here⟩
/-- The checks of WPOOL (R254, R256), in their order. -/
def Ctx.wpoolChecks (c : Ctx) (s : State) (d : List Word) : List (Bool × Nat × Nat × Nat × Nat) :=
  let virt := vw d 2 1 1 == 1
  let base := mlHome d
  [(vw d 2 7 2 != 0 || vw d 3 1 0 != 0 || !(d.drop 4).all (· == 0) || (c.viewAt (vw d 2 0 0)).isNone || (!virt && d.getD 1 0 != 0), 28, 0, mplace noStep 0),
   homeCheck (homeCause base c.t.tileBytes virt) base, (c.r.landed.isSome && !virt, 12, base, mplace noStep 2),
   (c.r.landed.isSome, 12, vw ((c.viewAt (vw d 2 0 0)).getD []) 0 20 0, mplace noStep 0),
   (aliases (c.homeRange (c.homePlace s base virt)) (c.poolFrom s d), 15, base, mplace noStep 2)]
/-- The pooling that is accepted. -/
def Ctx.wpoolOp (c : Ctx) (s : State) (f : AF) (d : List Word) : Op :=
  let home := c.homePlace s (mlHome d) (vw d 2 1 1 == 1)
  { c.newOp s (.wpool f) 0 with
    desc := d, ext := (c.viewAt (vw d 2 0 0)).getD [], places := [home, c.homePlace s 0 false], ranges := [c.homeRange home, c.poolFrom s d] }
/-- WPOOL at issue (R254, R256). -/
def execWpool (f : AF) (s : State) : Out :=
  issue (.wpool f) s (fun s1 c =>
    let d := c.swords f.a 8
    c.unless s1 (c.wpoolChecks s1 d) (c.accept s1 (c.wpoolOp s1 f d) 16 [] id))

/-! ### The home as operations meet it (R39, R44, R45) -/

/-- R259's detail. -/
def matrixDetail (o : Op) (step side addr elem : Nat) : List Byte :=
  placeDetail o.pc o.slot o.word (mplace step side).1 side addr elem

/-- Bytes of the home's image, read; `acc` is what the operation does there, `again` a part of an access already counted
(R274). -/
def State.homeRead (s : State) (o : Op) (off n : Nat) (acc : Acc) (again : Bool := false) : State × ERes × List Byte :=
  let p := o.place 0
  match p.1 with
  | .tile _ => s.engineRead o p.1 (p.2 + off) n 2
  | .virt asid =>
    match s.readAt asid (p.2 + off) n acc again with
    | (s1, v, b) => (s1, v.asERes 2 (p.2 + off), b)
/-- Bytes of the home's image, written. -/
def State.homeWrite (s : State) (o : Op) (off : Nat) (bytes : List Byte) (again : Bool := false) : State × ERes :=
  let p := o.place 0
  s.engineWrite o p.1 (p.2 + off) bytes 2 again
/-- The place of an element's tag (R44). -/
def tagByte (e : Nat) : Nat := 0x20000 + e / 4
/-- An element of the home: X and its tag. -/
def State.elemRead (s : State) (o : Op) (e : Nat) (acc : Acc) : State × ERes × DWord × BitVec 2 :=
  match s.homeRead o (8 * e) 8 acc with
  | (s1, .done, b) =>
    match s1.homeRead o (tagByte e) 1 acc with
    | (s2, .done, t) => (s2, .done, BitVec.ofNat 64 (ofBytes b), BitVec.ofNat 2 (ofBytes t / 4 ^ (e % 4)))
    | (s2, r, _) => (s2, r, 0, 0)
  | (s1, r, _) => (s1, r, 0, 0)
/-- One status update (R39, R45). -/
def State.statusUpdate (s : State) (o : Op) (fl : Fx64Flags) (again : Bool := false) : State × ERes :=
  match s.homeRead o 0x21000 8 .write again with
  | (s1, .done, b) => s1.homeWrite o 0x21000 (toBytes 8 (statusOr (BitVec.ofNat 64 (ofBytes b)) fl).toNat) true
  | (s1, r, _) => (s1, r)
/-- An element replaced, with the flags it sets, as one step (R39, R248, R255): `new` gives X, the tag and the flags, or
nothing where the element is not written. All its bytes are made ready before any is written. -/
def State.elemUpdate (s : State) (o : Op) (e : Nat) (new : DWord → BitVec 2 → Option (DWord × BitVec 2 × Fx64Flags)) : State × ERes :=
  match s.elemRead o e .write with
  | (s1, .done, x, t) =>
    match new x t with
    | none => (s1, .done)
    | some (x', t', fl) =>
      let put (st : State) : State × ERes :=
        match st.homeWrite o (8 * e) (toBytes 8 x'.toNat) true with
        | (s2, .done) =>
          match s2.homeRead o (tagByte e) 1 .write true with
          | (s3, .done, b) =>
            let sh := 2 * (e % 4)
            let old : Byte := b.headD 0
            s3.homeWrite o (tagByte e) [(old &&& ~~~(3#8 <<< sh)) ||| (t'.setWidth 8 <<< sh)] true
          | (s3, r, _) => (s3, r)
        | r => r
      if fl = 0 then put s1
      else
        match s1.homeRead o 0x21000 8 .write with
        | (s2, .done, _) =>
          match put s2 with
          | (s3, .done) => s3.statusUpdate o fl true
          | r => r
        | (s2, r, _) => (s2, r)
  | (s1, r, _, _) => (s1, r)

/-! ### Starting in order (R237) -/

/-- An operation of the matrix engine that has started and has neither ended nor failed. -/
def Op.started (o : Op) : Bool := o.cls == 0 && o.phase != 0 && o.fault.isNone
/-- MLOOPs of a core that hold a working accumulator, and one that uses the arrays. -/
def State.accums (s : State) (core : Nat) : List Op :=
  s.ops.filter (fun o => o.core == core && o.started && (match o.instr with | .mloop _ => true | _ => false))
/-- The operation may start: every earlier one of its engine has started, or is suspended, or has ended (R237). -/
def State.startTurn (s : State) (o : Op) : Bool :=
  o.phase == 0 && s.opGoes o && !s.opStowed o &&
  !s.ops.any (fun x => x.core == o.core && x.cls == 0 && decide (x.id < o.id) && x.phase == 0 && x.susp.isNone && x.fault.isNone)

/-- What an access of an operation met (R257, R258): it goes on, waits, suspends where it stands, or fails. -/
def State.matrixStop (s : State) (o : Op) (r : ERes) (step elem : Nat) : State :=
  match r with
  | .moor va => (s.setOp o).suspendOp o va
  | .fault cause side addr => s.failOp o cause addr (matrixDetail o step side addr elem)
  | _ => s.setOp o

/-- The home's anchor read at the start. -/
def State.readAnchor (s : State) (o : Op) (next : Op) : State :=
  match s.homeRead o 0x21000 8 .read with
  | (s1, .done, b) => s1.setOp { next with anchor := statusAnchor (BitVec.ofNat 64 (ofBytes b)) }
  | (s1, r, _) => s1.matrixStop o r (match o.instr with | .mloop _ => 0 | _ => 0xFFFF) 0

/-- MLOOP_START (R237, R244): a working accumulator is taken and the anchor read. -/
def execMloopStart (op : Nat) (s : State) : Out :=
  .next (match s.op? op with
    | none => s
    | some o =>
      match o.instr with
      | .mloop _ =>
        if s.startTurn o && decide ((s.accums o.core).length < 2) && (s.accums o.core).all (fun x => x.phase != 1) then
          s.readAnchor o { o with phase := 1, asked := s.clock, pos := 0, work := [], wtag := [], flags := 0 }
        else s
      | _ => s)

/-! ### Steps (R236, R244) -/

/-- A element (m, k) of step s. -/
def Op.aElem (o : Op) (s m k : Nat) : MElem :=
  let d := o.desc
  if mlView d then tap o.ext (o.place 1).2 (vw d 4 31 8 + m) ((d.getD 5 0).toNat + s * kstep (mlAfmt d) + k)
  else planeElem (mlAfmt d) (vw d 2 9 9) (((o.place 1).2 + mlA d : Nat) + (s : Int) * mlAinc d).toNat m k
/-- B element (k, n) of step s (R233, R234). -/
def Op.bElem (o : Op) (w s n k : Nat) : MElem :=
  let d := o.desc
  let fmt := mlBfmt d
  let e := mwidth fmt
  if mlRegs d then
    let at_ (y : Nat) : Nat :=
      let reg := mlB d + s * (d.getD 7 0).toNat + y / (4 * w)
      field (sget o.vals (2 ^ 15 * (n / 32) + vKey reg (y % (4 * w) / 4))).toNat (8 * (y % 4) + 7) (8 * (y % 4))
    let nl := n % 32
    let bits := (nl * kstep fmt + k) * e
    let raw := match e with
      | 16 => at_ (bits / 8) + 256 * at_ (bits / 8 + 1)
      | 8 => at_ (bits / 8)
      | _ => at_ (bits / 8) / 16 ^ (bits / 4 % 2) % 16
    .code raw (if mmx fmt then some (at_ (4 * kstep fmt * e + nl * (kstep fmt / 32) + k / 32)) else none)
  else planeElem fmt (vw d 2 8 8) (((o.place 1).2 + mlB d : Nat) + (s : Int) * mlBinc d).toNat n k

/-- The products of one element of the working accumulator along K (R38, R39): none where A is omitted. -/
def dotRow (anc : Int) : List (Option (FVal × FVal)) → List (FVal × FVal) → DWord × BitVec 2 × Fx64Flags → DWord × BitVec 2 × Fx64Flags
  | some (a, sa) :: as, (b, sb) :: bs, (x, t, fl) =>
    let p := fx64Product anc a b sa sb
    dotRow anc as bs (x + p.x, t ||| p.tag, fl ||| fxFlags p.sat p.small)
  | none :: as, _ :: bs, acc => dotRow anc as bs acc
  | _, _, acc => acc

/-- One step into the working accumulator. -/
def stepInto (o : Op) (a : List (List (Option (FVal × FVal)))) (b : List (List (FVal × FVal))) : Op :=
  (numbered a).foldl (fun o (m, row) => (numbered b).foldl (fun o (n, col) =>
    let e := m * 128 + n
    let (x, t, fl) := dotRow o.anchor row col (sget o.work e, sget o.wtag e, o.flags)
    { o with work := sset o.work e x, wtag := sset o.wtag e t, flags := fl }) o) o

/-- The width of a raft's registers as an operation captured them. -/
def State.opWidth (s : State) (o : Op) : Nat := match o.raft.bind s.raft? with
  | some r => r.width
  | none => 16

/-- MLOOP_STEP (R244): the elements read are those of products that are not omitted; a line among them that is empty
holds the step (R90). A step runs under a current reservation (R404). B registers that no later step reads are released. -/
def execMloopStep (op : Nat) (s : State) : Out :=
  .next (match s.op? op with
    | none => s
    | some o =>
      match o.instr with
      | .mloop _ =>
        if o.phase != 1 || !s.opGoes o || o.resv == 0 then s
        else
          let d := o.desc
          let w := s.opWidth o
          let core := match (o.place 1).1 with
            | .tile k => k
            | .virt _ => o.core
          let kv := mlK d o.pos
          let a := (List.range (mlMext d)).map (fun m => (List.range kv).map (fun k => o.aElem o.pos m k))
          let used (k : Nat) : Bool := a.any (fun row => row.getD k .omitted != .omitted)
          let b := (List.range (mlNext d)).map (fun n => (List.range kv).map (fun k => if used k then o.bElem w o.pos n k else .omitted))
          if (a ++ b).any (fun row => row.any (fun e => e.lines.any (fun l => s.emptyFor o.id core l))) then s
          else
            let o1 := stepInto o
              (a.map (fun row => row.map (fun e => if e = .omitted then none else some (s.melem core (mlAfmt d) e))))
              (b.map (fun row => row.map (s.melem core (mlBfmt d))))
            let later := ((if mlRegs d then mlRegsRead d w else []).filter (fun x => decide (o.pos < x.2))).map (·.1)
            s.setOp { o1.spend (if o.pos + 1 = mlSteps d then o.resv else 1) s.clock with
              pos := if o.pos + 1 = mlSteps d then 0 else o.pos + 1
              phase := if o.pos + 1 = mlSteps d then 2 else 1
              locks := o.locks.filter (fun x => later.contains x.2) }
      | _ => s)

/-! ### Runs of elements -/

/-- A run of an operation's units from the one it stands at, at most `fuel` of them: each is done whole, or stops the run. -/
def State.unitRun (one : Op → State → State × Op × ERes) (elem : Op → Nat) (last : Nat) : Nat → Op → State → State
  | 0, o, s => s.setOp o
  | fuel + 1, o, s =>
    if last ≤ o.pos then s.setOp o
    else
      match one o s with
      | (s1, o1, .done) => State.unitRun one elem last fuel ({ o1 with pos := o.pos + 1 }.spend 1 s1.clock) s1
      | (s1, o1, r) => s1.matrixStop o r 0xFFFF (elem o1)

/-- The home of a matrix operation lies in virtual memory. -/
def Op.homeVirt (o : Op) : Bool := match o.place 0 with
  | (.virt _, _) => true
  | _ => false
/-- One element of the working accumulator merged (R39). -/
def State.mergeElem (o : Op) (s : State) : State × Op × ERes :=
  let (s1, r) := s.elemUpdate o o.pos (fun x t => some (x + sget o.work o.pos, t ||| sget o.wtag o.pos, 0))
  (s1, o, r)

/-- FX64_MERGE (R39, R244): a run of elements of a loop's merge, of a length freely chosen. -/
def execFx64Merge (op : Nat) (s : State) : Out :=
  .next (match s.op? op with
    | none => s
    | some o =>
      match o.instr with
      | .mloop _ =>
        if o.phase == 2 && s.opGoes o && o.resv != 0 then
          let (n, s1) := s.draw
          State.unitRun State.mergeElem (fun o => o.pos) 16384 (1 + n % o.resv) o s1
        else s
      | _ => s)

/-- One 8-byte unit of MACC's image (R241). -/
def State.maccUnit (o : Op) (s : State) : State × Op × ERes :=
  let x := if o.pos = 0x21000 / 8 then (statusOf o.anchor).toNat else 0
  let (s1, r) := s.homeWrite o (8 * o.pos) (toBytes 8 x)
  (s1, o, r)

/-- The fields of an operation's instruction. -/
def matrixFields : Instr → AF
  | .macc f | .mloop f | .mdrain f | .mscale f | .mstat f | .wview f | .wpool f => f
  | _ => ⟨0, 0, 0, 0, 0, 0, 0⟩

/-- The rounding mode of a drained element (R33, R247). -/
def Op.drainMode (o : Op) (e : Nat) : Rnd :=
  let code := field (matrixFields o.instr).fn.toNat 2 0
  if code = 4 then .sr (srBits (o.ext.getD 1 0) (o.ext.getD 2 0) (o.ext.getD 3 0) (BitVec.ofNat 32 e) (o.ext.getD 0 0)) else Rnd.ofCode code
/-- The value of a drained element, scaled for the record (R43, R247). -/
def Op.drainVal (o : Op) (x : DWord) (t : BitVec 2) : FVal := Rec.scaleBy (-(o.brec 1).scale) (fx64Value o.anchor x t)

/-- Elements of the home read for a drain. -/
def State.drainRead (o : Op) : List Nat → State → State × ERes × List (DWord × BitVec 2)
  | [], s => (s, .done, [])
  | e :: es, s =>
    match s.elemRead o e .read with
    | (s1, .done, x, t) =>
      match State.drainRead o es s1 with
      | (s2, r, vs) => (s2, r, (x, t) :: vs)
    | (s1, r, _, _) => (s1, r, [])
/-- The result of a write to the destination, on its side of R259. -/
def ERes.onSide (side : Nat) : ERes → ERes
  | .fault cause _ addr => .fault cause side addr
  | r => r
/-- A run of codes written to the record; `amount` of the operation counts them (DEDUCED, log entry 48). -/
def State.drainWrite : List (Int × Nat) → Op → State → State × Op × ERes
  | [], o, s => (s, { o with amount := 0 }, .done)
  | (idx, code) :: rest, o, s =>
    match s.ferryWrite o idx code with
    | (s1, .done) => State.drainWrite rest { o with amount := o.amount + 1 } s1
    | (s1, r) => (s1, o, r.onSide 3)

/-- The columns of a drain's unit: one element, or a block of 32 of MX storage. -/
def Op.drainWidth (o : Op) : Nat := if isMx (o.brec 1).fmt then 32 else 1
/-- Row and first column of a drain's unit. -/
def Op.drainAt (o : Op) : Nat × Nat := (o.pos * o.drainWidth / mdCols o.desc, o.pos * o.drainWidth % mdCols o.desc)
/-- One unit of MDRAIN (R43, R247). -/
def State.drainUnit (o : Op) (s : State) : State × Op × ERes :=
  let o := { o with amount := 0 }
  let r := o.brec 1
  let (i, j) := o.drainAt
  let es := (List.range o.drainWidth).map (fun k => i * 128 + j + k)
  let idx (k : Nat) : Int := o.sw 3 + (j + k : Nat) + (i * r.ext0 : Nat)
  match State.drainRead o es s with
  | (s1, .done, xs) =>
    let o1 := { o with flags := xs.foldl (fun fl (x, t) => fl ||| suspectFlag x t) o.flags }
    let vs := xs.map (fun (x, t) => o.drainVal x t)
    if isMx r.fmt then
      let fmt := match storeFmt r.fmt with
        | .flt f => f
        | .int _ _ => .e4m3
      let (e, codes) := mxBlock fmt (fun k => o.drainMode (i * 128 + j + k)) vs
      match settleIndex r (idx 0) false with
      | none => (s1, o1, .done)
      | some x =>
        let sp := spotOf (o.place 1) r x
        match s1.engineWrite o sp.space sp.scale [BitVec.ofNat 8 e] 3 with
        | (s2, .done) => State.drainWrite ((numbered codes).map (fun (k, c) => (idx k, c))) o1 s2
        | (s2, q) => (s2, o1, q)
    else
      let code := Rec.toFmt (storeFmt r.fmt) (o.drainMode (i * 128 + j)) ((matrixFields o.instr).fn.getLsbD 3) (vs.headD .nan)
      State.drainWrite [(idx 0, code)] o1 s1
  | (s1, q, _) => (s1, o, q)

/-- R248's step on one element; the factor f. -/
def scaleElem (f : FVal) (x : DWord) (t : BitVec 2) : Option (DWord × BitVec 2 × Fx64Flags) :=
  if t = 3 then none
  else if t = 0 then
    match f with
    | .nan => some (0, 3, 0)
    | .inf sg => some (0, if x = 0 then 3 else tagInf (decide (x.toInt < 0) != sg), 0)
    | .fin _ _ _ =>
      let p := fx64Grid 0 ((FVal.fin (decide (x.toInt < 0)) x.toInt.natAbs 0).mul f)
      some (p.x, 0, fxFlags p.sat p.small)
  else
    match f with
    | .nan => some (0, 3, 0)
    | .inf sg => some (0, tagInf ((t == 2) != sg), 0)
    | .fin sg n _ => some (0, if n = 0 then 3 else tagInf ((t == 2) != sg), 0)
/-- One element of MSCALE (R248). -/
def State.scaleUnit (o : Op) (s : State) : State × Op × ERes :=
  let i := o.pos / 128
  let go (st : State) (raw : Nat) : State × Op × ERes :=
    let (s1, r) := st.elemUpdate o o.pos (scaleElem (FFmt.fp32.value raw))
    (s1, o, r)
  if (matrixFields o.instr).fn.getLsbD 0 then go s (sget o.vals i).toNat
  else
    let p := o.place 1
    match s.engineRead o p.1 (p.2 + 4 * i) 4 3 with
    | (s1, .done, b) => go s1 (ofBytes b)
    | (s1, r, _) => (s1, o, r)

/-- The taps of WPOOL for pixel p and channel ch, each with whether it is in bounds (R255). -/
def poolTaps (v : List Word) (base p ch : Nat) : List (MElem × Bool) :=
  (List.range (vw v 2 15 8)).flatMap (fun r => (List.range (vw v 2 7 0)).map (fun sx => tapAt v base p r sx ch))
/-- An exact sum: NaN, an infinity, or a signed integer over 2^low. -/
def exactSum (vs : List FVal) : FVal :=
  if vs.any (· == .nan) || (vs.any (· == .inf false) && vs.any (· == .inf true)) then .nan
  else if vs.any (· == .inf false) then .inf false
  else if vs.any (· == .inf true) then .inf true
  else
    let low := lowExp vs
    let t := (vs.map (·.over low)).foldl (· + ·) (0 : Int)
    .fin (decide (t < 0)) t.natAbs low
/-- The largest of some values. -/
def largest : List FVal → FVal
  | [] => .nan
  | v :: vs => vs.foldl (fun m x => if m.lt x then x else m) v
/-- A pooled element (R255): values in bounds and, for FN 1, of padding. -/
def poolElem (fn : Nat) (anc : Int) (taps : Nat) (ins pads : List FVal) : DWord × BitVec 2 × Fx64Flags :=
  let none_ : Fx64Flags := if ins.isEmpty then emptyFlag else 0
  let settle (v : FVal) (d : Nat) : DWord × BitVec 2 × Fx64Flags :=
    match v with
    | .nan => (0, 3, none_)
    | .inf sg => (0, tagInf sg, none_)
    | .fin sg n e =>
      let p := fx64Quot anc sg n d e
      (p.x, 0, none_ ||| fxFlags p.sat p.small)
  match fn with
  | 0 => if ins.isEmpty then (0, tagInf true, none_) else if ins.any (· == .nan) then (0, 3, 0) else settle (largest ins) 1
  | 1 => settle (exactSum (ins ++ pads)) taps
  | _ => if ins.isEmpty then (0, 0, none_) else settle (exactSum ins) ins.length
/-- One element of WPOOL (R255). -/
def State.poolUnit (o : Op) (s : State) : State × Op × ERes :=
  let d := o.desc
  let v := o.ext
  let cols := vw d 3 8 2 + 1
  let i := o.pos / cols
  let j := o.pos % cols
  let p := vw d 2 31 8 + i
  let ch := vw d 3 31 16 + j
  let fn := field (matrixFields o.instr).fn.toNat 1 0
  if vw v 3 31 16 * vw v 3 15 0 ≤ p ∨ vw v 2 31 16 ≤ ch then (s, o, .done)
  else
    let core := match (o.place 1).1 with
      | .tile k => k
      | .virt _ => o.core
    let taps := poolTaps v (o.place 1).2 p ch
    let read := taps.filter (fun t => t.2 || (fn == 1 && t.1 != .omitted))
    if read.any (fun t => t.1.lines.any (fun l => s.emptyFor o.id core l)) then (s, o, .wait)
    else
      let val (t : MElem × Bool) : FVal := (s.melem core (viewFmt v) t.1).1
      let (s1, r) := s.elemUpdate o (i * 128 + j) (fun _ _ =>
        some (poolElem fn o.anchor taps.length ((read.filter (·.2)).map val) ((read.filter (fun t => !t.2)).map val)))
      (s1, o, r)

/-! ### Completion (R92, R257, R258) -/

/-- The operation's last status update, where it makes one, and its end (DEDUCED, log entry 34). -/
def State.matrixEnd (s : State) (o : Op) : State :=
  match o.instr with
  | .mloop _ | .mdrain _ =>
    match s.statusUpdate o o.flags with
    | (s1, .done) => s1.finishOp o.id
    | (s1, r) => s1.matrixStop o r 0xFFFF 0
  | _ => s.finishOp o.id

/-- The units of an operation other than MLOOP and MSTAT. -/
def Op.units (o : Op) : Nat :=
  match o.instr with
  | .macc _ => imageBytes / 8
  | .mdrain _ => mdRows o.desc * mdCols o.desc / o.drainWidth
  | .mscale _ => 16384
  | .wpool _ => (vw o.desc 3 15 9 + 1) * (vw o.desc 3 8 2 + 1)
  | _ => 16384

/-- A run of an operation that has started, or its end. -/
def State.matrixWork (s : State) (o : Op) : State :=
  if o.units ≤ o.pos then s.matrixEnd o
  else if o.resv = 0 then s
  else
    let (n, s1) := s.draw
    let fuel := 1 + n % o.resv
    match o.instr with
    | .macc _ => State.unitRun State.maccUnit (fun _ => 0) o.units fuel o s1
    | .mdrain _ => State.unitRun State.drainUnit (fun o => o.drainAt.1 * 128 + o.drainAt.2 + o.amount) o.units fuel o s1
    | .mscale _ => State.unitRun State.scaleUnit (fun o => o.pos) o.units fuel o s1
    | .wpool _ => State.unitRun State.poolUnit (fun o => o.pos / (vw o.desc 3 8 2 + 1) * 128 + o.pos % (vw o.desc 3 8 2 + 1)) o.units fuel o s1
    | _ => s

/-- MSTAT reads the status and writes D (R249). -/
def State.mstatRead (s : State) (o : Op) : State :=
  match s.homeRead o 0x21000 8 .read with
  | (s1, .done, b) =>
    let s2 := match o.raft, o.dest with
      | some rid, some d => s1.deliver rid d (fun _ => [BitVec.ofNat 32 (ofBytes b)])
      | _, _ => s1
    s2.finishOp o.id
  | (s1, r, _) => s1.matrixStop o r 0xFFFF 0

/-- MATRIX_COMPLETE (R92, R237): an operation in its turn starts, does a run of its work, or, with all its work done,
completes. -/
def execMatrixComplete (op : Nat) (s : State) : Out :=
  .next (match s.op? op with
    | none => s
    | some o =>
      if o.cls != 0 || !s.opGoes o then s
      else
        match o.instr with
        | .mloop _ => if o.phase == 2 && decide (16384 ≤ o.pos) && (!o.homeVirt || o.resv != 0) then s.matrixEnd o else s
        | .mstat _ => if s.startTurn o then s.mstatRead o else s
        | .mdrain _ | .wpool _ =>
          if o.phase == 0 then (if s.startTurn o then s.readAnchor o { o with phase := 1, asked := s.clock } else s) else s.matrixWork o
        | .macc _ | .mscale _ =>
          if o.phase == 0 then (if s.startTurn o then s.setOp { o with phase := 1, asked := s.clock } else s) else s.matrixWork o
        | _ => s)

/-- MATRIX_RESUME (R257): a suspended operation rejoins the order when its page is resident; a loop left with its merge
into a virtual home goes on although its team is stowed (R260). -/
def execMatrixResume (op : Nat) (s : State) : Out :=
  .next (match s.op? op with
    | none => s
    | some o =>
      if o.cls != 0 then s
      else
        match o.instr, o.susp with
        | .mloop _, some va => if o.phase == 2 && !s.opDying o && !s.absent o.asid va then s.setOp { o with susp := none, replay := false } else s.resumeOp o
        | _, _ => s.resumeOp o)

end Sys2Proof.Machine
end

