-- ==== Sys2Proof/Machine/Render.lean ====
section
/-!
DEFINITION. The tile and ray engines (chapter 11): passes and the list engine, the tile broker, the visibility sampler,
the blend unit and the traversal unit.
-/

namespace Sys2Proof.Machine

open Sys2Proof

/-! ### Exact numbers -/

def Ratio.ofInt (x : Int) : Ratio := ⟨x, 1⟩
def Ratio.add (a b : Ratio) : Ratio := ⟨a.n * b.d + b.n * a.d, a.d * b.d⟩
def Ratio.sub (a b : Ratio) : Ratio := ⟨a.n * b.d - b.n * a.d, a.d * b.d⟩
def Ratio.mul (a b : Ratio) : Ratio := ⟨a.n * b.n, a.d * b.d⟩
def Ratio.lt (a b : Ratio) : Bool := decide (a.n * b.d < b.n * a.d)
def Ratio.le (a b : Ratio) : Bool := decide (a.n * b.d ≤ b.n * a.d)
/-- n / d of integers, d ≠ 0. -/
def Ratio.quot (n d : Int) : Ratio := ⟨if d < 0 then -n else n, d.natAbs⟩
/-- Rounded once to a format, RNE. -/
def Ratio.round (f : FFmt) (a : Ratio) : Nat := f.roundQ .rne false (decide (a.n < 0)) a.n.natAbs a.d

/-- The unit of every FP32 value is 2^-149: a finite code as that many units. -/
def unit149 : Nat := 2 ^ 149
def FFmt.units (f : FFmt) (code : Nat) : Int := (f.value code).over (-149)
/-- A code has a finite value. -/
def FFmt.isFinite (f : FFmt) (code : Nat) : Bool := match f.value code with
  | .fin _ _ _ => true
  | _ => false
/-- A code clamped between two bounds, in units; a NaN reads as 0 (R314). -/
def FFmt.clampUnits (f : FFmt) (lo hi : Int) (code : Nat) : Int :=
  match f.value code with
  | .nan => 0
  | .inf neg => if neg then lo else hi
  | v => clampInt lo hi (v.over (-149))

/-! ### Operations of wait class 2 (R304 to R306) -/

/-- The fields of a render instruction. -/
def renderFields : Instr → AF
  | .emit f | .tileget f | .tiledone f | .vis f | .blend f | .trace f => f
  | _ => ⟨0, 0, 0, 0, 0, 0, 0⟩
/-- The address in the first two words of a descriptor. -/
def passVa (d : List Word) : Nat := (d.getD 0 0).toNat + 2 ^ 32 * (d.getD 1 0).toNat
def Op.passVa (o : Op) : Nat := Machine.passVa o.desc

/-- A new operation with the tags that R306 gives it. The spec gives the render units' input queues (R17) no capacity, and here they
never fill (DESIGN CHOICE, log entry 116). -/
def Ctx.acceptTagged (_c : Ctx) (s : State) (o : Op) (tags : BitVec 8) (after : State → State) : Res :=
  Ctx.enter s { o with tags := tags } (2 ^ 32) [] after

/-- The detail of a render fault (R334). -/
def renderDetail (o : Op) (item side addr : Nat) (lanes : LaneMask) : List Byte :=
  toBytes 8 o.pc.toNat ++ toBytes 8 (item % 2 ^ 32 * 2 ^ 32 + o.slot % 16 * 2 ^ 28 + (opOf o.word).toNat * 2 ^ 16 + side) ++
  toBytes 8 addr ++ toBytes 8 lanes.toNat
/-- A render operation fails (R179, R334). -/
def State.failRender (s : State) (o : Op) (cause item side addr : Nat) (lanes : LaneMask) : State :=
  s.failOp o cause addr (renderDetail o item side addr lanes)
/-- The results of a render operation in its destination. -/
def State.renderResult (s : State) (o : Op) (val : Nat → List Word) : State :=
  match o.raft, o.dest with
  | some rid, some d => s.deliver rid d val
  | _, _ => s

/-- The checks of a pass address (R305, checks 2 and 3): the cause. -/
def passCheck (va : Nat) : Option Nat := if !canonical va then some 5 else if va % 128 ≠ 0 then some 7 else none
/-- The grant that a team holds, named by the pass and TX, TY of a grant word (R308). -/
def State.grantOf (s : State) (t : Team) (va : Nat) (word : Word) : Option Grant :=
  s.grants.find? (fun g => g.team == t.id && !g.retiring && g.asid == t.asid && g.pass == va &&
    g.tx == field word.toNat 8 0 && g.ty == field word.toNat 17 9)

/-! ### Passes (R297, R298) -/

def State.pass? (s : State) (asid va : Nat) : Option Pass := s.passes.find? (fun p => p.asid == asid && p.addr == va)
def State.setPass (s : State) (p : Pass) : State := { s with passes := s.passes.map (fun x => if x.id = p.id then p else x) }

/-- A pass object as read, if it is sound (R297). -/
def passOf (id asid va : Nat) (b : List Byte) : Option Pass :=
  let w (o n : Nat) := ofBytes ((b.drop o).take n)
  let arena := w 0 8
  let n := w 8 4
  let g := w 0x10 8
  if canonical arena && arena % 65536 == 0 && w 0xC 4 == 0 && n != 0 && n % 65536 == 0 && field g 63 51 == 0 && field g 47 32 != 0 &&
      field g 31 16 != 0 && decide (field g 31 16 ≤ 512) && field g 15 0 != 0 && decide (field g 15 0 ≤ 512) && (b.drop 0x18).all (· == 0) then
    some { id := id, asid := asid, addr := va, arena := arena, bytes := n, die := field g 50 48, emitters := field g 47 32
           tilesX := field g 15 0, tilesY := field g 31 16, seg := 0, seq := 0, closed := 0, used := 0, prims := [], phase := 0
           avail := [], given := [], by_ := [], prevBy := [], last := [] }
  else none

/-- The part's own write into a pass object (R298), for an operation where one makes it: done, or dropped where the page
bars it; else what it waits for. The operation's raft reads the object afresh (R88). -/
def State.passWrite (s : State) (p : Pass) (who : Option Op) (off : Nat) (bytes : List Byte) : State × ERes :=
  match s.writeAt p.asid (p.addr + off) bytes with
  | (s1, .ok) => (who.elim s1 (fun o => s1.dropWritten o (p.addr + off) bytes.length), .done)
  | (s1, .fault _) => (s1, .done)
  | (s1, v) => (s1, v.asERes 2 p.addr)

/-- Every tile of the screen, by rising TY, then TX. -/
def Pass.tiles (p : Pass) : List (Nat × Nat) := (List.range p.tilesY).flatMap (fun y => (List.range p.tilesX).map (fun x => (x, y)))
/-- A primitive is listed in a tile (R301). -/
def Prim.inTile (q : Prim) (x y : Nat) : Bool := match q.box with
  | none => false
  | some (x0, x1, y0, y1) => decide (x0 ≤ x) && decide (x ≤ x1) && decide (y0 ≤ y) && decide (y ≤ y1)
def Prim.tileCount (q : Prim) : Nat := match q.box with
  | none => 0
  | some (x0, x1, y0, y1) => (x1 + 1 - x0) * (y1 + 1 - y0)

/-- A segment is closed (R302): the tiles it lists, or every tile for the final one, become available. -/
def Pass.close (p : Pass) (final : Bool) : Pass :=
  { p with
    phase := if final then 2 else 1
    avail := if final then p.tiles else p.tiles.filter (fun t => p.prims.any (fun q => q.inTile t.1 t.2))
    prevBy := p.by_, by_ := [] }

/-! ### Primitive records (R300, R301) -/

/-- A 4-byte word of a record. -/
def recWord (b : List Byte) (o : Nat) : Nat := ofBytes ((b.drop o).take 4)
/-- Word k of vertex v: X0, Y0, Z0, X1, Y1, Z1, COC. -/
def vertWord (b : List Byte) (v k : Nat) : Nat := recWord b (0x10 + 32 * v + 4 * k)
/-- Flags of a record. -/
def primMoving (b : List Byte) : Bool := bit (recWord b 4) 0
def primDof (b : List Byte) : Bool := bit (recWord b 4) 1
def primCull (b : List Byte) : Nat := field (recWord b 4) 3 2
def primTransp (b : List Byte) : Bool := bit (recWord b 4) 4
/-- A record keeps R300. -/
def primOk (b : List Byte) : Bool :=
  field (recWord b 4) 31 5 == 0 && primCull b != 3 && ofBytes ((b.drop 8).take 8) == 0 &&
  (List.range 3).all (fun v => vertWord b v 7 == 0) && (b.drop 0x70).all (· == 0)

/-- The tile columns and rows of a primitive's box on a screen; none where it is listed in no tile (R301)
(DEDUCED, log entry 53) (DEDUCED, log entry 54). -/
def primBox (b : List Byte) (tilesX tilesY : Nat) : Option (Nat × Nat × Nat × Nat) :=
  let ks := [0, 1, 2] ++ (if primMoving b then [3, 4, 5] else []) ++ (if primDof b then [6] else [])
  let words := (List.range 3).flatMap (fun v => ks.map (vertWord b v))
  let cocs := (List.range 3).map (fun v => FFmt.fp32.units (vertWord b v 6))
  if !words.all FFmt.fp32.isFinite || (primDof b && cocs.any (fun c => decide (c < 0))) then none
  else
    let wide : Int := if primDof b then cocs.foldl max 0 else 0
    let axis (k n : Nat) : Option (Nat × Nat) :=
      let cs := (List.range 3).flatMap (fun v => FFmt.fp32.units (vertWord b v k) :: (if primMoving b then [FFmt.fp32.units (vertWord b v (k + 3))] else []))
      let lo := (cs.foldl min (cs.headD 0) - wide) / (32 * unit149 : Nat)
      let hi := (cs.foldl max (cs.headD 0) + wide) / (32 * unit149 : Nat)
      if hi < 0 ∨ (n : Int) ≤ lo then none else some ((max 0 lo).toNat, (min ((n - 1 : Nat) : Int) hi).toNat)
    match axis 0 tilesX, axis 1 tilesY with
    | some (x0, x1), some (y0, y1) => some (x0, x1, y0, y1)
    | _, _ => none

/-! ### EMIT (R299, R302, R307) -/

def emitPrims (d : List Word) : Nat := (d.getD 2 0).toNat + 2 ^ 32 * (d.getD 3 0).toNat
def emitCount (d : List Word) : Nat := (d.getD 4 0).toNat

/-- EMIT at issue (R305, R307) (DEDUCED, log entry 39). -/
def execEmit (f : AF) (s : State) : Out :=
  issue (.emit f) s (fun s1 c =>
    let d := c.swords f.a 8
    let va := passVa d
    let prims := emitPrims d
    let n := emitCount d
    if (d.drop 5).any (· != 0) || prims % 128 != 0 || decide (65536 < n) then .trap 31 c.active 0 0
    else if !canonical va then .trap 5 c.active va 0
    else if !(canonical prims && (n == 0 || canonical (prims + 128 * n - 1))) then .trap 5 c.active prims 0
    else if va % 128 ≠ 0 then .trap 7 c.active va 0
    else
      c.acceptTagged s1 { c.newOp s1 (.emit f) 2 with
        desc := d, amount := n, dest := if Kind.of f.d = .scl then some ⟨f.d, 1, c.active, true, 384⟩ else none } 0xFF id)

def isEmit : Instr → Bool
  | .emit _ => true
  | _ => false
/-- The EMITs at a pass's list engine, other than one. -/
def State.emitsAt (s : State) (o : Op) : List Op :=
  s.ops.filter (fun x => x.id != o.id && isEmit x.instr && x.fault.isNone && x.asid == o.asid && x.passVa == o.passVa)

/-- An EMIT reaches its pass: SEQ is advanced and its records follow; after the final segment they do not (R307). -/
def State.emitArrive (s : State) (o : Op) (p : Pass) : State :=
  let next := p.seq + BitVec.ofNat 32 o.amount
  match s.passWrite p (some o) 0x18 (toBytes 4 next.toNat ++ toBytes 4 p.seg) with
  | (s1, .done) =>
    let w := sset (sset [] 0 (BitVec.ofNat 64 p.seq.toNat)) 5 1
    (s1.setPass { p with seq := next }).setOp
      (if p.phase = 2 then { o with phase := 2, work := sset (sset (sset w 1 34) 3 (BitVec.ofNat 64 p.addr)) 4 2 } else { o with phase := 1, work := w })
  | (s1, .moor va) => s1.suspendOp o va
  | (s1, _) => s1

/-- An EMIT that finds its pass closed opens it (R298). -/
def State.emitOpen (s : State) (o : Op) : State :=
  let va := o.passVa
  let failed (st : State) (cause : Nat) : State :=
    { (st.failRender o cause 0 2 va 0) with passEnds := (o.asid, va) :: st.passEnds.filter (fun x => x != (o.asid, va)) }
  if 64 ≤ s.passes.length then s
  else
    match s.readAt o.asid va 128 .read with
    | (s1, .ok, b) =>
      match s1.ensure o.asid va .write with
      | (s2, .ok) =>
        match passOf s2.nextId o.asid va b with
        | none => failed s2 31
        | some p =>
          ({ s2 with passes := s2.passes ++ [p], nextId := s2.nextId + 1, passEnds := s2.passEnds.filter (fun x => x != (o.asid, va)) } : State).emitArrive o p
      | (s2, .moor) => s2.suspendOp o va
      | (s2, .fault k) => failed s2 k
      | (s2, .wait) => s2
    | (s1, .moor, _) => s1.suspendOp o va
    | (s1, .fault k, _) => failed s1 k
    | (s1, .wait, _) => s1

/-- A failing record: it and those after it are not listed (R307). -/
def Op.listFault (o : Op) (cause side addr : Nat) : Op :=
  { o with phase := 2, work := sset (sset (sset (sset o.work 1 (BitVec.ofNat 64 cause)) 2 (BitVec.ofNat 64 o.pos)) 3 (BitVec.ofNat 64 addr)) 4 (BitVec.ofNat 64 side) }

/-- A run of records listed, at most `fuel` of them; it ends where a segment must be closed (R302, R307). -/
def State.listRun (o : Op) : Nat → State → State
  | 0, s => s.setOp o
  | fuel + 1, s =>
    match s.pass? o.asid o.passVa with
    | none => s.setOp { o with phase := 2 }
    | some p =>
      if p.phase = 1 then s.setOp o
      else if o.amount ≤ o.pos then s.setOp { o with phase := 2 }
      else
        let va := emitPrims o.desc + 128 * o.pos
        if s.writtenAhead o va 128 then s.setOp o
        else match s.readAt o.asid va 128 .read with
        | (s1, .ok, b) =>
          if !primOk b then s1.setOp (o.listFault 32 0 va)
          else
            let q : Prim := ⟨BitVec.ofNat 32 ((sget o.work 0).toNat + o.pos), b, primBox b p.tilesX p.tilesY⟩
            let room := p.bytes - 32 * p.tilesX * p.tilesY
            let bound := 96 + 16 * q.tileCount
            if room < bound then s1.setOp (o.listFault 33 2 p.arena)
            else if room < p.used + bound then (s1.setPass (p.close false)).setOp o
            else State.listRun { o with pos := o.pos + 1 } fuel (s1.setPass { p with used := p.used + bound, prims := p.prims ++ [q] })
        | (s1, .moor, _) => s1.suspendOp o va
        | (s1, .fault k, _) => s1.setOp (o.listFault k 0 va)
        | (s1, .wait, _) => s1.setOp o

/-- The end of an EMIT: a closing one counts, and may close the final segment; D receives q; a fault is deferred. -/
def State.emitEnd (s : State) (o : Op) : State :=
  let finish (st : State) : State :=
    let s1 := st.renderResult o (fun _ => [BitVec.ofNat 32 (sget o.work 0).toNat])
    let cause := (sget o.work 1).toNat
    if cause = 0 then s1.finishOp o.id
    else s1.failRender { o with dest := none } cause (sget o.work 2).toNat (sget o.work 4).toNat (sget o.work 3).toNat 0
  match (renderFields o.instr).fn.getLsbD 0, s.pass? o.asid o.passVa with
  | true, some p =>
    let n := p.closed + 1
    match s.passWrite p (some o) 0x20 (toBytes 4 n ++ toBytes 4 0) with
    | (s1, .done) =>
      let p1 := { p with closed := n }
      finish (s1.setPass (if n = p.emitters ∧ p.phase ≠ 2 then p1.close true else p1))
    | (s1, .moor va) => s1.suspendOp o va
    | (s1, _) => s1
  | _, _ => finish s

/-- LIST_PROCESS: an EMIT arrives at the list engine, after its raft's earlier EMITs of its pass and behind those at its
pass; a run of its records is listed; or it ends (R299, R302, R307). What one pass waits for holds no other's EMITs (R298). -/
def execListProcess (op : Nat) (s : State) : Out :=
  .next (match s.op? op with
    | none => s
    | some o =>
      if !isEmit o.instr || !s.opGoes o then s
      else
        match o.phase with
        | 0 =>
          if s.ops.any (fun x => isEmit x.instr && x.fault.isNone && x.raft == o.raft && x.asid == o.asid && x.passVa == o.passVa &&
                decide (x.id < o.id) && x.phase == 0) ||
              (s.emitsAt o).any (fun x => x.phase != 0) then s
          else match s.pass? o.asid o.passVa with
            | some p => s.emitArrive o p
            | none => s.emitOpen o
        | 1 =>
          let (n, s1) := s.draw
          match s.pass? o.asid o.passVa with
          | some p => if p.phase = 1 then s else State.listRun o (1 + n % (o.amount + 1)) s1
          | none => State.listRun o 1 s1
        | _ => s.emitEnd o)

/-- SEGMENT_OPEN (R302): the closed segment's tiles are all retired; the next segment begins. -/
def execSegmentOpen (passId : Nat) (s : State) : Out :=
  .next (match s.passes.find? (fun p => p.id == passId) with
    | none => s
    | some p =>
      if p.phase != 1 || !p.avail.isEmpty then s
      else
        match s.passWrite p none 0x18 (toBytes 4 p.seq.toNat ++ toBytes 4 (p.seg + 1)) with
        | (s1, .done) => s1.setPass { p with phase := 0, seg := p.seg + 1, used := 0, prims := [] }
        | (s1, _) => s1)

/-! ### The tile broker (R308 to R312) -/

/-- TILEGET at issue (R305, R309). -/
def execTileget (f : AF) (s : State) : Out :=
  issue (.tileget f) s (fun s1 c =>
    let d := c.swords f.a 2
    let va := passVa d
    let pending := s1.ops.filter (fun o => o.team == some c.t.id && (match o.instr with | .tileget _ => true | _ => false))
    match passCheck va with
    | some cause => .trap cause c.active va 0
    | none =>
      if 2 ≤ (s1.grants.filter (fun g => g.team == c.t.id && !g.retiring)).length + pending.length then .trap 36 c.active 0 0
      else c.acceptTagged s1 { c.newOp s1 (.tileget f) 2 with desc := d, dest := some ⟨f.d, 2, c.active, true, 384⟩ } 1 id)

/-- The tiles of a pass that no team holds (R309). -/
def State.freeTiles (s : State) (p : Pass) : List (Nat × Nat) :=
  p.avail.filter (fun t => !(s.grants ++ s.regrants).any (fun g => g.asid == p.asid && g.pass == p.addr && g.tx == t.1 && g.ty == t.2))
/-- The broker's choice for a core (R310). -/
def State.pickTile (s : State) (p : Pass) (core : Nat) : Option (Nat × Nat) :=
  let near : Nat × Nat → Bool := fun t => (p.last.filter (fun x => x.1 == core)).any (fun (_, (x, y)) =>
    (t.1 == x && (t.2 + 1 == y || t.2 == y + 1)) || (t.2 == y && (t.1 + 1 == x || t.1 == x + 1)))
  leastByKeys (fun (t : Nat × Nat) => [if p.prevBy.contains (t, core) = true then 0 else if near t = true then 1 else 2, t.2, t.1]) (s.freeTiles p)

/-- Thermal headroom of a core's cluster. -/
def State.headroomOf (s : State) (core : Nat) : Nat := ((s.clusters[core / 4]?).map (·.headroom.toNat)).getD 0
/-- Another TILEGET of the same pass is served first (R310). -/
def State.servedFirst (s : State) (o : Op) : Bool :=
  s.ops.any (fun x => (match x.instr with | .tileget _ => true | _ => false) && x.id != o.id && x.asid == o.asid && x.passVa == o.passVa &&
    (decide (s.headroomOf o.core < s.headroomOf x.core) || (s.headroomOf o.core == s.headroomOf x.core && decide (x.id < o.id))))

/-- TILEGET's results, and its end. -/
def State.tilegetEnd (s : State) (o : Op) (word : Nat) (seg : Nat) : State :=
  (s.renderResult o (fun _ => [BitVec.ofNat 32 word, BitVec.ofNat 32 seg])).finishOp o.id
/-- A tile is given: an acquire at device scope (R309), whose L1 lines drop now; what its raft issues before it has waited
for the TILEGET is not held behind it (DEDUCED, log entry 120). -/
def State.giveTile (s : State) (o : Op) (g : Grant) : State :=
  let s1 : State := { s with grants := s.grants ++ [g], nextId := s.nextId + 1 }
  let s2 := match o.raft.bind s1.raft? with
    | some r => s1.acquireDrop r o.asid 4 0xFF
    | none => s1
  s2.tilegetEnd o (g.tx + 512 * g.ty + (if g.reload then 2 ^ 29 else 0) + (if g.part then 2 ^ 30 else 0)) g.seg

/-- TILE_GRANT (R309, R310, R312). A TILEGET of a team that has been killed takes no tile. -/
def execTileGrant (op : Nat) (s : State) : Out :=
  .next (match s.op? op with
    | none => s
    | some o =>
      match o.instr, o.team with
      | .tileget f, some tid =>
        if !s.opGoes o then s
        else if ((s.team? tid).map (fun t => t.dying.isSome || t.ended)).getD true then s.dropOp op
        else
          match s.pass? o.asid o.passVa with
          | none => if s.passEnds.contains (o.asid, o.passVa) then s.tilegetEnd o (2 ^ 31) 0 else s
          | some p =>
            match s.regrants.find? (fun g => g.asid == p.asid && g.pass == p.addr), s.pickTile p o.core with
            | some g, _ =>
              if s.servedFirst o then s
              else ({ s with regrants := s.regrants.filter (fun x => x != g) } : State).giveTile o { g with id := s.nextId, team := tid, core := o.core }
            | none, some (x, y) =>
              if s.servedFirst o then s
              else
                (s.setPass { p with given := (p.seg, x, y) :: p.given }).giveTile o
                  { id := s.nextId, team := tid, core := o.core, asid := p.asid, pass := p.addr, tx := x, ty := y, seg := p.seg, part := p.phase == 1
                    reload := p.given.any (fun t => t.1 != p.seg && t.2 == (x, y)), retiring := false }
            | none, none => if f.fn.getLsbD 0 then s.tilegetEnd o (2 ^ 28) 0 else s
      | _, _ => s)

/-- TILEDONE at issue (R305, R311): the team stops holding the grant. Its release moors or traps the raft as any does (R93,
R416). -/
def execTiledone (f : AF) (s : State) : Out :=
  issue (.tiledone f) s (fun s1 c =>
    let d := c.swords f.a 3
    let va := passVa d
    match passCheck va, s1.grantOf c.t va (d.getD 2 0) with
    | some cause, _ => .trap cause c.active va 0
    | none, none => .trap 35 c.active 0 0
    | none, some g =>
      (worst (s1.releaseWork c.r.id 0xFF)).atRelease.orElse s1
        (c.acceptTagged s1 { c.newOp s1 (.tiledone f) 2 with desc := d, amount := g.id } 1 (fun st =>
          { st with grants := st.grants.map (fun x => if x.id = g.id then { x with retiring := true } else x) })))

/-- A tile is retired for its segment; the last one of the final segment completes the pass (R302, R303, R311). -/
def State.retireTile (s : State) (o : Op) (g : Grant) (p : Pass) : State :=
  let left := p.avail.filter (fun t => t != (g.tx, g.ty))
  let gone (st : State) : State := ({ st with grants := st.grants.filter (fun x => x.id != g.id) } : State).finishOp o.id
  if p.phase = 2 ∧ left = [] then
    match s.passWrite p (some o) 0x20 (toBytes 4 p.closed ++ toBytes 4 1) with
    | (s1, .done) =>
      gone { s1 with passes := s1.passes.filter (fun x => x.id != p.id), passEnds := (p.asid, p.addr) :: s1.passEnds }
    | (s1, .moor va) => s1.suspendOp o va
    | (s1, _) => s1
  else
    gone (s.setPass { p with
      avail := left, by_ := ((g.tx, g.ty), g.core) :: p.by_
      last := (g.core, (g.tx, g.ty)) :: p.last.filter (fun x => x.1 != g.core) })

/-- A VIS of a grant is in flight, and has still to expect its fragments or to fill its planes (R318, R319). -/
def State.visOf (s : State) (grant : Nat) : Bool := s.ops.any (fun o => o.amount == grant && (match o.instr with
  | .vis _ => true
  | _ => false))
/-- TILE_RETIRE (R311): after the release of TILEDONE, and once every expected fragment of the grant has been retired. A VIS of
the grant by another raft of the team, which has still to expect its fragments, ends first (DEDUCED, log entry 115). -/
def execTileRetire (op : Nat) (s : State) : Out :=
  .next (match s.op? op with
    | none => s
    | some o =>
      match o.instr with
      | .tiledone _ =>
        if !s.opGoes o || s.olderWork o 0xFF || s.frags.any (fun f => f.grant == o.amount) || s.visOf o.amount then s
        else
          match s.grants.find? (fun g => g.id == o.amount) with
          | none => s.finishOp op
          | some g =>
            match s.pass? g.asid g.pass with
            | none => ({ s with grants := s.grants.filter (fun x => x.id != g.id) } : State).finishOp op
            | some p => s.retireTile o g p
      | _ => s)

/-! ### VIS (R313 to R320) -/

/-- The fields of a VIS descriptor. -/
def visSpp (d : List Word) : Nat := field (d.getD 3 0).toNat 31 28 + 1
def visStidx (d : List Word) : Nat := field (d.getD 3 0).toNat 27 22
def visClear (d : List Word) : Bool := bit (d.getD 3 0).toNat 21
def visStab (d : List Word) : Nat := field (d.getD 3 0).toNat 20 0
def visRot (d : List Word) : Bool := bit (d.getD 4 0).toNat 25
def visTransp (d : List Word) : Bool := bit (d.getD 4 0).toNat 24
def visDtest (d : List Word) : Nat := field (d.getD 4 0).toNat 23 21
def visDplane (d : List Word) : Nat := field (d.getD 4 0).toNat 20 0
def visRs (d : List Word) : Nat := field (d.getD 5 0).toNat 31 24
def visPlane (d : List Word) : Nat := field (d.getD 5 0).toNat 20 0
def visPstart (d : List Word) : Nat := field (d.getD 6 0).toNat 22 13
def visFcap (d : List Word) : Nat := field (d.getD 6 0).toNat 12 0
def visFstart (d : List Word) : Nat := (d.getD 7 0).toNat

/-- R313's fates. -/
def visDescOk (d : List Word) : Bool :=
  visStab d % 128 == 0 && visDplane d % 128 == 0 && visPlane d % 128 == 0 && field (d.getD 4 0).toNat 31 26 == 0 && decide (visDtest d ≤ 2) &&
  field (d.getD 5 0).toNat 23 21 == 0 && field (d.getD 6 0).toNat 31 23 == 0 &&
  (if visTransp d then !visClear d && decide (16 ≤ visFcap d) && decide (visFcap d ≤ 4096)
   else visPstart d == 0 && visFcap d == 0 && visFstart d == 0)
/-- The tile ranges of a VIS: its table, depth plane, and visibility or fragment plane (R315). -/
def visRanges (d : List Word) : List (Nat × Nat) :=
  [(visStab d, 1024), (visDplane d, 4096 * visSpp d), (visPlane d, if visTransp d then 16 * visFcap d else 8192 * visSpp d)]

/-- The ranges of a VIS in its core's tile memory: it reads its table, and a transparent one its depth plane. -/
def visSpans (d : List Word) (core base : Nat) : List Range :=
  let range (k : Nat) (write locked : Bool) : Range :=
    let r := (visRanges d).getD k (0, 0)
    ⟨.tile core, base + r.1, r.2, write, if locked then some core else none⟩
  [range 0 false true] ++ (if visTransp d then [range 1 false true] else [range 1 true false]) ++ [range 2 true false]
/-- The lines of the planes that a VIS writes. -/
def visFills (d : List Word) (core base : Nat) : List (Nat × Nat) :=
  ((visSpans d core base).filter (·.write)).flatMap (fun g => (linePieces g.lo g.len).map (fun x => (core, x.1 / 128)))
/-- Two of a VIS's ranges share a byte (R315). -/
def visClash (d : List Word) : Bool :=
  (numbered (visRanges d)).any (fun (i, a) => (numbered (visRanges d)).any (fun (j, b) => decide (i < j) && overlaps a.1 a.2 b.1 b.2))
/-- The VIS that is accepted for a grant. -/
def Ctx.visOp (c : Ctx) (s : State) (f : AF) (d : List Word) (g : Grant) (core base : Nat) : Op :=
  { c.newOp s (.vis f) 2 with
    desc := d, amount := g.id, places := [(.tile core, base)], ranges := visSpans d core base
    dest := if Kind.of f.d = .scl then some ⟨f.d, 2, c.active, true, 384⟩ else none }

/-- VIS at issue (R305, R313, R318, R319). -/
def execVis (f : AF) (s : State) : Out :=
  issue (.vis f) s (fun s1 c =>
    let d := c.swords f.a 8
    let va := passVa d
    if !visDescOk d then .trap 31 c.active 0 0
    else
      match passCheck va, s1.grantOf c.t va (d.getD 2 0) with
      | some cause, _ => .trap cause c.active va 0
      | none, none => .trap 35 c.active 0 0
      | none, some g =>
        let rs := visRanges d
        match rs.find? (fun r => decide (c.t.tileBytes < r.1 + r.2)) with
        | some r => .trap 6 c.active r.1 0
        | none =>
          if visClash d then .trap 15 c.active 0 0
          else if c.r.landed.isSome then .trap 12 c.active 0 0
          else
            match s1.ownTile c.t c.r with
            | none => .trap 12 c.active 0 0
            | some (core, base) =>
              c.accept s1 (c.visOp s1 f d g core base) (2 ^ 32) (visFills d core base) id)

/-- A sample-table entry as clamped (R314), in units: SX, SY, T, LU, LV. -/
def tableEntry (b : List Byte) (k : Nat) : List Int :=
  let e := (b.drop (16 * k)).take 16
  let top := FFmt.fp16.units 0x3BFF
  [FFmt.fp16.clampUnits 0 top (ofBytes (e.take 2)), FFmt.fp16.clampUnits 0 top (ofBytes ((e.drop 2).take 2)),
    FFmt.fp32.clampUnits 0 unit149 (recWord e 4), FFmt.fp32.clampUnits (-(unit149 : Nat)) unit149 (recWord e 8),
    FFmt.fp32.clampUnits (-(unit149 : Nat)) unit149 (recWord e 12)]

/-- What R316 gives for sample i of pixel P: its position in units, its time, and the lens coordinates. -/
structure Sample where
  sx : Int
  sy : Int
  t : Ratio
  lu : Int
  lv : Int
  deriving DecidableEq, Repr

def sampleOf (d : List Word) (table : List Byte) (tilesY : Nat) (g : Grant) (pix i : Nat) : Sample :=
  let x := pix % 32
  let y := pix / 32
  let r := if visRot d then x % 2 + 2 * (y % 2) else 0
  let e := tableEntry table ((visStidx d + i + visSpp d * r) % 64)
  let at_ (k : Nat) := e.getD k 0
  let sx := ((32 * g.tx + x) * unit149 : Nat) + at_ 0
  let sy := ((32 * g.ty + y) * unit149 : Nat) + at_ 1
  let t := (Ratio.mk (at_ 2) unit149).add ⟨visRs d * sy, 256 * (32 * tilesY) * unit149⟩
  ⟨sx, sy, if t.n < 0 then ⟨0, 1⟩ else if (Ratio.mk 1 1).lt t then ⟨1, 1⟩ else t, at_ 3, at_ 4⟩

/-- The vertices of a primitive at a sample, each coordinate rounded once to FP32 (R316), as codes. -/
def vertexAt (b : List Byte) (p : Sample) (v : Nat) : List Nat :=
  (List.range 3).map (fun k =>
    let base : Ratio := ⟨FFmt.fp32.units (vertWord b v k), unit149⟩
    let moved := if primMoving b then base.add (p.t.mul ⟨FFmt.fp32.units (vertWord b v (k + 3)) - FFmt.fp32.units (vertWord b v k), unit149⟩) else base
    let lens := if k = 0 then p.lu else p.lv
    let out := if primDof b ∧ k < 2 then moved.add ⟨FFmt.fp32.units (vertWord b v 6) * lens, unit149 * unit149⟩ else moved
    out.round .fp32)

/-- Coverage, depth and BARY of R317, from the vertices in units (DEDUCED, log entry 87). -/
def coverUnits (cull : Nat) (v : Nat → Nat → Int) (sx sy : Int) : Option (Word × Word) :=
  let x (a : Nat) := v a 0
  let y (a : Nat) := v a 1
  let area := (x 1 - x 0) * (y 2 - y 0) - (y 1 - y 0) * (x 2 - x 0)
  let edge (a b : Nat) : Int := (x b - x a) * (sy - y a) - (y b - y a) * (sx - x a)
  let owned (a b : Nat) : Bool := decide (y b - y a < 0) || (y b == y a && decide (0 < x b - x a))
  let passes (a b : Nat) : Bool := decide (0 < edge a b * area.sign) || (edge a b == 0 && owned a b)
  let edges := if area < 0 then [(0, 2), (2, 1), (1, 0)] else [(0, 1), (1, 2), (2, 0)]
  if area = 0 || (cull == 1 && decide (area < 0)) || (cull == 2 && decide (0 < area)) || !edges.all (fun e => passes e.1 e.2) then none
  else
    let b1 := Ratio.quot (edge 2 0) area
    let b2 := Ratio.quot (edge 0 1) area
    let zn := (area - edge 2 0 - edge 0 1) * v 0 2 + edge 2 0 * v 1 2 + edge 0 1 * v 2 2
    let z := Ratio.quot zn (area * (unit149 : Nat))
    if z.n < 0 || (Ratio.mk 1 1).lt z then none
    else some (BitVec.ofNat 32 (z.round .fp32), BitVec.ofNat 32 (b2.round .fp16 * 65536 + b1.round .fp16))

/-- The same for a primitive at a sample; where a vertex overflows FP32 the spec states no result (DESIGN CHOICE, log entry 11). -/
def coverOf (b : List Byte) (p : Sample) : Option (Word × Word) :=
  let vs := (List.range 3).map (vertexAt b p)
  let code (a k : Nat) := (vs.getD a []).getD k 0
  if vs.all (fun v => v.all FFmt.fp32.isFinite) then coverUnits (primCull b) (fun a k => FFmt.fp32.units (code a k)) p.sx p.sy
  else Config.visBeyond (vs.flatten.map (fun (x : Nat) => (x : Int)) ++ [p.sx, p.sy])

/-- The depth test (R317). -/
def depthPasses (test : Nat) (depth stored : Word) : Bool :=
  let x := FFmt.fp32.value depth.toNat
  let d := FFmt.fp32.value stored.toNat
  match test with
  | 0 => x.lt d
  | 1 => x != .nan && d != .nan && !d.lt x
  | _ => true

/-- One sample through the primitives of an opaque VIS: depth, PRIMID and BARY, and how often it was written (R318). -/
def opaqueSample (test : Nat) (p : Sample) : List Prim → (Word × Word × Word) × Nat → (Word × Word × Word) × Nat
  | [], r => r
  | q :: qs, (cur, n) =>
    match coverOf q.bytes p with
    | some (z, bary) =>
      if depthPasses test z cur.1 then opaqueSample test p qs ((z, BitVec.ofNat 32 (recWord q.bytes 0), bary), n + 1)
      else opaqueSample test p qs (cur, n)
    | none => opaqueSample test p qs (cur, n)

/-- The lines that an operation fills have no earlier fill pending (R220, R320). -/
def State.fillsFirst (s : State) (o : Op) : Bool := o.fills.all (fun x => !s.ops.any (fun y => decide (y.id < o.id) && y.fills.contains x))

/-- The primitives that a VIS samples: those of the grant's segment listed in its tile, by kind, in sequence (R318,
R319). -/
def State.visPrims (s : State) (o : Op) (g : Grant) : List Prim :=
  match s.pass? g.asid g.pass with
  | none => []
  | some p => p.prims.filter (fun q => q.inTile g.tx g.ty && primTransp q.bytes == visTransp o.desc)
def State.visTilesY (s : State) (g : Grant) : Nat := ((s.pass? g.asid g.pass).map (·.tilesY)).getD 1

/-- An opaque VIS over its tile (R318): the planes written and the results. -/
def State.visOpaque (s : State) (o : Op) (g : Grant) (core base : Nat) (table : List Byte) : State :=
  let d := o.desc
  let prims := s.visPrims o g
  let n := 1024 * visSpp d
  let dp := base + visDplane d
  let vp := base + visPlane d
  let word (a : Nat) : Word := BitVec.ofNat 32 (ofBytes (s.tileGet core a 4))
  let out := (List.range n).map (fun e =>
    let first : Word × Word × Word := if visClear d then (0x3F800000, 0xFFFFFFFF, 0) else (word (dp + 4 * e), word (vp + 8 * e), word (vp + 8 * e + 4))
    opaqueSample (visDtest d) (sampleOf d table (s.visTilesY g) g (e / visSpp d) (e % visSpp d)) prims (first, 0))
  let s1 := s.tilePut core dp (out.flatMap (fun x => toBytes 4 x.1.1.toNat))
  let s2 := s1.tilePut core vp (out.flatMap (fun x => toBytes 4 x.1.2.1.toNat ++ toBytes 4 x.1.2.2.toNat))
  (s2.renderResult o (fun _ => [BitVec.ofNat 32 (total (out.map (·.2))), 0xFFFFFFFF])).finishOp o.id

/-- A fragment that a transparent VIS finds. -/
structure Found where
  seq : Word
  prim : Word
  pixel : Nat
  sample : Nat
  bary : Word
  deriving DecidableEq, Repr
/-- The fragments of one primitive at one pixel (R319). -/
def foundAt (d : List Word) (stored : Nat → Word) (sample : Nat → Nat → Sample) (q : Prim) (pix : Nat) : List Found :=
  (List.range (visSpp d)).filterMap (fun i =>
    match coverOf q.bytes (sample pix i) with
    | some (z, bary) =>
      if depthPasses (visDtest d) z (stored (pix * visSpp d + i)) then some ⟨q.seq, BitVec.ofNat 32 (recWord q.bytes 0), pix, i, bary⟩ else none
    | none => none)
/-- The pixels in order until the capacity is reached: the fragments, and where it stops (R319). -/
def takeFound (cap : Nat) : Nat → List (Word × Nat × List Found) → List Found × Option (Nat × Nat × Word)
  | _, [] => ([], none)
  | k, (seq, pix, fs) :: rest =>
    if cap < k + fs.length then ([], some (k, pix, seq))
    else
      let r := takeFound cap (k + fs.length) rest
      (fs ++ r.1, r.2)

/-- Fragments expected and written one after another, from the k-th on, while the scoreboard has room (R319, R320)
(DEDUCED, log entry 58). -/
def State.expectFrags (o : Op) (core base : Nat) : Nat → List Found → State → State × Nat
  | k, [], s => (s, k)
  | k, x :: rest, s =>
    let known := s.frags.any (fun f => f.grant == o.amount && f.pixel == x.pixel && f.sample == x.sample && f.seq == x.seq)
    if 8192 ≤ (s.frags.filter (fun f => f.core == core)).length then (s, k)
    else
      let s1 : State := if known then s else
        { s with frags := s.frags ++ [⟨s.nextId, o.amount, core, x.pixel, x.sample, x.seq, none, false⟩], nextId := s.nextId + 1 }
      State.expectFrags o core base (k + 1) rest
        (s1.tilePut core (base + visPlane o.desc + 16 * k)
          (toBytes 4 (x.pixel + 1024 * x.sample) ++ toBytes 4 x.seq.toNat ++ toBytes 4 x.prim.toNat ++ toBytes 4 x.bary.toNat))

/-- A transparent VIS (R319): `pos` counts the fragments written so far. -/
def State.visFragments (s : State) (o : Op) (g : Grant) (core base : Nat) (table : List Byte) : State :=
  let d := o.desc
  let stored (e : Nat) : Word := BitVec.ofNat 32 (ofBytes (s.tileGet core (base + visDplane d + 4 * e) 4))
  let sample (pix i : Nat) : Sample := sampleOf d table (s.visTilesY g) g pix i
  let prims := (s.visPrims o g).filter (fun q => decide (visFstart d ≤ q.seq.toNat))
  let groups := prims.flatMap (fun q =>
    ((List.range 1024).filter (fun pix => q.seq.toNat != visFstart d || decide (visPstart d ≤ pix))).map (fun pix => (q.seq, pix, foundAt d stored sample q pix)))
  let (found, stop) := takeFound (visFcap d) 0 groups
  let (s1, k) := State.expectFrags o core base o.pos (found.drop o.pos) s
  if k < found.length then s1.setOp { o with phase := 1, pos := k }
  else
    let (w, next) : Nat × Word := match stop with
      | some (k, pix, seq) => (k + pix * 8192, seq)
      | none => (k, 0xFFFFFFFF)
    (s1.renderResult o (fun _ => [BitVec.ofNat 32 w, next])).finishOp o.id

/-- VIS_COMPLETE: the sampler runs once its lines and sources are ready; the planes' lines become full and D is written
(R318 to R320). A transparent VIS goes on while the scoreboard has room. -/
def execVisComplete (op : Nat) (s : State) : Out :=
  .next (match s.op? op with
    | none => s
    | some o =>
      match o.instr, o.places with
      | .vis _, (.tile core, base) :: _ =>
        if !s.opGoes o || !s.fillsFirst o then s
        else
          match s.grants.find? (fun g => g.id == o.amount), s.engineRead o (.tile core) (base + visStab o.desc) 1024 3 with
          | some g, (s1, .done, table) =>
            if visTransp o.desc then
              match s1.engineRead o (.tile core) (base + visDplane o.desc) (4096 * visSpp o.desc) 3 with
              | (s2, .done, _) => s2.visFragments o g core base table
              | (s2, _, _) => s2
            else s1.visOpaque o g core base table
          | _, _ => s
      | _, _ => s)

/-! ### BLEND (R321 to R323) -/

def blendSpp (d : List Word) : Nat := field (d.getD 3 0).toNat 31 28 + 1
def blendPlane (d : List Word) : Nat := field (d.getD 3 0).toNat 20 0

/-- The pixel, sample and sequence that a lane of BLEND names. -/
def Ctx.blendPix (c : Ctx) (s : State) (f : AF) (l : Nat) : Nat := c.src s f.c 0 0 l
def Ctx.blendKey (c : Ctx) (s : State) (f : AF) (l : Nat) : Nat × Nat × Word :=
  (c.blendPix s f l % 1024, field (c.blendPix s f l) 13 10, BitVec.ofNat 32 (c.src s (f.c + 1) 0 0 l))
/-- A fragment of a grant that a key names. -/
def Frag.is (x : Frag) (g : Grant) (k : Nat × Nat × Word) : Bool := x.grant == g.id && x.pixel == k.1 && x.sample == k.2.1 && x.seq == k.2.2
/-- A lane whose fragment is none that the grant expects, has been submitted, or is another lane's (R322). -/
def Ctx.blendBad (c : Ctx) (s : State) (f : AF) (spp : Nat) (g : Grant) (l : Nat) : Bool :=
  decide (spp ≤ field (c.blendPix s f l) 13 10) || field (c.blendPix s f l) 31 14 != 0 ||
  (((s.frags.find? (fun x => x.is g (c.blendKey s f l))).map (·.blend.isSome)).getD true) ||
  c.lanes.any (fun m => decide (m < l) && c.blendKey s f m == c.blendKey s f l)
/-- The lanes whose fragments wait for an earlier one that no BLEND has submitted (R323) (DEDUCED, log entry 56). -/
def Ctx.blendHeld (c : Ctx) (s : State) (f : AF) (g : Grant) : List Nat :=
  c.lanes.filter (fun l =>
    let k := c.blendKey s f l
    s.frags.any (fun x => x.grant == g.id && x.pixel == k.1 && x.sample == k.2.1 && decide (x.seq.toNat < k.2.2.toNat) && x.blend.isNone &&
      !(c.lanes.map (c.blendKey s f)).contains (x.pixel, x.sample, x.seq)))
/-- The BLEND that is accepted for a grant. -/
def Ctx.blendOp (c : Ctx) (s : State) (f : AF) (d : List Word) (g : Grant) (core base : Nat) : Op :=
  let offs := c.lanes.map (fun l =>
    base + blendPlane d + ((c.blendKey s f l).1 * blendSpp d + (c.blendKey s f l).2.1) * 16)
  let lo := offs.foldl min (offs.headD 0)
  let hi := offs.foldl max 0
  let vals := c.lanes.flatMap (fun l => (List.range 4).map (fun k => (64 * k + l, BitVec.ofNat 32 (c.src s (f.b + BitVec.ofNat 9 k) 0 0 l))))
  { c.newOp s (.blend f) 2 with
    desc := d, amount := g.id, places := [(.tile core, base)], vals := vals.foldl (fun m x => sset m x.1 x.2) []
    ranges := [⟨.tile core, lo, hi + 16 - lo, true, some core⟩] }
/-- The fragments that a BLEND's lanes name are submitted by it. -/
def Ctx.blendTake (c : Ctx) (s : State) (f : AF) (g : Grant) (held : List Nat) (frags : List Frag) : List Frag :=
  frags.map (fun x => match c.lanes.find? (fun l => x.is g (c.blendKey s f l)) with
    | some l => { x with blend := some (s.nextId, l), held := held.contains l }
    | none => x)

/-- BLEND at issue (R305, R321, R322). A fragment is ready when every expected one of its sample with a lower sequence
has been submitted, this BLEND's own among them. -/
def execBlend (f : AF) (s : State) : Out :=
  issue (.blend f) s (fun s1 c =>
    let d := c.swords f.a 8
    let va := passVa d
    let spp := blendSpp d
    let plane := blendPlane d
    if (d.drop 4).any (· != 0) || field (d.getD 3 0).toNat 27 21 != 0 || plane % 128 != 0 then .trap 31 c.active 0 0
    else
      match passCheck va, s1.grantOf c.t va (d.getD 2 0) with
      | some cause, _ => .trap cause c.active va 0
      | none, none => .trap 35 c.active 0 0
      | none, some g =>
        if c.t.tileBytes < plane + 16384 * spp then .trap 6 c.active plane 0
        else if c.r.landed.isSome then .trap 12 c.active 0 0
        else
          match s1.ownTile c.t c.r with
          | none => .trap 12 c.active 0 0
          | some (core, base) =>
            let bads := c.lanes.filter (c.blendBad s1 f spp g)
            if !bads.isEmpty then .trap 37 (maskOf bads) 0 0
            else
              let held := c.blendHeld s1 f g
              if 4096 < (s1.frags.filter (fun x => x.held && x.core == core)).length + held.length then .stall s1 .slot
              else c.accept s1 (c.blendOp s1 f d g core base) (2 ^ 32) [] (fun st => { st with frags := c.blendTake s1 f g held st.frags }))

/-- 1 − a, exactly. -/
def oneMinus (a : FVal) : FVal := exactSum [.fin false 1 0, a.neg]
/-- One channel of one fragment (R322). -/
def blendChannel (fn : Nat) (dst src alpha : Nat) : Nat :=
  let f := FFmt.fp32
  match fn with
  | 0 => f.sum .rne [f.value src, (f.value dst).mul (oneMinus (f.value alpha))]
  | 1 => f.sum .rne [f.value src, f.value dst]
  | _ => dst

/-- FRAGMENT_APPLY: the lowest submitted fragment of its sample is applied and retired; the last one of its BLEND
completes it (R322, R323). -/
def execFragmentApply (frag : Nat) (s : State) : Out :=
  .next (match s.frags.find? (fun f => f.id == frag) with
    | none => s
    | some fr =>
      match fr.blend with
      | none => s
      | some (opId, lane) =>
        match s.op? opId with
        | none => s
        | some o =>
          match o.places with
          | (.tile core, base) :: _ =>
            let at_ := base + blendPlane o.desc + (fr.pixel * blendSpp o.desc + fr.sample) * 16
            let fn := (renderFields o.instr).fn.toNat % 4
            let wet := fn != 2 && s.emptyFor o.id core (at_ / 128)
            if !s.opGoes o || !s.fragNext fr || wet then s
            else
              let chan (k : Nat) : Nat := blendChannel fn (ofBytes (s.tileGet core (at_ + 4 * k) 4)) (sget o.vals (64 * k + lane)).toNat (sget o.vals (64 * 3 + lane)).toNat
              let s1 := if fn = 2 then s else s.tilePut core at_ ((List.range 4).flatMap (fun k => toBytes 4 (chan k)))
              let s2 : State := { s1 with frags := s1.frags.filter (fun f => f.id != frag) }
              if s2.frags.any (fun f => (f.blend.map (·.1)) == some opId) then s2 else s2.finishOp opId
          | _ => s)

/-! ### TRACE (R325 to R332) -/

/-- TRACE at issue (R305, R325). -/
def execTrace (f : AF) (s : State) : Out :=
  issue (.trace f) s (fun s1 c =>
    let d := c.swords f.a 2
    let root := passVa d
    if root % 128 ≠ 0 then .trap 31 c.active 0 0
    else if !canonical root then .trap 5 c.active root 0
    else
      let vals := c.lanes.flatMap (fun l => (List.range 8).map (fun k => (64 * k + l, BitVec.ofNat 32 (c.src s1 (f.b + BitVec.ofNat 9 k) 0 0 l))))
      c.acceptTagged s1 { c.newOp s1 (.trace f) 2 with
        desc := d, vals := vals.foldl (fun m x => sset m x.1 x.2) [], dest := some ⟨c.reg f.d, 5, c.active, false, 384⟩ } 0xFF id)

def TVal.le : TVal → TVal → Bool
  | .ninf, _ | _, .pinf => true
  | .fin a, .fin b => a.le b
  | _, _ => false
def TVal.lt (a b : TVal) : Bool := !b.le a
def TVal.max (a b : TVal) : TVal := if a.le b then b else a
def TVal.min (a b : TVal) : TVal := if a.le b then a else b
/-- The value of an FP32 code that is no NaN. -/
def TVal.ofCode (code : Nat) : TVal :=
  match FFmt.fp32.value code with
  | .inf neg => if neg then .ninf else .pinf
  | v => .fin ⟨v.over (-149), unit149⟩

/-- A ray: origin and direction in units, and its interval (R325). -/
structure Ray where
  o : List Int
  d : List Int
  tmin : TVal
  tmax : TVal
  deriving DecidableEq, Repr

/-- The slab interval of a box on one axis, in units (R329): none where the ray misses it. -/
def slabAxis (o d lo hi : Int) : Option (TVal × TVal) :=
  if d = 0 then (if lo ≤ o ∧ o ≤ hi then some (.ninf, .pinf) else none)
  else
    let a := TVal.fin (Ratio.quot (lo - o) d)
    let b := TVal.fin (Ratio.quot (hi - o) d)
    some (a.min b, a.max b)
/-- The interval of a whole box. -/
def slabBox (ray : Ray) (lo hi : List Int) : Option (TVal × TVal) :=
  (List.range 3).foldl (fun acc k =>
    match acc, slabAxis (ray.o.getD k 0) (ray.d.getD k 0) (lo.getD k 0) (hi.getD k 0) with
    | some (te, tx), some (a, b) => some (te.max a, tx.min b)
    | _, _ => none) (some (.ninf, .pinf))

/-- Byte k of a node, and its fates (R326, R327). -/
def nodeByte (b : List Byte) (k : Nat) : Nat := (b.getD k 0).toNat
def childWord (b : List Byte) (c : Nat) : Nat := ofBytes ((b.drop (0x40 + 8 * c)).take 8)
def childOk (w : Nat) : Bool :=
  let typ := field w 1 0
  typ == 0 || (typ != 3 && field w 63 57 == (if bit w 56 then 127 else 0) && (typ != 1 || (field w 5 2 == 0 && !bit w 6)))
def nodeOk (b : List Byte) : Bool :=
  (List.range 3).all (fun k => FFmt.fp32.isFinite (recWord b (4 * k))) && nodeByte b 15 == 0 && (List.range 8).all (fun c => childOk (childWord b c))
/-- One bound of child c on an axis, in units: ORG + q × 2^E. -/
def nodeBound (b : List Byte) (k q : Nat) : Int :=
  let e := asSigned 8 (nodeByte b (12 + k))
  FFmt.fp32.units (recWord b (4 * k)) + (FVal.fin false q e).over (-149)
/-- A child put in its place among others by (te, c). -/
def insertChild (x : TVal × Child) : List (TVal × Child) → List (TVal × Child)
  | [] => [x]
  | y :: ys => if x.1.lt y.1 || (x.1.le y.1 && decide (x.2.c ≤ y.2.c)) then x :: y :: ys else y :: insertChild x ys
/-- The children that a ray enters, by rising (te, c) (R329). -/
def enteredChildren (b : List Byte) (ray : Ray) (tcur : TVal) : List (TVal × Child) :=
  let kids := (List.range 8).filterMap (fun c =>
    let w := childWord b c
    let q (k : Nat) := nodeByte b (0x10 + 6 * c + k)
    if field w 1 0 = 0 ∨ (List.range 3).any (fun k => decide (q (3 + k) < q k)) then none
    else
      match slabBox ray ((List.range 3).map (fun k => nodeBound b k (q k))) ((List.range 3).map (fun k => nodeBound b k (q (3 + k)))) with
      | none => none
      | some (te, tx) =>
        if te.le tx && ray.tmin.le tx && te.le tcur then
          some (te, (⟨c, field w 1 0, field w 63 6 * 64, field w 5 2 + 1⟩ : Child))
        else none)
  kids.foldr insertChild []

def dot3 (a b : List Int) : Int := a.getD 0 0 * b.getD 0 0 + a.getD 1 0 * b.getD 1 0 + a.getD 2 0 * b.getD 2 0
def cross3 (a b : List Int) : List Int :=
  let x (k : Nat) := a.getD k 0
  let y (k : Nat) := b.getD k 0
  [x 1 * y 2 - x 2 * y 1, x 2 * y 0 - x 0 * y 2, x 0 * y 1 - x 1 * y 0]
def sub3 (a b : List Int) : List Int := (List.range 3).map (fun k => a.getD k 0 - b.getD k 0)

/-- R328's fates. -/
def leafFmtOk (b : List Byte) : Bool :=
  let w := recWord b 0x28
  field w 31 18 == 0 && !bit w 16 && field w 15 0 != 0xFFFF && (b.drop 0x2C).all (· == 0)
/-- The triangle test (R329), every quotient exact. -/
def leafHit (cullBack : Bool) (ray : Ray) (tcur : TVal) (b : List Byte) (leaf : Nat) : Option Hit :=
  let vert (v : Nat) : List Int := (List.range 3).map (fun k => FFmt.fp32.units (recWord b (12 * v + 4 * k)))
  if !(List.range 9).all (fun k => FFmt.fp32.isFinite (recWord b (4 * k))) then none
  else
    let e1 := sub3 (vert 1) (vert 0)
    let e2 := sub3 (vert 2) (vert 0)
    let pv := cross3 ray.d e2
    let det := dot3 e1 pv
    let w := recWord b 0x28
    if det = 0 || (cullBack && !bit w 17 && decide (0 < dot3 ray.d (cross3 e1 e2))) then none
    else
      let s := sub3 ray.o (vert 0)
      let q := cross3 s e1
      let u := Ratio.quot (dot3 s pv) det
      let v := Ratio.quot (dot3 ray.d q) det
      let t := Ratio.quot (dot3 e2 q) det
      if decide (0 ≤ u.n) && decide (0 ≤ v.n) && (u.add v).le ⟨1, 1⟩ && ray.tmin.le (.fin t) && (TVal.fin t).le tcur then
        some ⟨t, u, v, BitVec.ofNat 32 (recWord b 0x24), field w 15 0, leaf⟩
      else none

/-- What a step of a traversal comes to: it goes on, has ended, or has met something. -/
inductive TRes where
  | more
  | ends
  | moor (va : Nat)
  | wait
  | fault (cause side addr : Nat)
  deriving DecidableEq, Repr

/-- A hit is accepted: a nearer one, or as near with a leaf of lower address; with no hit yet, any (R329)
(DEDUCED, log entry 55). -/
def acceptHit (best : Option Hit) (tcur : TVal) (h : Hit) : Bool :=
  (TVal.fin h.t).lt tcur || (match best with
    | none => true
    | some b => decide (h.leaf < b.leaf))

/-- Entries beyond the nearest hit are skipped, and leaves that are popped are the next to be tested (R329). -/
def settleStack (tcur : TVal) : List (TVal × Child) → List Nat × List (TVal × Child)
  | [] => ([], [])
  | (te, ch) :: rest =>
    if tcur.lt te then settleStack tcur rest
    else if ch.typ = 2 then ((List.range ch.leaves).map (fun j => (ch.addr + 64 * j) % 2 ^ 64), rest)
    else ([], (te, ch) :: rest)
def TraceLane.settle (x : TraceLane) : TraceLane :=
  if x.leaves.isEmpty then
    let r := settleStack x.tcur x.stack
    { x with leaves := r.1, stack := r.2 }
  else x

/-- A leaf that has been read is tested (R328, R329). -/
def TraceLane.leaf (x : TraceLane) (any cullBack : Bool) (ray : Ray) (b : List Byte) (a : Nat) : TraceLane × TRes :=
  let y := { x with leaves := x.leaves.drop 1, got := [] }
  if !leafFmtOk b then (x, .fault 38 1 a)
  else
    match leafHit cullBack ray x.tcur b a with
    | none => (y, .more)
    | some h =>
      if any then ({ y with best := some h }, .ends)
      else if acceptHit x.best x.tcur h then ({ y with tcur := .fin h.t, best := some h }, .more)
      else (y, .more)
/-- A node that has been read: its entered children are pushed (R326, R329). -/
def TraceLane.node (x : TraceLane) (ray : Ray) (b : List Byte) (a : Nat) : TraceLane × TRes :=
  if !nodeOk b then (x, .fault 38 0 a)
  else
    let kids := enteredChildren b ray x.tcur
    let rest := x.stack.drop 1
    if 256 < rest.length + kids.length then (x, .fault 38 0 a)
    else ({ x with stack := kids ++ rest, got := [] }, .more)

/-- One 8-byte unit of the node or leaf that a lane is at is read (R87, R92); with its last one the node or leaf is dealt
with. Bytes that an earlier operation is writing are waited for (R89). -/
def State.traceUnit (s : State) (o : Op) (any cullBack : Bool) (ray : Ray) (x0 : TraceLane) : State × TraceLane × TRes :=
  let x := x0.settle
  let read (a n side : Nat) (use : List Byte → TraceLane × TRes) : State × TraceLane × TRes :=
    let va := a + x.got.length
    if s.writtenAhead o va 8 then (s, x, .wait)
    else
      match s.readAt o.asid va 8 .read (!x.got.isEmpty) with
      | (s1, .ok, b) =>
        let g := x.got ++ b
        if g.length < n then (s1, { x with got := g }, .more)
        else
          let r := use g
          (s1, r.1, r.2)
      | (s1, .moor, _) => (s1, x, .moor va)
      | (s1, .fault k, _) => (s1, x, .fault k side va)
      | (s1, .wait, _) => (s1, x, .wait)
  match x.leaves, x.stack with
  | a :: _, _ => read a 64 1 (fun b => x.leaf any cullBack ray b a)
  | [], (_, ch) :: _ => read ch.addr 128 0 (fun b => x.node ray b ch.addr)
  | [], [] => (s, x, .ends)
/-- A run of units of one lane, at most `fuel` of them. -/
def State.traceUnits (o : Op) (any cullBack : Bool) (ray : Ray) : Nat → TraceLane → State → State × TraceLane × TRes
  | 0, x, s => (s, x, .more)
  | fuel + 1, x, s =>
    match s.traceUnit o any cullBack ray x with
    | (s1, x1, .more) => State.traceUnits o any cullBack ray fuel x1 s1
    | r => r

/-- The registers of a result (R330). -/
def traceWords (best : Option Hit) : List Word :=
  match best with
  | some h => [BitVec.ofNat 32 (h.t.round .fp32), h.prim, BitVec.ofNat 32 (h.u.round .fp32), BitVec.ofNat 32 (h.v.round .fp32), BitVec.ofNat 32 h.hit]
  | none => [0x7F800000, 0xFFFFFFFF, 0, 0, 0x0000FFFF]

/-- Word k of a lane's ray as TRACE read it, and the ray (R325). -/
def Op.rayWord (o : Op) (lane k : Nat) : Nat := (sget o.vals (64 * k + lane)).toNat
def Op.ray (o : Op) (lane : Nat) : Ray :=
  let units (ks : List Nat) : List Int := ks.map (fun k => FFmt.fp32.units (o.rayWord lane k))
  ⟨units [0, 1, 2], units [4, 5, 6], .ofCode (o.rayWord lane 3), .ofCode (o.rayWord lane 7)⟩
/-- A lane from ROOT. -/
def Op.traceRoot (o : Op) (lane : Nat) : TraceLane := ⟨lane, [(.ninf, ⟨0, 1, o.passVa, 0⟩)], [], (o.ray lane).tmax, none, []⟩
/-- The result of a lane whose ray makes no access: an invalid ray misses; of a ray with an infinite component the spec
states no result (R325) (DESIGN CHOICE, log entry 12). -/
def Op.traceNone (o : Op) (lane : Nat) : Option (List Word) :=
  let w := o.rayWord lane
  let zero (k : Nat) : Bool := match FFmt.fp32.value (w k) with
    | .fin _ n _ => n == 0
    | _ => false
  if (List.range 8).any (fun k => FFmt.fp32.value (w k) == .nan) || (FFmt.fp32.value (w 7)).lt (FFmt.fp32.value (w 3)) ||
      (zero 4 && zero 5 && zero 6) then some (traceWords none)
  else if [0, 1, 2, 4, 5, 6].any (fun k => !FFmt.fp32.isFinite (w k)) then
    some ((Config.traceBeyond ((List.range 8).map (fun k => BitVec.ofNat 32 (w k))) ++ traceWords none).take 5)
  else none
/-- The lanes of a TRACE as it starts. -/
def Op.traceStart (o : Op) : TraceRun :=
  let ls := lanesOf 64 o.lanes
  ⟨(ls.filter (fun l => (o.traceNone l).isNone)).map o.traceRoot, ls.filterMap (fun l => (o.traceNone l).map (fun w => (l, w))), []⟩

/-- A lane of a TRACE after a run of its units: it goes on, ends or fails, or the operation suspends, and the lane then
traverses again from ROOT (R331) (DEDUCED, log entry 57). -/
def State.traceMoved (s : State) (o : Op) (x : TraceLane) (r : TRes) : State :=
  let rest := o.trace.lanes.filter (fun y => y.lane != x.lane)
  let put (lanes : List TraceLane) : Op := { o with trace := { o.trace with lanes := lanes } }
  match r with
  | .more | .wait => s.setOp (put (x :: rest))
  | .ends => s.setOp { o with trace := { o.trace with lanes := rest, ended := (x.lane, traceWords x.best) :: o.trace.ended } }
  | .fault c side a => s.setOp { o with trace := { o.trace with lanes := rest, failed := (x.lane, c, side, a) :: o.trace.failed } }
  | .moor va => s.suspendOp (put (o.traceRoot x.lane :: rest)) va

/-- The end of a TRACE: the results of its lanes are written together, and faults are deferred (R330, R331). -/
def State.traceEnd (s : State) (o : Op) : State :=
  let good := o.trace.ended
  let s1 := match o.raft, o.dest with
    | some rid, some d => s.deliver rid { d with lanes := maskOf (good.map Prod.fst) } (fun l => match good.find? (fun (x : Nat × List Word) => x.1 == l) with
      | some x => x.2
      | none => [])
    | _, _ => s
  match leastBy Prod.fst o.trace.failed with
  | none => s1.finishOp o.id
  | some (l, c, side, a) =>
    let bad := maskOf ((o.trace.failed.filter (fun x => x.2.1 == c)).map Prod.fst)
    s1.failRender { o with lanes := bad } c l side a (maskOf (o.trace.failed.map Prod.fst))

/-- TRACE_COMPLETE: the lanes start; a lane, freely chosen, reads a run of its nodes and leaves; or, when every lane has
ended, the operation does (R329 to R331). -/
def execTraceComplete (op : Nat) (s : State) : Out :=
  .next (match s.op? op with
    | none => s
    | some o =>
      match o.instr with
      | .trace f =>
        if !s.opGoes o then s
        else if o.phase = 0 then s.setOp { o with phase := 1, trace := o.traceStart }
        else if o.trace.lanes.isEmpty then s.traceEnd o
        else
          let (i, s1) := s.draw
          let (n, s2) := s1.draw
          match o.trace.lanes[i % o.trace.lanes.length]? with
          | none => s
          | some x =>
            match State.traceUnits o (f.fn.getLsbD 0) (f.fn.getLsbD 1) (o.ray x.lane) (n + 1) x s2 with
            | (s3, x1, r) => s3.traceMoved o x1 r
      | _ => s)

/-- RENDER_RESUME (R298, R306, R331): a suspended render operation goes on once its page is resident, while its team is
stowed too, but not while it is being terminated (R374). -/
def execRenderResume (op : Nat) (s : State) : Out :=
  .next (match s.op? op with
    | none => s
    | some o =>
      match o.susp with
      | some va => if o.cls == 2 && !s.opDying o && !s.absent o.asid va then s.setOp { o with susp := none, replay := false } else s
      | none => s)

end Sys2Proof.Machine
end

