-- ==== Sys2Proof/Machine/Power.lean ====
section
/-!
DEFINITION. Chapter 15: the control block, clocks, reservations and budgets, leases and power, boot and identity, the
management port, and the containment of errors.
-/

namespace Sys2Proof.Machine

open Sys2Proof

/-! ### Clusters, clocks and leases (R401, R402, R405 to R407) -/

/-- The cycles of a cluster. -/
def State.clusterCycles (s : State) (c : Nat) : Nat := (s.cluster c).cycles s.clock

/-- CLK_PAT written; fewer than four ones are refused (R402). -/
def State.putClkPat (s : State) (c : Nat) (value : BitVec 16) : State :=
  if (ones value).length < 4 then s else s.mapCluster c (fun x => { x with pat := value, saved := x.saved.map (fun _ => value) })
/-- CLK_PAT_WRITE (R402). -/
def execClkPatWrite (cluster : Nat) (value : BitVec 16) (s : State) : Out := .next (s.putClkPat cluster value)

/-- A lease has not expired (R406). -/
def State.leaseRuns (s : State) (l : Lease) : Bool := decide (s.clusterCycles l.cluster < l.expiry)
/-- The leases that stand on a cluster. -/
def State.leasesOn (s : State) (c : Nat) : List Lease := s.leases.filter (fun l => l.cluster == c && s.leaseRuns l)
/-- What CLK_EFF is to be (R402). -/
def State.wantEff (s : State) (c : Nat) : BitVec 16 := if (s.leasesOn c).isEmpty then (s.cluster c).pat else 0xFFFF
/-- Every lease that has expired has ended, and every CLK_EFF that is to be another changes, at the next 16-slot boundary: what
a step leaves behind (R402, R406) (DEDUCED, log entry 18). -/
def State.settleClocks (s : State) : State :=
  { s with
    leases := s.leases.filter s.leaseRuns
    clusters := (numbered s.clusters).map (fun (c, x) => if x.eff = s.wantEff c then x else x.repattern s.clock (s.wantEff c)) }
/-- CLK_EFF_CHANGE (R402) (DEDUCED, log entry 18). -/
def execClkEffChange (cluster : Nat) (s : State) : Out := .next (s.mapCluster cluster (fun x => x.repattern s.clock (s.wantEff cluster)))

/-- The arbiter's status on its way to D, as a load that accesses nothing (R124, R146, R406). -/
def Ctx.statusReply (c : Ctx) (s : State) (d : RegNum) (x : Word) : Req :=
  { id := s.nextId, raft := c.r.id, core := c.r.here, kind := .load 4 false, acq := false, rel := false, scope := 0, mask := 0
    lanes := c.active, dest := some ⟨d, 1, c.active, true, 384⟩, parts := [], data := []
    got := ssets [] (64 * (c.lanes.headD 0)) (toBytes 4 x.toNat), tags := 0, tagLanes := [], binds := [], missed := [], twin := none
    born := s.nextId, early := false, checked := true, replay := false, fault := none, pc := c.cl.pc, slot := c.en.slot, instr := c.word }
/-- A request to the arbiter, which `ask` answers with a status; its slot cannot start where the loads counter stands at its most
(R54, R124). -/
def arbiterIssue (i : Instr) (d : RegNum) (s : State) (ask : State → Ctx → State × Word) : Out :=
  issue i s (fun s1 c =>
    if 65535 ≤ s1.counter c.r.id 4 then .stall s1 .slot
    else match ask s1 c with
      | (s2, x) => .done { s2 with reqs := s2.reqs ++ [c.statusReply s2 d x], nextId := s2.nextId + 1 } .next)
/-- LEASE (R406): the module's estimate with one cluster boosted is the arbiter's own, a free number
(DESIGN CHOICE, log entry 69). -/
def execLease (f : CF) (s : State) : Out :=
  arbiterIssue (.lease f) f.d s (fun s1 c =>
    let cl := c.r.here / 4
    let s2 : State := { s1 with leases := s1.leases.filter (fun l => l.raft != c.r.id) }
    let (estimate, s3) := s2.draw
    if 8 ≤ (s2.leasesOn cl).length then (s2, 2)
    else if estimate ≤ s3.ctl.plimit.toNat then
      ({ s3 with leases := s3.leases ++ [⟨c.r.id, cl, s.clusterCycles cl + f.off.toNat⟩] }, 0)
    else (s3, 1))
/-- LEASE.end (R406). -/
def execLeaseEnd (f : CF) (s : State) : Out :=
  arbiterIssue (.leaseEnd f) f.d s (fun s1 c =>
    let had := s1.leases.any (fun l => l.raft == c.r.id && s1.leaseRuns l)
    ({ s1 with leases := s1.leases.filter (fun l => l.raft != c.r.id) }, if had then 0 else 3))
/-- LEASE_EXPIRY (R406). -/
def execLeaseExpiry (raft : Nat) (s : State) : Out :=
  .next { s with leases := s.leases.filter (fun l => !(l.raft == raft && !s.leaseRuns l)) }

/-- A die whose pattern bits firmware is to clear (R405). -/
def heated (hot : List (Nat × Option Nat)) (die : Nat) : List (Nat × Option Nat) :=
  if hot.any (fun x => x.1 == die) then hot else hot ++ [(die, none)]
/-- POWER_WINDOW: a 1 ms window ends with its measured draw. Above PLIMIT firmware revokes leases, newest first, until
its estimate is within the limit, as many as it finds, and then clears pattern bits of every die (R405, R407)
(DEDUCED, log entry 70). -/
def execPowerWindow (draw : Nat) (s : State) : Out :=
  .next (if s.clock < s.windowAt + 1000 * perUs then s
    else
      let s1 : State := { s with windowAt := s.clock, mgmt := { s.mgmt with draw := draw } }
      if draw ≤ s.ctl.plimit.toNat then s1
      else
        let (n, s2) := s1.draw
        { s2 with leases := s2.leases.take (n % (s2.leases.length + 1)), hot := (List.range 8).foldl heated s2.hot })

/-- HEADROOM_ZERO: firmware revokes the die's leases and begins to clear its pattern bits (R405). -/
def execHeadroomZero (cluster : Nat) (s : State) : Out :=
  .next (if 64 ≤ cluster then s
    else
      let die := cluster / 8
      { s.mapCluster cluster (fun x => { x with headroom := 0 }) with
        leases := s.leases.filter (fun l => l.cluster / 8 != die)
        hot := heated s.hot die })

/-- One set bit of a pattern cleared, never below four ones; which one is firmware's choice. -/
def State.clearBit (s : State) (c : Nat) : State :=
  let x := s.cluster c
  let is := ones x.pat
  let (n, s1) := s.draw
  if is.length ≤ 4 then s
  else s1.mapCluster c (fun x => { x with saved := some (x.saved.getD x.pat), pat := x.pat &&& ~~~(1#16 <<< is.getD (n % is.length) 0) })
/-- PATTERN_BIT_CLEAR (R405): every 100 µs of a die, from the cluster of least headroom on. -/
def execPatternBitClear (die : Nat) (s : State) : Out :=
  .next (match s.hot.find? (fun x => x.1 == die) with
    | none => s
    | some (_, last) =>
      if last.any (fun t => decide (s.clock < t + 100 * perUs)) then s
      else { (sortBy (fun c => (s.cluster c).headroom.toNat) (span (8 * die) 8)).foldl State.clearBit s with
        hot := s.hot.map (fun x => if x.1 = die then (die, some s.clock) else x) })

/-- PATTERN_RESTORE: a cluster's headroom as measured; above 10, CLK_PAT is as it was, and the die is left alone once
every cluster of it is above 10 (R405). A headroom of 0 is HEADROOM_ZERO's. -/
def execPatternRestore (cluster : Nat) (headroom : BitVec 8) (s : State) : Out :=
  if headroom = 0 then execHeadroomZero cluster s
  else .next (if 64 ≤ cluster then s
    else
      let s1 := s.mapCluster cluster (fun x =>
        if 10 < headroom.toNat then { x with headroom := headroom, pat := x.saved.getD x.pat, saved := none } else { x with headroom := headroom })
      let die := cluster / 8
      if (span (8 * die) 8).all (fun c => decide (10 < (s1.cluster c).headroom.toNat)) then { s1 with hot := s1.hot.filter (fun x => x.1 != die) } else s1)

/-! ### Budgets and reservations (R23, R403, R404) -/

/-- The weights of the classes: matrix, vector, ferry, lathe. -/
def weight (cls : Nat) : Nat := ([8, 2, 1, 1] : List Nat).getD cls 1
/-- A class's floor in BUD_FLOOR. -/
def floorOf (f : DWord) (cls : Nat) : Nat := field f.toNat (16 * cls + 12) (16 * cls)
/-- The weighted sum of the floors. -/
def floorSum (f : DWord) : Nat := total ((List.range 4).map (fun k => weight k * floorOf f k))
/-- A BUD_FLOOR that is not refused for its form (R401). -/
def floorForm (f : DWord) : Bool :=
  (List.range 4).all (fun k => decide (floorOf f k ≤ 4096) && field f.toNat (16 * k + 15) (16 * k + 13) == 0)

/-- BUD_FLOOR and BUD_TOTAL written (R401, R403). -/
def State.putFloor (s : State) (c : Nat) (value : DWord) : State :=
  if floorForm value && decide (floorSum value ≤ (s.cluster c).total.toNat) then s.mapCluster c (fun x => { x with floor := value }) else s
def State.putTotal (s : State) (c : Nat) (value : Word) : State :=
  if floorSum (s.cluster c).floor ≤ value.toNat then s.mapCluster c (fun x => { x with total := value }) else s
/-- BUD_FLOOR_WRITE (R403). -/
def execBudFloorWrite (cluster : Nat) (value : DWord) (s : State) : Out := .next (s.putFloor cluster value)
/-- BUD_TOTAL_WRITE (R403). -/
def execBudTotalWrite (cluster : Nat) (value : Word) (s : State) : Out := .next (s.putTotal cluster value)

/-- A period of 4,096 cluster cycles that has ended, replaced by the one that runs (R23, R403). -/
def State.inPeriod (s : State) (cluster : Nat) : State :=
  let now := s.clusterCycles cluster
  if now < (s.cluster cluster).periodEnd then s
  else s.mapCluster cluster (fun x => { x with charged := [0, 0, 0, 0], spent := 0, periodEnd := now / 4096 * 4096 + 4096 })
/-- ARBITER_PERIOD (R23, R403). -/
def execArbiterPeriod (cluster : Nat) (s : State) : Out := .next (s.inPeriod cluster)

/-- What a reservation is for: an operation and the steps, elements or chunks it covers, or a vector clause. -/
inductive Claimant where
  | op (id units : Nat)
  | clause (raft ent : Nat)
  deriving DecidableEq, Repr
/-- A unit of work that waits for its reservation: class, activity cycles, since when, and for whom. -/
structure Pending where
  cls : Nat
  cycles : Nat
  since : Nat
  who : Claimant
  deriving DecidableEq, Repr

/-- The activity cycles of a unit for which the spec gives none: a free count of 1 to 256 (R404) (DESIGN CHOICE, log entry 78). -/
def Op.openCycles (o : Op) : Nat := 1 + Config.activity o.id o.pos % 256
/-- The reservation that an operation needs next, if it needs one (R245, R404) (DESIGN CHOICE, log entry 78). -/
def State.opPending (s : State) (o : Op) : Option Pending :=
  let ask (cls units cycles : Nat) : Option Pending := some ⟨cls, cycles, o.asked, .op o.id units⟩
  let virt := o.homeVirt
  if !s.opGoes o || o.resv != 0 then none
  else
    match o.instr with
    | .mloop _ =>
      if o.phase = 1 then
        let n := min 8 (mlSteps o.desc - o.pos)
        ask 0 n (32 * n)
      else if o.phase = 2 ∧ o.pos < 16384 then
        if virt then
          let n := min 4096 (16384 - o.pos)
          ask 3 n (ceilDiv n 16)
        else ask 0 (16384 - o.pos) (ceilDiv (16384 - o.pos) 64)
      -- a virtual home's 32 lines of tags and its status line (R245)
      else if o.phase = 2 ∧ virt then ask 3 1 33
      else none
    | .macc _ =>
      if o.phase = 0 ∨ o.units ≤ o.pos then none
      else ask 0 (o.units - o.pos) (if virt then o.openCycles else ceilDiv (8 * (o.units - o.pos)) 1024)
    | .mdrain _ =>
      if o.phase = 0 ∨ o.units ≤ o.pos then none else ask 0 (o.units - o.pos) (ceilDiv ((o.units - o.pos) * o.drainWidth) 64)
    | .mscale _ => if o.phase = 0 ∨ o.units ≤ o.pos then none else ask 0 (o.units - o.pos) (ceilDiv (o.units - o.pos) 64)
    | .wpool _ =>
      if o.phase = 0 ∨ o.units ≤ o.pos then none
      else
        let taps := max 1 (vw o.ext 2 15 8 * vw o.ext 2 7 0)
        let n := min (max 1 (32768 / taps)) (o.units - o.pos)
        ask 0 n (min 256 (ceilDiv (n * taps) 128))
    | .fqueue _ => if o.phase = 0 then ask 2 1 o.openCycles else none
    | .lathe _ => if o.amount ≤ o.pos then none else
        let n := if o.amount - o.pos ≤ 256 then o.amount - o.pos else
            256 - (o.latheAt (o.pos + 256)).2 % 128 / latheSize (latheFields o.instr)
        ask 3 n n
    | i =>
      if isFerry i ∧ o.phase < o.chunkLen o.pos then
        if combines i then
          let n := min 256 (o.chunkLen o.pos - o.phase)
          ask 3 n n
        else ask 2 1 o.openCycles
      else none

/-- Every unit of a cluster that waits for a reservation (R404). -/
def State.pendingUnits (s : State) (c : Nat) : List Pending :=
  (s.ops.filter (fun o => o.core / 4 == c)).filterMap s.opPending ++
  (s.rafts.filter (fun r => r.here / 4 == c && !r.halted && !s.away r.id)).flatMap (fun r =>
    r.subs.filterMap (fun (e, en) => match en.clause with
      | some cl =>
        if en.resv < en.needs r.width then
          some ⟨1, min 256 (cl.vecCycles r.width cl.words.length - 256 * en.resv), en.since, .clause r.id e⟩
        else none
      | none => none))

/-- A class has been charged fewer cycles than its floor in this period. -/
def Cluster.below (x : Cluster) (cls : Nat) : Bool := decide (x.charged.getD cls 0 < floorOf x.floor cls)
/-- A reservation may be granted now (R403): it fits the total, or its class is below its floor. -/
def Cluster.affords (x : Cluster) (p : Pending) : Bool :=
  x.below p.cls || decide (x.spent + weight p.cls * p.cycles ≤ x.total.toNat)
/-- The oldest unit of each class that waits (R403). -/
def State.classHeads (s : State) (c : Nat) : List Pending :=
  (List.range 4).filterMap (fun k => leastByKeys (fun (p : Pending) => [p.since]) ((s.pendingUnits c).filter (fun p => p.cls == k)))
/-- The reservation made. -/
def State.reserveFor (s : State) (who : Claimant) : State :=
  match who with
  | .op id n => { s with ops := s.ops.map (fun o => if o.id = id then { o with resv := n } else o) }
  | .clause raft ent => s.mapEntry raft ent (fun en => { en with resv := en.resv + 1 })
/-- RESERVATION_GRANT (R23, R403), judged by the period that runs: within a class the oldest request alone,
among the classes one below its floor first, then the oldest. -/
def execReservationGrant (cluster : Nat) (s : State) : Out :=
  .next (
    let s := s.inPeriod cluster
    let x := s.cluster cluster
    match leastByKeys (fun (p : Pending) => [if x.below p.cls then 0 else 1, p.since])
        ((s.classHeads cluster).filter x.affords) with
    | none => s
    | some p =>
      (s.reserveFor p.who).mapCluster cluster (fun x =>
        { x with charged := setAt x.charged p.cls (x.charged.getD p.cls 0 + p.cycles), spent := x.spent + weight p.cls * p.cycles }))

/-! ### The control block's writes (R386, R401) -/

/-- PLIMIT, PEER_RETRY, ERR_CTL and the parameters of R349, with what they refuse. -/
def State.putPlimit (s : State) (v : Word) : State := if v.toNat ≤ 4000 then { s with ctl := { s.ctl with plimit := v } } else s
def State.putPeerRetry (s : State) (v : Word) : State :=
  if 1 ≤ v.toNat ∧ v.toNat ≤ 1024 then { s with ctl := { s.ctl with peerRetry := v } } else s
def State.putErrCtl (s : State) (v : Word) : State := if ringCtlOk v.toNat then { s with ctl := { s.ctl with errCtl := v } } else s
def State.putAge (s : State) (which : AgeParam) (v : Word) : State :=
  let x := v.toNat
  match which with
  | .ageInterval => if 1 ≤ x ∧ x ≤ 65535 then { s with ctl := { s.ctl with ageInterval := v } } else s
  | .ageCap => if x ≤ 127 then { s with ctl := { s.ctl with ageCap := v } } else s
  | .readInterval => if 1 ≤ x ∧ x ≤ 65535 then { s with ctl := { s.ctl with readInterval := v } } else s

/-- PLIMIT_WRITE (R401). -/
def execPlimitWrite (value : Word) (s : State) : Out := .next (s.putPlimit value)
/-- PEER_RETRY_WRITE (R401). -/
def execPeerRetryWrite (value : Word) (s : State) : Out := .next (s.putPeerRetry value)
/-- ERR_CTL_WRITE (R401). -/
def execErrCtlWrite (value : Word) (s : State) : Out := .next (s.putErrCtl value)
/-- AGE_PARAM_WRITE (R349). -/
def execAgeParamWrite (which : AgeParam) (value : Word) (s : State) : Out := .next (s.putAge which value)
/-- FQ_CTL_WRITE (R386). -/
def execFqCtlWrite (value : Word) (s : State) : Out := .next (s.csrPut 0 0x007 value.toNat)
/-- STOW_SLOTS_WRITE (R386). -/
def execStowSlotsWrite (value : Word) (s : State) : Out := .next (s.csrPut 0 0x005 value.toNat)

/-- A command's effect on the state. -/
def afterOut (s : State) (o : Out) : State := match o with
  | .next t => t
  | _ => s

/-- HT_CMD as it reads: BUSY, STATUS and OP (R267). -/
def State.htCmd (s : State) : DWord :=
  BitVec.ofNat 64 ((if s.htBusy.isSome then 2 ^ 63 else 0) + s.htStatus % 8 * 2 ^ 60 + s.htOp.toNat)
/-- A 64-bit or 48-bit register of the block: its value; none at an offset that is not one's. -/
def State.get64 (s : State) (off : Nat) : Option DWord :=
  if 0x10000 ≤ off ∧ off < 0x20000 ∧ off % 8 = 0 then some (sget s.peerMap ((off - 0x10000) / 8))
  else if 0x20000 ≤ off ∧ off < 0x22000 ∧ off % 8 = 0 then some (sget s.peerImport ((off - 0x20000) / 8))
  else if 0x40000 ≤ off ∧ off < 0x41000 ∧ off % 64 = 0x10 then some (s.cluster ((off - 0x40000) / 64)).floor
  else match off with
    | 0x00 => some s.htEntry
    | 0x08 => some s.htCmd
    | 0x18 => some s.ctl.qtCmd
    | 0x10 => some s.ctl.qtBase
    | 0x30 => some s.ctl.asidBase
    | 0x48 => some s.ctl.errBase
    | 0x58 => some s.ctl.errHead
    | 0x60 => some s.ctl.errTail
    | 0x68 => some (s.ctl.ceCount.setWidth 64)
    | _ => none
/-- One written: reserved bits are ignored, low bits that read zero stay zero (R401); but HT_ENTRY keeps its reserved bits,
which R266 lets a command refuse (DESIGN CHOICE, log entry 102). Room in the error ring lets records that wait into it. -/
def State.put64 (s : State) (off : Nat) (x : DWord) : State :=
  let low (n : Nat) : DWord := BitVec.ofNat 64 (zeroLow x.toNat n)
  if 0x10000 ≤ off ∧ off < 0x20000 then { s with peerMap := sset s.peerMap ((off - 0x10000) / 8) (x &&& 0x1FFFF#64) }
  else if 0x20000 ≤ off ∧ off < 0x22000 then { s with peerImport := sset s.peerImport ((off - 0x20000) / 8) (x &&& 0x80001FFFFFFFFFFF#64) }
  else if 0x40000 ≤ off then s.putFloor ((off - 0x40000) / 64) x
  else match off with
    | 0x00 => { s with htEntry := x }
    | 0x10 => { s with ctl := { s.ctl with qtBase := low 12 } }
    | 0x30 => { s with ctl := { s.ctl with asidBase := low 20 } }
    | 0x48 => { s with ctl := { s.ctl with errBase := low 12 } }
    | 0x60 => State.postErrors s.errWait { s with ctl := { s.ctl with errTail := x } }
    | 0x68 => { s with ctl := { s.ctl with ceCount := x.setWidth 48 } }
    | _ => s
/-- A register of at most 32 bits, written by a 4-byte access at its offset. -/
def State.put32 (s : State) (off : Nat) (v : Word) : State :=
  if 0x40000 ≤ off ∧ off < 0x41000 then
    let c := (off - 0x40000) / 64
    match off % 64 with
    | 0x00 => s.putClkPat c (v.setWidth 16)
    | 0x18 => s.putTotal c v
    | _ => s
  else match off with
    | 0x20 => s.putAge .ageInterval v
    | 0x24 => s.putAge .ageCap v
    | 0x28 => s.putAge .readInterval v
    | 0x38 => { s with ctl := { s.ctl with peerId := v &&& 0x1FFF#32 } }
    | 0x3C => s.putPeerRetry v
    | 0x40 => s.putPlimit v
    | 0x50 => s.putErrCtl v
    | _ => s
/-- A register of at most 32 bits as it reads: zero where none is assigned (R401). -/
def State.get32 (s : State) (off : Nat) : Word :=
  if 0x40000 ≤ off ∧ off < 0x41000 then
    let x := s.cluster ((off - 0x40000) / 64)
    match off % 64 with
    | 0x00 => x.pat.setWidth 32
    | 0x08 => (x.effNow s.clock).setWidth 32
    | 0x18 => x.total
    | 0x20 => x.headroom.setWidth 32
    | _ => 0
  else match off with
    | 0x20 => s.ctl.ageInterval
    | 0x24 => s.ctl.ageCap
    | 0x28 => s.ctl.readInterval
    | 0x38 => s.ctl.peerId
    | 0x3C => s.ctl.peerRetry
    | 0x40 => s.ctl.plimit
    | 0x50 => s.ctl.errCtl
    | _ => 0
/-- What a load of 4 or 8 bytes by a control-die core returns at an offset from CTLBLK (R401): a 64-bit or 48-bit register
whole or by halves, a narrower one in 4 bytes; any other access, and an offset that is not assigned, reads zero. -/
def State.blockLoad (s : State) (off bytes : Nat) : DWord :=
  if off % bytes ≠ 0 ∨ (bytes ≠ 4 ∧ bytes ≠ 8) then 0
  else if bytes = 8 then (s.get64 off).getD 0
  else
    match s.get64 off, (if off % 8 = 4 then s.get64 (off - 4) else none) with
    | some x, _ => (x.setWidth 32).setWidth 64
    | none, some x => x >>> 32
    | none, none => (s.get32 off).setWidth 64
/-- A command written to HT_CMD or QT_CMD (R267, R336) (DEDUCED, log entry 24). -/
def State.command (s : State) (off : Nat) (v : Nat) : State :=
  if off = 8 then s.htCommand (BitVec.ofNat 2 v)
  else
    match field v 17 16 with
    | 1 => afterOut s (execQtEnable (BitVec.ofNat 16 v) s)
    | 2 => afterOut s (execQtDisable (BitVec.ofNat 16 v) s)
    | _ => s

/-- REGISTER_WRITE (R386, R401): a store of 4 or 8 bytes by a control-die core at an offset from CTLBLK. From 0x10_0000
on, offsets stand for the control registers of R386, 0x1000 to each core and 8 to each register (DESIGN CHOICE, log entry 15)
(DESIGN CHOICE, log entry 84). -/
def execRegisterWrite (offset bytes : Nat) (value : DWord) (s : State) : Out :=
  let v32 : Word := value.setWidth 32
  .next (
    if offset % bytes ≠ 0 ∨ (bytes ≠ 4 ∧ bytes ≠ 8) then s
    else if 0x100000 ≤ offset then
      let core := (offset - 0x100000) / 0x1000
      let num := offset % 0x1000 / 8
      match s.csrGet core num with
      | some (wide, _, rw) => if rw && wide == (bytes == 8) && decide (core < 256) then s.csrPut core num value.toNat else s
      | none => s
    else if offset = 8 ∨ offset = 0x18 then s.command offset value.toNat
    else if bytes = 8 then (if (s.get64 offset).isSome then s.put64 offset value else s)
    else
      match s.get64 offset, s.get64 (offset - 4) with
      | some old, _ => s.put64 offset (old.extractLsb' 32 32 ++ v32)
      | none, some old => if 4 ≤ offset ∧ offset % 8 = 4 then s.put64 (offset - 4) (v32 ++ old.setWidth 32) else s.put32 offset v32
      | none, none => s.put32 offset v32)

/-! ### Boot and identity (R408, R409) -/

/-- A list of bytes cut or filled with zeros to a length. -/
def fit (n : Nat) (b : List Byte) : List Byte := (b ++ toBytes n 0).take n
/-- A field of an image's header. -/
def imageField (img : List Byte) (off n : Nat) : Nat := ofBytes ((img.drop off).take n)
/-- The bytes that an image's signature covers. -/
def signedBytes (img : List Byte) : List Byte := img.take 0x40 ++ (img.drop 256).take (imageField img 8 8)
/-- An image is accepted at a fused rollback level (R409). -/
def imageOk (img : List Byte) (level : Word) : Bool :=
  let n := imageField img 8 8
  decide (256 ≤ img.length) && imageField img 0 4 == 0x4E37494D && decide (level.toNat ≤ imageField img 4 4) &&
  decide (1 ≤ n) && decide (n ≤ 2 ^ 28) && decide (256 + n ≤ img.length) &&
  Config.keyHashes.contains (Config.sha512 ((img.drop 0x20).take 32)) && ((img.drop 0x80).take 128).all (· == 0) &&
  Config.edVerify ((img.drop 0x20).take 32) (Config.sha512 (signedBytes img)) ((img.drop 0x40).take 64)
/-- The image loaded: its level kept, its measurement added (R409). -/
def Mgmt.load (m : Mgmt) (img : List Byte) : Mgmt :=
  { m with
    measured := (m.measured ++ [fit 64 (Config.sha512 (signedBytes img))]).take 16
    loadedCount := m.loadedCount + 1 }
/-- The images that a boot loads: the primary, else the backup; then the loader, which it verifies next (R408). -/
def Mgmt.images (m : Mgmt) : List (List Byte) :=
  match m.flash.find? (fun img => imageOk img m.fusedFw) with
  | none => []
  | some img => img :: (if imageOk m.loader m.fusedLdr then [m.loader] else [])
/-- Steps 1 to 4 of the boot: the firmware is started at its ENTRY, else recovery is entered; then the application cores are
released at the loader's ENTRY (R408). -/
def Mgmt.boot (m : Mgmt) : Mgmt :=
  let m1 := { m.images.foldl Mgmt.load m with started := m.images.map (fun img => BitVec.ofNat 64 (imageField img 0x18 8)) }
  match m.images with
  | [] => { m1 with recovery := true, released := false }
  | [img] => { m1 with loadedFw := BitVec.ofNat 32 (imageField img 4 4) }
  | img :: ldr :: _ =>
    { m1 with loadedFw := BitVec.ofNat 32 (imageField img 4 4), loadedLdr := BitVec.ofNat 32 (imageField ldr 4 4), released := true }
/-- An image's payload put at its LOAD address, a physical one; one that does not lie whole in memory is put nowhere
(R409) (DEDUCED, log entry 76). -/
def State.place (s : State) (img : List Byte) : State :=
  let at_ := imageField img 0x10 8
  let n := imageField img 8 8
  if paOk at_ && paOk (at_ + n - 1) then s.physPut at_ ((img.drop 256).take n) else s

/-- The module reset: the control block and every die at their reset values, flash and fuses kept, and the boot made
(R408). What has left the module stays (DESIGN CHOICE, log entry 76). -/
def State.rebooted (s : State) : State :=
  let m : Mgmt := { Mgmt.reset with
    released := false, flash := s.mgmt.flash, loader := s.mgmt.loader, fusedFw := s.mgmt.fusedFw, fusedLdr := s.mgmt.fusedLdr
    out := s.mgmt.out, resetAt := s.clock }
  m.images.foldl State.place { State.reset with
    clock := s.clock, freeCtr := s.freeCtr, nextId := s.nextId, agenda := s.agenda, peerOut := s.peerOut, peerReplies := s.peerReplies
    frames := s.frames
    windowAt := s.clock, mgmt := m.boot
    clusters := (numbered State.reset.clusters).map (fun (c, x) =>
      { ((s.cluster c).repattern s.clock x.eff) with
        pat := x.pat, saved := none, floor := x.floor, total := x.total, headroom := x.headroom, charged := x.charged, spent := 0
        periodEnd := s.clusterCycles c / 4096 * 4096 + 4096 }) }
/-- MODULE_RESET (R408). -/
def execModuleReset (s : State) : Out := .next s.rebooted

/-- ROLLBACK_RAISE: at a signed command of system software, the fused level of the firmware (0) or the loader (1) rises to the
loaded image's; a command that is not signed raises nothing (R409). -/
def execRollbackRaise (command : RollbackCommand) (s : State) : Out :=
  let raise (a b : Word) : Word := if a.toNat < b.toNat then b else a
  .next (if !Config.commandSigned command.image command.bytes then s else match command.image with
    | 0 => { s with mgmt := { s.mgmt with fusedFw := raise s.mgmt.fusedFw s.mgmt.loadedFw } }
    | 1 => { s with mgmt := { s.mgmt with fusedLdr := raise s.mgmt.fusedLdr s.mgmt.loadedLdr } }
    | _ => s)

/-! ### The management port (R410 to R413) -/

/-- Header fields of a message. -/
def msgType (f : MgmtFrame) : Nat := imageField f.message 6 1
def msgVersion (f : MgmtFrame) : Nat := imageField f.message 7 1
def msgSeq (f : MgmtFrame) : Word := BitVec.ofNat 32 (imageField f.message 8 4)
def msgBody (f : MgmtFrame) : List Byte := f.message.drop 16
/-- A frame that the module does not ignore (R410). -/
def msgSeen (f : MgmtFrame) : Bool :=
  f.dest == Config.macAddress && f.etherType == 0x88B5 && decide (16 ≤ f.message.length) && imageField f.message 0 4 == 0x4E374D50 &&
  decide (imageField f.message 4 2 ≤ 1472) && imageField f.message 4 2 == (msgBody f).length
/-- A response's bytes. -/
def response (type status : Nat) (seq : Word) (body : List Byte) : List Byte :=
  toBytes 4 0x4E374D50 ++ toBytes 4 (body.length + type * 2 ^ 16 + 2 ^ 24) ++ toBytes 4 seq.toNat ++ toBytes 4 (status * 2 ^ 16) ++ body

/-- A response sent, and kept with the last 16 (R410). -/
def State.respond (s : State) (f : MgmtFrame) (type status : Nat) (body : List Byte) : State :=
  let o : MgmtOut := ⟨f.source, f.tag, response type status (msgSeq f) (if status = 0 then body else [])⟩
  let kept := s.mgmt.kept ++ [(f.source, msgSeq f, o)]
  { s with mgmt := { s.mgmt with out := s.mgmt.out ++ [o], kept := kept.drop (kept.length - 16) } }
/-- The response kept for a request, sent again (R410). -/
def State.repeatFor (s : State) (f : MgmtFrame) : Option State :=
  (s.mgmt.kept.find? (fun k => k.1 == f.source && k.2.1 == msgSeq f)).map (fun k =>
    { s with mgmt := { s.mgmt with out := s.mgmt.out ++ [k.2.2] } })

/-- A request of a type: what is ignored, repeated, or answered with a status before its own work (R410, R411)
(DEDUCED, log entry 77). -/
def State.request (s : State) (f : MgmtFrame) (type reply : Nat) (recovery : Bool) (work : State → State) : State :=
  if !msgSeen f || msgType f != type then s
  else match s.repeatFor f with
    | some s1 => s1
    | none =>
      if s.mgmt.commit.isSome then s.respond f reply 6 []
      else if msgVersion f ≠ 1 then s.respond f reply 1 []
      else if imageField f.message 12 4 ≠ 0 then s.respond f reply 3 []
      else if s.mgmt.recovery != recovery then s.respond f reply 4 []
      else work s

/-- The attestation report but for its signature (R412). -/
def State.report412 (s : State) (nonce : List Byte) : List Byte :=
  let m := s.mgmt
  nonce ++ fit 16 Config.serial ++ toBytes 4 m.fusedFw.toNat ++ toBytes 4 m.fusedLdr.toNat ++
  toBytes 4 (m.measured.length + (if 16 < m.loadedCount then 2 ^ 31 else 0)) ++ toBytes 4 0 ++ fit 32 Config.idKey ++ m.measured.flatten
/-- ATTEST_REQ (R411, R412). -/
def execAttestReq (frame : MgmtFrame) (s : State) : Out :=
  .next (s.request frame 1 2 false (fun s =>
    if (msgBody frame).length ≠ 32 then s.respond frame 2 3 []
    else
      let b := s.report412 (msgBody frame)
      s.respond frame 2 0 (b ++ fit 64 (Config.edSign b))))

/-- The telemetry body (R412). -/
def State.telemetry (s : State) : List Byte :=
  toBytes 8 s.ctl.ceCount.toNat ++ toBytes 4 s.ctl.plimit.toNat ++ toBytes 4 s.mgmt.draw ++
  (List.range 64).map (fun c => (s.cluster c).headroom) ++ (List.range 64).flatMap (fun c => toBytes 2 ((s.cluster c).effNow s.clock).toNat) ++
  toBytes 8 s.ctl.errHead.toNat ++ toBytes 8 ((s.clock - s.mgmt.resetAt) / perUs) ++
  [BitVec.ofNat 8 (total (s.upDies.map (fun d => 2 ^ d)))] ++ toBytes 31 0
/-- TELEM_REQ (R411, R412). -/
def execTelemReq (frame : MgmtFrame) (s : State) : Out :=
  .next (s.request frame 3 4 false (fun s =>
    if msgBody frame ≠ [] then s.respond frame 4 3 [] else s.respond frame 4 0 s.telemetry))

/-- RECOV_HELLO (R413). -/
def execRecovHello (frame : MgmtFrame) (s : State) : Out :=
  .next (s.request frame 5 6 true (fun s =>
    if msgBody frame ≠ [] then s.respond frame 6 3 []
    else s.respond frame 6 0 (toBytes 4 1 ++ toBytes 4 1024 ++ toBytes 4 0x10000100 ++ toBytes 4 (s.mgmt.staged.getD 0 0))))
/-- RECOV_WRITE (R413). -/
def execRecovWrite (frame : MgmtFrame) (s : State) : Out :=
  .next (s.request frame 7 8 true (fun s =>
    let b := msgBody frame
    let slot := imageField b 0 4
    let off := imageField b 4 4
    let data := b.drop 8
    if b.length < 9 ∨ 1032 < b.length ∨ 1 < slot ∨ 0x10000100 < off + data.length then s.respond frame 8 3 []
    else
      ({ s with mgmt := { s.mgmt with
          staging := setAt s.mgmt.staging slot (ssets (s.mgmt.staging.getD slot []) off data)
          staged := setAt s.mgmt.staged slot (max (s.mgmt.staged.getD slot 0) (off + data.length)) } } : State).respond frame 8 0 []))
/-- A commit that runs ends: the staged image is verified, and written to its flash slot or rejected (R413). -/
def State.endCommit (s : State) (frame : MgmtFrame) : State :=
  let s1 : State := { s with mgmt := { s.mgmt with commit := none } }
  let slot := imageField (msgBody frame) 0 4
  let n := imageField (msgBody frame) 4 4
  let stage := s.mgmt.staging.getD slot []
  if n ≠ 256 + ofBytes (sgets stage 8 8) then s1.respond frame 8 5 []
  else
    let img := sgets stage 0 n
    if !imageOk img s.mgmt.fusedFw then s1.respond frame 8 5 []
    else ({ s1 with mgmt := { s1.mgmt with flash := setAt s1.mgmt.flash slot img } } : State).respond frame 8 0 []
/-- RECOV_COMMIT: a commit begins to run, and in its own time, when the event comes again, ends; until then every other request
receives BUSY (R411, R413) (DEDUCED, log entry 77). -/
def execRecovCommit (frame : MgmtFrame) (s : State) : Out :=
  .next (if s.mgmt.commit = some frame then s.endCommit frame
    else s.request frame 9 8 true (fun s =>
      let b := msgBody frame
      if b.length ≠ 8 ∨ 1 < imageField b 0 4 then s.respond frame 8 3 []
      else { s with mgmt := { s.mgmt with commit := some frame } }))
/-- RECOV_RESET: the answer, then the module's reset (R413). -/
def execRecovReset (frame : MgmtFrame) (s : State) : Out :=
  .next (s.request frame 10 8 true (fun s =>
    if msgBody frame ≠ [] then s.respond frame 8 3 [] else (s.respond frame 8 0 []).rebooted))

/-- A type that the module sends, or that is unassigned (R411). -/
def badType (t : Nat) : Bool := !([1, 3, 5, 7, 9, 10] : List Nat).contains t
/-- The RECOV types, which alone are answered in recovery (R411). -/
def recovType (t : Nat) : Bool := decide (5 ≤ t) && decide (t ≤ 10)
/-- MGMT_BAD_MESSAGE: BUSY while a commit runs, BADVERSION, NOTNOW for a type of the other mode, else BADTYPE (R411)
(DEDUCED, log entry 77). The spec names no TYPE for the response, which is a free value (DESIGN CHOICE, log entry 16). -/
def execMgmtBadMessage (frame : MgmtFrame) (s : State) : Out :=
  .next (
    if !msgSeen frame || !badType (msgType frame) then s
    else match s.repeatFor frame with
      | some s1 => s1
      | none =>
        let (n, s1) := s.draw
        s1.respond frame (n % 256) (if s.mgmt.commit.isSome then 6 else if msgVersion frame ≠ 1 then 1
          else if s.mgmt.recovery != recovType (msgType frame) then 4 else 2) [])

/-! ### Errors and containment (R13, R414) -/

/-- CORRECTED_ERROR (R414): the word is corrected in place. -/
def execCorrectedError (_pa : Nat) (s : State) : Out := .next { s with ctl := { s.ctl with ceCount := s.ctl.ceCount + 1 } }

/-- All work of the module stops (R414, code 7) (DEDUCED, log entry 74). -/
def State.stopAll (s : State) : State :=
  { s with
    running := [], rafts := [], teams := [], debugs := [], launches := [], reqs := [], ops := [], notices := [], credits := [], exchanges := []
    grants := [], regrants := [], passes := [], frags := [], leases := [], queues := [], watches := [], ringWait := [], walks := [], htBusy := none, posts := [], reserved := [], struck := []
    ctl := { s.ctl with qtCmd := s.ctl.qtCmd &&& 0x7FFFFFFFFFFFFFFF#64 }
    mgmt := { s.mgmt with recovery := true, released := false } }

/-- A word that an uncorrectable error has struck holds a free value (DEDUCED, log entry 73). -/
def State.spoil (s : State) (asid va : Nat) : State :=
  let at_ := va / 8 * 8
  let (n, s1) := s.draw
  match s1.l2At asid at_ with
  | some l =>
    { s1 with lines := s1.lines.map (fun x => if x = l then { x with data := overlay x.data (at_ % 128) (toBytes 8 n) } else x) }
  | none =>
    match s1.entryFor asid at_ with
    | some e => s1.physPut (e.pa at_) (toBytes 8 n)
    | none => s1
/-- The page of an address marked fault-pending in every TLB (R289, R414): the span that a walk finds without V, and 64 KiB
where it finds no page at all (DEDUCED, log entry 73). -/
def State.markPage (s : State) (asid va : Nat) : State :=
  let (base, size) := match s.entryFor asid va, s.walk asid va with
    | some e, _ => (e.base, e.size)
    | none, .absent base size _ => (base, size)
    | none, _ => (va57 va / 65536 * 65536, 65536)
  { s with marks := (List.range 9).map (fun side => ⟨side, asid, base, size⟩) ++ s.marks }

/-- UNCORRECTABLE_ERROR: contained by its location code, and recorded in the error ring (R414). -/
def execUncorrectableError (place : ErrorPlace) (pa die : Nat) (s : State) : Out :=
  let asidOf (t : Nat) : Nat := ((s.team? t).map (·.asid)).getD 0
  let killTeam (t code : Nat) : State := (s.terminate t 41).postError ⟨pa, asidOf t, code, die⟩
  .next (match place with
    | .teamState t => killTeam t 1
    | .engineEntry r => killTeam (((s.raft? r).map (·.team)).getD s.nextId) 2
    | .cleanLine asid line =>
      ({ s with
        l1 := s.l1.filter (fun l => !(l.asid == asid && l.line == line))
        lines := s.lines.filter (fun l => !(l.asid == asid && l.line == line && !l.dirty)) } : State).postError ⟨pa, asid, 3, die⟩
    | .dirtyWord asid va =>
      (((s.spoil asid va.toNat).markPage asid va.toNat).terminateAll (fun t => t.asid == asid)).postError ⟨pa, asid, 4, die⟩
    | .stowSlot t => killTeam t 5
    | .dieDown d => if d < 8 then s.dieDown d pa else s
    | .controlDie => (s.postError ⟨pa, 0, 7, 8⟩).stopAll)

/-- A team of a die that has reset is terminated: nothing of it is left on the die, and what runs on another die completes
first (R13, R374). -/
def State.lostTeam (s : State) (die : Nat) (t : Team) : State :=
  let rids := (s.raftsOf t.id).map (·.id)
  let mine (x : Option Nat) : Bool := match x with | some r => rids.contains r | none => false
  let s1 : State := { s with
    running := s.running.filter (fun x => !rids.contains x.1)
    reqs := s.reqs.filter (fun q => !(rids.contains q.raft && q.core / 32 == die))
    ops := s.ops.filter (fun o => !(mine o.raft && o.core / 32 == die)) }
  if s1.teamBusy rids then
    ((s1.mapTeam t.id (fun t => { t with dying := some (t.dying.getD 0), stowTry := none })).mapTeamRafts t.id
      (fun r => { r with halted := true, stopping := none }))
  else s1.endTeam t true

/-- COMPUTE_DIE_RESET (R13): the die's cores, banks, TLB and engines hold nothing; its teams are terminated; a COPY that
one of its cores performed ends with a fault. A stowed team is held in memory, its suspended work with it, and ends only
where it has left work running on the die (DEDUCED, log entry 75). -/
def execComputeDieReset (die : Nat) (s : State) : Out :=
  let on (core : Nat) : Bool := core / 32 == die
  .next (if 8 ≤ die then s
    else
      let s1 := (s.teams.filter (fun t => !t.ended && t.stowed.isNone && t.cores.any on)).foldl (fun s t => s.lostTeam die t) s
      -- a raft in a landing slot of the die loses its context, and its team ends too
      let lost (t : Team) : Bool := (s1.raftsOf t.id).any (fun r =>
        if t.stowed.isNone then on r.here
        else s1.reqs.any (fun q => q.raft == r.id && on q.core && !q.replay) || s1.ops.any (fun o => o.raft == some r.id && on o.core && o.susp.isNone))
      let s2 := (s1.teams.filter (fun t => !t.ended && t.dying.isNone && lost t)).foldl (fun s t => s.lostTeam die t) s1
      let kept (rid : Nat) : Bool := s2.away rid
      { s2 with
        ops := (s2.ops.filter (fun o => !(on o.core && o.raft.any (fun r => !kept r)))).map (fun o =>
          if on o.core && o.raft.isNone then { o with fault := some ⟨41, 0, 0, 0, 0, 0, []⟩ } else o)
        reqs := s2.reqs.filter (fun q => !on q.core || kept q.raft)
        tile := s2.tile.filter (fun x => !on (x.1 / 2 ^ 32)), empty := s2.empty.filter (fun x => !on (x.1 / 2 ^ 25))
        kept := s2.kept.filter (fun k => !on k.core), exchanges := s2.exchanges.filter (fun e => e.die != die)
        links := s2.links.filter (fun l => l.1.1 != die && l.1.2 != die)
        notices := s2.notices.filter (fun n => match n.kind with | .wake core _ _ => !on core | .fired _ => true)
        clusters := (numbered s2.clusters).map (fun (c, x) => if c / 8 = die then { x with charged := [0, 0, 0, 0], spent := 0 } else x)
        l1 := s2.l1.filter (fun l => !on l.core), lines := s2.lines.filter (fun l => s2.homeOf l.asid (128 * l.line) != die)
        tlb := s2.tlb.filter (fun e => e.side != die), marks := s2.marks.filter (fun m => m.side != die)
        walks := s2.walks.filter (fun w => s2.homeOf w.asid w.va.toNat != die)
        watches := s2.watches.filter (fun w => w.unit / 32 != die), points := s2.points.filter (fun x => !on (x.1 / 4))
        prefDrop := s2.prefDrop.filter (fun x => !on x.1), bankCtr := s2.bankCtr.filter (fun x => x.1 / 512 != die)
        passes := s2.passes.filter (fun p => p.die != die)
        passEnds := s2.passEnds ++ (s2.passes.filter (fun p => p.die == die)).map (fun p => (p.asid, p.addr)) })

end Sys2Proof.Machine
end

