-- ==== Sys2Proof/Machine/Dispatch.lean ====
section
/-!
DEFINITION. The dispatch of a step to its meaning: one arm for each constructor of `Instr`.
-/

namespace Sys2Proof.Machine

open Sys2Proof

/-- The meaning of an instruction or event. -/
def exec (i : Instr) (s : State) : Host.Outcome State Fault Refusal :=
  match i with
  | .iadd f => Sys2Proof.Machine.execIadd f s
  | .isub f => Sys2Proof.Machine.execIsub f s
  | .imul f => Sys2Proof.Machine.execImul f s
  | .imad f => Sys2Proof.Machine.execImad f s
  | .imin f => Sys2Proof.Machine.execImin f s
  | .imax f => Sys2Proof.Machine.execImax f s
  | .iabs f => Sys2Proof.Machine.execIabs f s
  | .and f => Sys2Proof.Machine.execAnd f s
  | .or f => Sys2Proof.Machine.execOr f s
  | .xor f => Sys2Proof.Machine.execXor f s
  | .andn f => Sys2Proof.Machine.execAndn f s
  | .shl f => Sys2Proof.Machine.execShl f s
  | .shr f => Sys2Proof.Machine.execShr f s
  | .sar f => Sys2Proof.Machine.execSar f s
  | .rotl f => Sys2Proof.Machine.execRotl f s
  | .popc f => Sys2Proof.Machine.execPopc f s
  | .clz f => Sys2Proof.Machine.execClz f s
  | .brev f => Sys2Proof.Machine.execBrev f s
  | .bfe f => Sys2Proof.Machine.execBfe f s
  | .bfi f => Sys2Proof.Machine.execBfi f s
  | .icmp f => Sys2Proof.Machine.execIcmp f s
  | .sel f => Sys2Proof.Machine.execSel f s
  | .mov f => Sys2Proof.Machine.execMov f s
  | .iaddi f => Sys2Proof.Machine.execIaddi f s
  | .andi f => Sys2Proof.Machine.execAndi f s
  | .ori f => Sys2Proof.Machine.execOri f s
  | .xori f => Sys2Proof.Machine.execXori f s
  | .shi f => Sys2Proof.Machine.execShi f s
  | .movi f => Sys2Proof.Machine.execMovi f s
  | .icmpi f => Sys2Proof.Machine.execIcmpi f s
  | .dot4 f => Sys2Proof.Machine.execDot4 f s
  | .fadd f => Sys2Proof.Machine.execFadd f s
  | .fsub f => Sys2Proof.Machine.execFsub f s
  | .fmul f => Sys2Proof.Machine.execFmul f s
  | .ffma f => Sys2Proof.Machine.execFfma f s
  | .fmin f => Sys2Proof.Machine.execFmin f s
  | .fmax f => Sys2Proof.Machine.execFmax f s
  | .fcmp f => Sys2Proof.Machine.execFcmp f s
  | .fclass f => Sys2Proof.Machine.execFclass f s
  | .frcp f => Sys2Proof.Machine.execFrcp f s
  | .frsq f => Sys2Proof.Machine.execFrsq f s
  | .fexp2 f => Sys2Proof.Machine.execFexp2 f s
  | .flog2 f => Sys2Proof.Machine.execFlog2 f s
  | .fsin f => Sys2Proof.Machine.execFsin f s
  | .fcos f => Sys2Proof.Machine.execFcos f s
  | .fsqrt f => Sys2Proof.Machine.execFsqrt f s
  | .fdiv f => Sys2Proof.Machine.execFdiv f s
  | .hadd2 f => Sys2Proof.Machine.execHadd2 f s
  | .hmul2 f => Sys2Proof.Machine.execHmul2 f s
  | .hfma2 f => Sys2Proof.Machine.execHfma2 f s
  | .hmin2 f => Sys2Proof.Machine.execHmin2 f s
  | .hmax2 f => Sys2Proof.Machine.execHmax2 f s
  | .dadd f => Sys2Proof.Machine.execDadd f s
  | .dmul f => Sys2Proof.Machine.execDmul f s
  | .dfma f => Sys2Proof.Machine.execDfma f s
  | .fdot2h f => Sys2Proof.Machine.execFdot2h f s
  | .cvt f => Sys2Proof.Machine.execCvt f s
  | .shfl f => Sys2Proof.Machine.execShfl f s
  | .vote f => Sys2Proof.Machine.execVote f s
  | .redux f => Sys2Proof.Machine.execRedux f s
  | .scan f => Sys2Proof.Machine.execScan f s
  | .plop f => Sys2Proof.Machine.execPlop f s
  | .lane f => Sys2Proof.Machine.execLane f s
  | .pblk f => Sys2Proof.Machine.execPblk f s
  | .ld f => Sys2Proof.Machine.execLd f s
  | .st f => Sys2Proof.Machine.execSt f s
  | .ldb f => Sys2Proof.Machine.execLdb f s
  | .stb f => Sys2Proof.Machine.execStb f s
  | .ldt f => Sys2Proof.Machine.execLdt f s
  | .stt f => Sys2Proof.Machine.execStt f s
  | .ldx f => Sys2Proof.Machine.execLdx f s
  | .stx f => Sys2Proof.Machine.execStx f s
  | .atom f => Sys2Proof.Machine.execAtom f s
  | .cas f => Sys2Proof.Machine.execCas f s
  | .cas128 f => Sys2Proof.Machine.execCas128 f s
  | .fence f => Sys2Proof.Machine.execFence f s
  | .ftag f => Sys2Proof.Machine.execFtag f s
  | .pref f => Sys2Proof.Machine.execPref f s
  | .invl1 f => Sys2Proof.Machine.execInvl1 f s
  | .setfe f => Sys2Proof.Machine.execSetfe f s
  | .rrot f => Sys2Proof.Machine.execRrot f s
  | .macc f => Sys2Proof.Machine.execMacc f s
  | .mloop f => Sys2Proof.Machine.execMloop f s
  | .mdrain f => Sys2Proof.Machine.execMdrain f s
  | .mscale f => Sys2Proof.Machine.execMscale f s
  | .mstat f => Sys2Proof.Machine.execMstat f s
  | .wview f => Sys2Proof.Machine.execWview f s
  | .wpool f => Sys2Proof.Machine.execWpool f s
  | .fcopy f => Sys2Proof.Machine.execFcopy f s
  | .fgather f => Sys2Proof.Machine.execFgather f s
  | .fscatter f => Sys2Proof.Machine.execFscatter f s
  | .ffill f => Sys2Proof.Machine.execFfill f s
  | .fqueue f => Sys2Proof.Machine.execFqueue f s
  | .emit f => Sys2Proof.Machine.execEmit f s
  | .tileget f => Sys2Proof.Machine.execTileget f s
  | .tiledone f => Sys2Proof.Machine.execTiledone f s
  | .vis f => Sys2Proof.Machine.execVis f s
  | .blend f => Sys2Proof.Machine.execBlend f s
  | .trace f => Sys2Proof.Machine.execTrace f s
  | .lathe f => Sys2Proof.Machine.execLathe f s
  | .batch f => Sys2Proof.Machine.execBatch f s
  | .nop f => Sys2Proof.Machine.execNop f s
  | .bru f => Sys2Proof.Machine.execBru f s
  | .brd f => Sys2Proof.Machine.execBrd f s
  | .join f => Sys2Proof.Machine.execJoin f s
  | .jmp f => Sys2Proof.Machine.execJmp f s
  | .jmpi f => Sys2Proof.Machine.execJmpi f s
  | .jmpiDiv f => Sys2Proof.Machine.execJmpiDiv f s
  | .call f => Sys2Proof.Machine.execCall f s
  | .callInd f => Sys2Proof.Machine.execCallInd f s
  | .ret f => Sys2Proof.Machine.execRet f s
  | .exit f => Sys2Proof.Machine.execExit f s
  | .waitc f => Sys2Proof.Machine.execWaitc f s
  | .waitb f => Sys2Proof.Machine.execWaitb f s
  | .waitbKeep f => Sys2Proof.Machine.execWaitbKeep f s
  | .barSync f => Sys2Proof.Machine.execBarSync f s
  | .barArrive f => Sys2Proof.Machine.execBarArrive f s
  | .loop f => Sys2Proof.Machine.execLoop f s
  | .loopUntil f => Sys2Proof.Machine.execLoopUntil f s
  | .strm f => Sys2Proof.Machine.execStrm f s
  | .strmOff f => Sys2Proof.Machine.execStrmOff f s
  | .reorder f => Sys2Proof.Machine.execReorder f s
  | .migrate f => Sys2Proof.Machine.execMigrate f s
  | .migrateHome f => Sys2Proof.Machine.execMigrateHome f s
  | .quota f => Sys2Proof.Machine.execQuota f s
  | .yield f => Sys2Proof.Machine.execYield f s
  | .trapi f => Sys2Proof.Machine.execTrapi f s
  | .bkpt f => Sys2Proof.Machine.execBkpt f s
  | .lease f => Sys2Proof.Machine.execLease f s
  | .leaseEnd f => Sys2Proof.Machine.execLeaseEnd f s
  | .waitmem f => Sys2Proof.Machine.execWaitmem f s
  | .csrr f => Sys2Proof.Machine.execCsrr f s
  | .csrw f => Sys2Proof.Machine.execCsrw f s
  | .dbghalt f => Sys2Proof.Machine.execDbghalt f s
  | .dbgres f => Sys2Proof.Machine.execDbgres f s
  | .dbgstep f => Sys2Proof.Machine.execDbgstep f s
  | .dbgrd f => Sys2Proof.Machine.execDbgrd f s
  | .dbgwr f => Sys2Proof.Machine.execDbgwr f s
  | .watch f => Sys2Proof.Machine.execWatch f s
  | .tlbinv f => Sys2Proof.Machine.execTlbinv f s
  | .tlbinvHold f => Sys2Proof.Machine.execTlbinvHold f s
  | .tlbinvFree f => Sys2Proof.Machine.execTlbinvFree f s
  | .kill f => Sys2Proof.Machine.execKill f s
  | .mbox f => Sys2Proof.Machine.execMbox f s
  | .clauseFetch raft ent => Sys2Proof.Machine.execClauseFetch raft ent s
  | .clauseStart core quad => Sys2Proof.Machine.execClauseStart core quad s
  | .yieldExpiry raft ent => Sys2Proof.Machine.execYieldExpiry raft ent s
  | .quotaGrant raft ent => Sys2Proof.Machine.execQuotaGrant raft ent s
  | .raftFree raft => Sys2Proof.Machine.execRaftFree raft s
  | .teamDispatch launch => Sys2Proof.Machine.execTeamDispatch launch s
  | .loadReply req => Sys2Proof.Machine.execLoadReply req s
  | .storePerform src => Sys2Proof.Machine.execStorePerform src s
  | .atomicPerform req => Sys2Proof.Machine.execAtomicPerform req s
  | .l2Fill asid line acc => Sys2Proof.Machine.execL2Fill asid line acc s
  | .pageWalk asid va acc => Sys2Proof.Machine.execPageWalk asid va acc s
  | .faultRingPost => Sys2Proof.Machine.execFaultRingPost s
  | .mooredReadmit raft => Sys2Proof.Machine.execMooredReadmit raft s
  | .moorLimitExpiry raft => Sys2Proof.Machine.execMoorLimitExpiry raft s
  | .stowDelayExpiry team => Sys2Proof.Machine.execStowDelayExpiry team s
  | .stowRetry team => Sys2Proof.Machine.execStowRetry team s
  | .restore team => Sys2Proof.Machine.execRestore team s
  | .migrateLand raft => Sys2Proof.Machine.execMigrateLand raft s
  | .ferryChunkComplete op => Sys2Proof.Machine.execFerryChunkComplete op s
  | .ferryResume op => Sys2Proof.Machine.execFerryResume op s
  | .fqueueRetry op => Sys2Proof.Machine.execFqueueRetry op s
  | .fscatterCombine op => Sys2Proof.Machine.execFscatterCombine op s
  | .barrierArrive req => Sys2Proof.Machine.execBarrierArrive req s
  | .barrierCredit credit => Sys2Proof.Machine.execBarrierCredit credit s
  | .wakeNotice notice => Sys2Proof.Machine.execWakeNotice notice s
  | .writeNotice notice => Sys2Proof.Machine.execWriteNotice notice s
  | .waitmemRetry raft ent => Sys2Proof.Machine.execWaitmemRetry raft ent s
  | .mloopStart op => Sys2Proof.Machine.execMloopStart op s
  | .mloopStep op => Sys2Proof.Machine.execMloopStep op s
  | .fx64Merge op => Sys2Proof.Machine.execFx64Merge op s
  | .matrixComplete op => Sys2Proof.Machine.execMatrixComplete op s
  | .matrixResume op => Sys2Proof.Machine.execMatrixResume op s
  | .latheElement op => Sys2Proof.Machine.execLatheElement op s
  | .latheResume op => Sys2Proof.Machine.execLatheResume op s
  | .rrotLineWrite req => Sys2Proof.Machine.execRrotLineWrite req s
  | .listProcess op => Sys2Proof.Machine.execListProcess op s
  | .segmentOpen passId => Sys2Proof.Machine.execSegmentOpen passId s
  | .tileGrant op => Sys2Proof.Machine.execTileGrant op s
  | .tileRetire op => Sys2Proof.Machine.execTileRetire op s
  | .visComplete op => Sys2Proof.Machine.execVisComplete op s
  | .fragmentApply frag => Sys2Proof.Machine.execFragmentApply frag s
  | .traceComplete op => Sys2Proof.Machine.execTraceComplete op s
  | .swapStart die => Sys2Proof.Machine.execSwapStart die s
  | .swapPieceCopy die => Sys2Proof.Machine.execSwapPieceCopy die s
  | .swapPieceWrite die => Sys2Proof.Machine.execSwapPieceWrite die s
  | .swapSwitch die => Sys2Proof.Machine.execSwapSwitch die s
  | .htSet => Sys2Proof.Machine.execHtSet s
  | .htRemove => Sys2Proof.Machine.execHtRemove s
  | .htRemoveAsid => Sys2Proof.Machine.execHtRemoveAsid s
  | .qtEnable index => Sys2Proof.Machine.execQtEnable index s
  | .qtDisable index => Sys2Proof.Machine.execQtDisable index s
  | .packetConsume queue => Sys2Proof.Machine.execPacketConsume queue s
  | .queueResume queue => Sys2Proof.Machine.execQueueResume queue s
  | .readIntervalRead queue => Sys2Proof.Machine.execReadIntervalRead queue s
  | .queueMap => Sys2Proof.Machine.execQueueMap s
  | .quantumExpiry queue => Sys2Proof.Machine.execQuantumExpiry queue s
  | .launchStart queue => Sys2Proof.Machine.execLaunchStart queue s
  | .copyStart queue => Sys2Proof.Machine.execCopyStart queue s
  | .semwait queue => Sys2Proof.Machine.execSemwait queue s
  | .semaphoreReread queue => Sys2Proof.Machine.execSemaphoreReread queue s
  | .passPacket queue => Sys2Proof.Machine.execPassPacket queue s
  | .semsignal queue => Sys2Proof.Machine.execSemsignal queue s
  | .marker queue => Sys2Proof.Machine.execMarker queue s
  | .packetComplete queue seq => Sys2Proof.Machine.execPacketComplete queue seq s
  | .spatialPreemption queue => Sys2Proof.Machine.execSpatialPreemption queue s
  | .arbiterPeriod cluster => Sys2Proof.Machine.execArbiterPeriod cluster s
  | .reservationGrant cluster => Sys2Proof.Machine.execReservationGrant cluster s
  | .clkPatWrite cluster value => Sys2Proof.Machine.execClkPatWrite cluster value s
  | .clkEffChange cluster => Sys2Proof.Machine.execClkEffChange cluster s
  | .budFloorWrite cluster value => Sys2Proof.Machine.execBudFloorWrite cluster value s
  | .budTotalWrite cluster value => Sys2Proof.Machine.execBudTotalWrite cluster value s
  | .plimitWrite value => Sys2Proof.Machine.execPlimitWrite value s
  | .fqCtlWrite value => Sys2Proof.Machine.execFqCtlWrite value s
  | .errCtlWrite value => Sys2Proof.Machine.execErrCtlWrite value s
  | .ageParamWrite which value => Sys2Proof.Machine.execAgeParamWrite which value s
  | .peerRetryWrite value => Sys2Proof.Machine.execPeerRetryWrite value s
  | .stowSlotsWrite value => Sys2Proof.Machine.execStowSlotsWrite value s
  | .registerWrite offset bytes value => Sys2Proof.Machine.execRegisterWrite offset bytes value s
  | .leaseExpiry raft => Sys2Proof.Machine.execLeaseExpiry raft s
  | .powerWindow draw => Sys2Proof.Machine.execPowerWindow draw s
  | .headroomZero cluster => Sys2Proof.Machine.execHeadroomZero cluster s
  | .patternBitClear die => Sys2Proof.Machine.execPatternBitClear die s
  | .patternRestore cluster headroom => Sys2Proof.Machine.execPatternRestore cluster headroom s
  | .rollbackRaise command => Sys2Proof.Machine.execRollbackRaise command s
  | .computeDieReset die => Sys2Proof.Machine.execComputeDieReset die s
  | .attestReq frame => Sys2Proof.Machine.execAttestReq frame s
  | .telemReq frame => Sys2Proof.Machine.execTelemReq frame s
  | .recovHello frame => Sys2Proof.Machine.execRecovHello frame s
  | .recovWrite frame => Sys2Proof.Machine.execRecovWrite frame s
  | .recovCommit frame => Sys2Proof.Machine.execRecovCommit frame s
  | .recovReset frame => Sys2Proof.Machine.execRecovReset frame s
  | .mgmtBadMessage frame => Sys2Proof.Machine.execMgmtBadMessage frame s
  | .flitReceive link flit => Sys2Proof.Machine.execFlitReceive link flit s
  | .flitReplay link => Sys2Proof.Machine.execFlitReplay link s
  | .peerFrame frame => Sys2Proof.Machine.execPeerFrame frame s
  | .peerAccess module srcAsid req => Sys2Proof.Machine.execPeerAccess module srcAsid req s
  | .correctedError pa => Sys2Proof.Machine.execCorrectedError pa s
  | .uncorrectableError place pa die => Sys2Proof.Machine.execUncorrectableError place pa die s
  | .renderResume op => Sys2Proof.Machine.execRenderResume op s
  | .headerWatch queue => Sys2Proof.Machine.execHeaderWatch queue s
  | .moduleReset => Sys2Proof.Machine.execModuleReset s

end Sys2Proof.Machine
end

