-- ==== Sys2Proof/Machine/Issue.lean ====
section
/-!
DEFINITION. What a step does: which agent's move comes next, the issue of the slot at the head of a running clause, and
the passing of time (R14, R55, R105).
-/

namespace Sys2Proof.Machine

open Sys2Proof

/-- Time passes: at least one cycle of the master clock (DESIGN CHOICE, log entry 2). -/
def State.tick (s : State) : State := { s with clock := s.clock + 1 + Config.stepExtra s.clock }

/-- The slot of the running clause issues: its word is decoded, and the instruction runs, or raises the first fault of
R55. A turn whose sub-raft has nothing to issue is over, and a vector slot past its reservation waits for the next (R404). -/
def State.issueSlot (s : State) : Out :=
  match s.ctx with
  | none => .next { s with running := s.running.drop 1 }
  | some c =>
    if c.en.resv < c.en.needs c.r.width then .next (s.holdAt c.r.id c.e .slot)
    else match decode c.word with
    | .ok i => exec i s
    | .error .unassignedOp => .next (s.trapAt c 1 c.active 0 0)
    | .error _ => .next (s.trapAt c (if decide (0xE0 ≤ (opOf c.word).toNat) && !c.t.supv then 3 else 1) c.active 0 0)

/-- A sub-raft that waits at a slot could start it now: a turn of it would not leave it waiting there (R54). -/
def State.couldStart (s : State) (rid e : Nat) (en : Entry) : Bool :=
  match ({ s with running := [(rid, e)] } : State).issueSlot with
  | .next t => match (t.raft? rid).bind (·.entry? e) with
    | some x => !(x.clause.isSome && x.pc == en.pc && x.slot == en.slot && x.wait.polls)
    | none => true
  | _ => true
/-- The loads of a raft that wait for an empty tile-memory line, away (R90, R381). -/
def State.pastEmpty (s : State) (rid : Nat) : State :=
  { s with reqs := s.reqs.filter (fun q => !(q.raft == rid && s.onEmpty q)) }
/-- A sub-raft that waits at a slot, as a step leaves it: whether it could start now, and whether a full/empty wait alone
stands before it (R54, R90, R106, R381). Its age counts from the step that lets it start (R105) (DEDUCED, log entry 19). -/
def State.readyAt (s : State) (r : Raft) (e : Nat) (en : Entry) : Entry :=
  if s.couldStart r.id e en then { en with able := true, since := if en.able then en.since else s.clock }
  else
    { en with
      able := false
      wait := if en.wait = .spindle then en.wait
        else if s.reqs.any (fun q => q.raft == r.id && s.onEmpty q) && (s.pastEmpty r.id).couldStart r.id e en then .empty else .slot }
/-- What a step lets start, and what it holds (R105, R106). -/
def State.readied (s : State) : State :=
  { s with rafts := s.rafts.map (fun r => if r.halted then r else
      { r with split := (numbered r.split).map (fun (e, x) => x.map (fun en =>
          if en.wait.polls && en.inside then s.readyAt r e en else en)) }) }
/-- The single steps that have come to a wait which ends them (R381). -/
def State.settleSteps (s : State) : State :=
  s.teams.foldl (fun s t => t.stepping.elim s (fun st => s.settleStop st.raft)) s

/-- The events that a request, an operation, a raft, a queue and the rest may take part in. -/
def reqMoves (q : Req) : List Instr := match q.kind with
  | .load _ _ | .loadRec _ _ _ => [.loadReply q.id]
  | .store | .setfe _ => [.storePerform (.raft q.id)]
  | .atom _ | .cas _ => [.atomicPerform q.id]
  | .rrot => [.rrotLineWrite q.id]
  | .arrive _ _ => [.barrierArrive q.id]
  | .fence => []
def opMoves (o : Op) : List Instr := match o.cls with
  | 0 => [.mloopStart o.id, .mloopStep o.id, .fx64Merge o.id, .matrixComplete o.id, .matrixResume o.id]
  | 1 => [.ferryChunkComplete o.id, .fscatterCombine o.id, .fqueueRetry o.id, .ferryResume o.id]
  | 2 => [.listProcess o.id, .tileGrant o.id, .tileRetire o.id, .visComplete o.id, .traceComplete o.id, .renderResume o.id]
  | _ => [.latheElement o.id, .latheResume o.id]
def raftMoves (r : Raft) : List Instr :=
  [.mooredReadmit r.id, .raftFree r.id, .migrateLand r.id, .moorLimitExpiry r.id, .leaseExpiry r.id] ++
  r.subs.flatMap (fun x => [.yieldExpiry r.id x.1, .quotaGrant r.id x.1, .waitmemRetry r.id x.1, .clauseFetch r.id x.1])
def queueMoves (q : Queue) : List Instr :=
  let i := q.index
  q.packets.map (fun p => .packetComplete i p.seq) ++
  [.headerWatch i, .queueResume i, .packetConsume i, .semaphoreReread i, .semwait i, .passPacket i, .semsignal i, .marker i,
    .copyStart i, .spatialPreemption i, .launchStart i, .readIntervalRead i, .quantumExpiry i]
/-- Every event that the machine's own agents may be about to make. -/
def State.moves (s : State) : List Instr :=
  s.reqs.flatMap reqMoves ++ s.ops.flatMap opMoves ++ s.frags.map (fun f => .fragmentApply f.id) ++
  s.credits.map (fun c => .barrierCredit c.id) ++ s.notices.flatMap (fun n => [.wakeNotice n.id, .writeNotice n.id]) ++
  s.rafts.flatMap raftMoves ++ s.teams.flatMap (fun t => [.stowDelayExpiry t.id, .stowRetry t.id, .restore t.id]) ++
  s.launches.map (fun l => .teamDispatch l.id) ++ s.passes.map (fun p => .segmentOpen p.id) ++ [.faultRingPost, .queueMap] ++ (s.walks.take 64).map (fun w => .pageWalk w.asid w.va w.acc) ++
  s.mgmt.commit.toList.map .recovCommit ++
  (if s.htBusy.isNone then [] else [.htSet, .htRemove, .htRemoveAsid]) ++
  s.queues.flatMap queueMoves ++
  s.exchanges.flatMap (fun e => [.swapPieceCopy e.die, .swapPieceWrite e.die, .swapSwitch e.die]) ++
  (List.range 8).map .swapStart ++ s.hot.map (fun x => .patternBitClear x.1) ++
  s.links.flatMap (fun l => .flitReplay ⟨l.1.1, l.1.2⟩ :: (l.2.wire.take 1).map (fun f => .flitReceive ⟨l.1.1, l.1.2⟩ f)) ++
  ((s.rafts.map (fun (r : Raft) => r.here / 4) ++ s.ops.map (fun (o : Op) => o.core / 4)).eraseDups).flatMap
    (fun c => [.arbiterPeriod c, .reservationGrant c]) ++
  ((List.range 64).filter (fun c => s.wantEff c != (s.cluster c).eff)).map .clkEffChange ++
  ((s.rafts.map (fun (r : Raft) => (r.here, r.quad))).eraseDups).map (fun x => .clauseStart x.1 x.2)

/-- An event that would change something now. -/
def State.enabled (s : State) (i : Instr) : Bool := match exec i s with
  | .next t => t != s
  | _ => true
/-- The event that comes next where nobody outside has named one: the first enabled one, taken round from a place that
time moves (DESIGN CHOICE, log entry 1). -/
def State.nextMove (s : State) : Option Instr :=
  let ms := s.moves
  let k := s.clock % (ms.length + 1)
  (ms.drop k ++ ms.take k).find? s.enabled

/-- A turn of the machine itself: the running clause's slot issues; else what comes next. -/
def State.turn (s : State) : Out :=
  if s.running.isEmpty then
    match s.nextMove with
    | some i => exec i s
    | none => .next s
  else s.issueSlot

/-- The move that a state makes: the first event of its agenda, where an instruction form stands for a turn of whatever
the machine issues; with an empty agenda, a turn. -/
def State.move (s : State) : Out :=
  match s.agenda with
  | i :: rest => if (encode i).isSome then ({ s with agenda := rest } : State).turn else exec i { s with agenda := rest }
  | [] => s.turn

/-! ### A word placed where the next step issues it -/

/-- A kernel of one supervisor raft, 16 lanes wide, with every v register and all of a core's tile memory. -/
def probeKernel : Kernel :=
  { addr := 0, entry := 0, tmemLines := 16384, vregs := 384, supv := true, ring := false, pair := false, width := 16, rafts := 1
    brecBase := 0, brecCount := 0 }
/-- A clause of one instruction: its header names the class of its OP (R48, R50). -/
def probeClause (w : DWord) : Clause :=
  let op := (opOf w).toNat
  ⟨0, BitVec.ofNat 64 (16 * (if op < 0x80 then 0 else if op < 0xA0 then 1 else if op < 0xC0 then 2 else 3)), [w]⟩
/-- A launch of the kernel, its team and its raft, whose sub-raft stands at the clause's only slot, issuing. -/
def State.withClause (s : State) (cl : Clause) : State :=
  let n := s.nextId
  let l : Launch :=
    { id := n, queue := 0, seq := 0, asid := 0, gx := 1, gy := 1, gz := 1, lnum := 0, args := 0, srseed := 0, user := 0, prio := 0
      kernel := probeKernel, nextTeam := 1, ended := 0, trapped := 0, lists := [], since := s.clock }
  let t : Team :=
    { id := n + 1, launch := n, linear := 0, x := 0, y := 0, z := 0, asid := 0, supv := true, lnum := 0, kernel := probeKernel
      cores := [0], bases := [0], group := none, member := 0, breaks := [0, 0, 0, 0], dying := none, ended := false, stowed := none
      stowTry := none, stowing := none, stepping := none }
  let r := startRaft (n + 2) (n + 1) 0 0 l s.clock
  let en : Entry := { (Entry.at cl.pc r.live s.clock) with clause := some cl, inside := true, resv := 2 }
  { s with
    nextId := n + 3, launches := s.launches ++ [l], teams := s.teams ++ [t], rafts := s.rafts ++ [r.setEntry 0 (some en)]
    agenda := [], running := (n + 2, 0) :: s.running }

end Sys2Proof.Machine
end

