-- ==== Sys2Proof/Machine/Step.lean ====
section
/-!
DEFINITION. One step of the machine, and a word placed where the next step issues it.
-/

namespace Sys2Proof.Machine

open Sys2Proof

/-- One step: time passes, the state makes its move, what that sends from die to die goes on the links, the ages of the
sub-rafts that it lets start begin, single steps that have come to a wait end, and the clock patterns follow. -/
def step (s : State) : Host.Outcome State Fault Refusal := match s.tick.move with
  | .next t => .next (t.carry s).readied.settleSteps.settleClocks
  | o => o

/-- The state with an instruction word as the only slot of a clause that a raft of a launch of its own is issuing:
the next step issues it (DESIGN CHOICE, log entry 17). -/
def State.withFetchWord (s : State) (nbits w : Nat) : State := s.withClause (probeClause (BitVec.ofNat 64 (w % 2 ^ nbits)))

end Sys2Proof.Machine
end

