-- ==== Sys2Proof/Safety.lean ====
section
/-!
DEFINITION. What claims about runs are stated in: the canonical form of every memory, the state in which an instruction
is the one that issues, what an instruction leaves alone, and safe runs.
-/

namespace Sys2Proof.Machine

open Sys2Proof

/-- Every memory of the machine is in its canonical form: physical memory, tile memory, the full/empty bits, and the
buffered slots of every exchange (R5, R90, R180, R295). -/
def State.memOk (s : State) : Bool :=
  s.pmem.wf && s.tile.wf && Sparse.wf s.empty && s.exchanges.all (fun e => Sparse.wf e.slotN && Sparse.wf e.slotF)

/-- The rafts have names of their own, all of them given out, and each a split table of four entries (R105). -/
def State.named (s : State) : Prop := (s.rafts.map (·.id)).Nodup ∧ ∀ r ∈ s.rafts, r.id < s.nextId ∧ r.split.length = 4

/-- The instruction is the one that issues now, for context `c`: its word passes the checks of R55 for this raft, the
interlock of R146 lets it go, and no stop has reached the raft (R367). -/
structure Issues (s : State) (c : Ctx) (i : Instr) : Prop where
  ctx : s.ctx = some c
  legal : c.refuse i = none
  free : s.interlock c (opds i) = .free
  going : c.r.stopping = none

/-- Nothing but the rafts and the clauses being issued differs: all memory, work in flight, queues, control registers
and every other piece of state are the same. -/
def onlyRafts (s t : State) : Prop := t = { s with rafts := t.rafts, running := t.running }
/-- Nothing but one raft and the clauses being issued differs. -/
def onlyRaft (s t : State) (rid : Nat) : Prop := onlyRafts s t ∧ ∀ id, id ≠ rid → t.raft? id = s.raft? id

/-- A raft keeps everything but its registers and its place: lanes, origin, count, join records, deferred parts, bound
ranges and views, batches, use counts and halt state are the same. -/
def sameRaft (r q : Raft) : Prop :=
  q = { r with v := q.v, s := q.s, p := q.p, streams := q.streams, split := q.split, spindle := q.spindle }

/-- The lane whose value a lane is given: in a uniform slot the lowest enabled one's (R53). -/
def Ctx.valueLane (c : Ctx) (l : Nat) : Nat := if c.uni then (c.lanes.head?).getD l else l

/-- D has been written, and no other register: a group of v registers holds `vals l` in every enabled lane l; a group
of s registers holds `once`; ZERO discards. Streams that the instruction reads have advanced (R135), and a stream
register among the destinations is unbound. -/
structure Written (c : Ctx) (i : Instr) (d : RegNum) (vals : Nat → List Word) (once : Option (List Word)) (q : Raft) : Prop where
  vec : Kind.of d = .vec → ∀ l ∈ c.lanes, ∀ j, j < (vals l).length → (vals l)[j]? = some (q.vreg ((c.reg d).toNat + j) l)
  scl : Kind.of d = .scl → ∀ xs, once = some xs → ∀ j, j < xs.length → xs[j]? = some (q.sreg (d.toNat - 384 + j))
  otherV : ∀ reg l, l < 64 →
    ¬(Kind.of d = .vec ∧ l ∈ c.lanes ∧ (c.reg d).toNat ≤ reg ∧ reg < (c.reg d).toNat + (vals l).length) →
    q.vreg reg l = c.r.vreg reg l
  otherS : ∀ k, ¬(Kind.of d = .scl ∧ d.toNat - 384 ≤ k ∧ k < d.toNat - 384 + (once.getD []).length) →
    (∀ j ∈ c.streamsRead i, k ≠ 60 + j) → q.sreg k = c.r.sreg k
  preds : q.p = c.r.p

/-- Predicate D has been written in every enabled lane, and no other register. -/
structure WrittenPred (c : Ctx) (i : Instr) (d : RegNum) (val : Nat → Bool) (q : Raft) : Prop where
  lanes : ∀ l ∈ c.lanes, (q.preg (d.toNat - 480)).getLsbD l = val l
  otherP : ∀ k l, l < 64 → ¬(k = d.toNat - 480 ∧ l ∈ c.lanes) → (q.preg k).getLsbD l = (c.r.preg k).getLsbD l
  vregs : q.v = c.r.v
  otherS : ∀ k, (∀ j ∈ c.streamsRead i, k ≠ 60 + j) → q.sreg k = c.r.sreg k

/-- The instruction answers a next state in which only its raft differs, and of it only registers and its place; the
registers are as `p` says. -/
def Answers (s : State) (c : Ctx) (i : Instr) (p : Raft → Prop) : Prop :=
  ∃ t q, exec i s = .next t ∧ onlyRaft s t c.r.id ∧ t.raft? c.r.id = some q ∧ sameRaft c.r q ∧ p q

/-- The instruction issues and writes `val` of each enabled lane to D (R143). -/
def WritesLanes (s : State) (c : Ctx) (i : Instr) (d : RegNum) (val : Nat → List Word) : Prop :=
  Answers s c i (Written c i d (fun l => val (c.valueLane l)) ((c.lanes.head?).map val))
/-- The instruction issues and writes one value for the raft to D (R144). -/
def WritesOnce (s : State) (c : Ctx) (i : Instr) (d : RegNum) (val : List Word) : Prop :=
  Answers s c i (Written c i d (fun _ => val) (some val))
/-- The instruction issues and writes a predicate. -/
def WritesPred (s : State) (c : Ctx) (i : Instr) (d : RegNum) (val : Nat → Bool) : Prop :=
  Answers s c i (WrittenPred c i d (fun l => val (c.valueLane l)))

/-- The raft of a context once the streams that the instruction reads have advanced (R135). -/
def Ctx.stepped (c : Ctx) (i : Instr) : Raft := (c.streamsRead i).foldl Raft.stepStream c.r

/-- The instruction has written no register of its raft; streams that it reads have advanced (R135). -/
structure Unwritten (c : Ctx) (i : Instr) (q : Raft) : Prop where
  rest : sameRaft c.r q
  vregs : q.v = c.r.v
  preds : q.p = c.r.p
  sregs : ∀ k, (∀ j ∈ c.streamsRead i, k ≠ 60 + j) → q.sreg k = c.r.sreg k

/-- No raft differs but in its split table, where the ages of sub-rafts that a completion lets become ready count anew (R105). -/
def onlyAges (s t : State) : Prop := t.rafts.map (fun r => { r with split := [] }) = s.rafts.map (fun r => { r with split := [] })

/-- The instruction issues from `s`; all that it has done to anything but its own raft's place is to lead to `s1`. -/
def Leads (s s1 : State) (c : Ctx) (i : Instr) : Prop :=
  ∃ t q, exec i s = .next t ∧ t = { s1 with rafts := t.rafts, running := t.running } ∧
    (∀ id, id ≠ c.r.id → t.raft? id = s.raft? id) ∧ t.raft? c.r.id = some q ∧ Unwritten c i q

/-- The state with one more request in flight. -/
def State.withReq (s : State) (q : Req) : State := { s with reqs := s.reqs ++ [q], nextId := s.nextId + 1 }

/-- The detail of a check of an engine instruction that fails: the engine's own layout, but for ILLOP (R227, R259, R371). -/
def Ctx.engineDetail (c : Ctx) (cause : Nat) (place : Nat × Nat) (addr : Nat) : List Byte :=
  if cause = 1 then [] else placeDetail c.cl.pc c.en.slot c.word place.1 place.2 addr 0

/-- An access that nothing keeps back: some lane makes one, no check of R191 fails, no watchpoint matches (R379), what a
release covers has been performed (R85), the unit has room for the request (R89, R124, R177, R355), and no link on the way to its
homes is backed up (R24). -/
structure Admitted (s : State) (c : Ctx) (f : MF) (write : Bool) (accs : List LaneAcc) (q : Req) : Prop where
  some : accs ≠ []
  checks : firstFail accs = none
  unwatched : s.watchMatch c.t write (accs.flatMap (·.parts)) = none
  released : q.rel = true → worst (s.releaseWork c.r.id q.mask) = .free
  replay : s.replayEntries c.r.id + s.replayComing c.r.id < 64 ∨ q.parts.any s.partAbsent = false
  entries : s.entriesUsed q.core + q.entries ≤ 2048
  loads : q.isLoad = true → s.counter c.r.id 4 < 65535
  stores : q.isStore = true → s.counter c.r.id 5 < 65535
  table : q.kind = .rrot → ∀ p ∈ q.parts, ∀ k, p.space = .tile k → s.tableUse k < 1024
  ways : s.sendable q = true

/-- The sub-raft that issues does not hold its raft's spindle (R133). -/
def Ctx.unspun (c : Ctx) : Prop := ∀ sp, c.r.spindle = some sp → sp.owner ≠ c.e
/-- The sub-raft leaves the quadrant for the clause at `pc` (R49, R63); nothing else of its raft has changed but the
streams that the instruction read, and nothing else at all. -/
def Goes (s : State) (c : Ctx) (i : Instr) (pc : DWord) : Prop :=
  ∃ t q, exec i s = .next t ∧ onlyRaft s t c.r.id ∧ t.raft? c.r.id = some q ∧ Unwritten c i q ∧
    q = { c.stepped i with split := c.r.split.set c.e (some (c.en.goto pc s.clock)) } ∧
    t.running = s.running.filter (fun x => x != (c.r.id, c.e))
/-- The slot has issued and its sub-raft goes on: to the next slot of its clause, or past the clause (R49, R54); a sub-raft
that holds the spindle goes on in it (R133). -/
def Passes (s : State) (c : Ctx) (i : Instr) : Prop :=
  ∃ t q, exec i s = .next t ∧ onlyRaft s t c.r.id ∧ t.raft? c.r.id = some q ∧ Unwritten c i q ∧
    (c.en.slot + 1 < c.cl.words.length → t.running = s.running ∧ (q.entry? c.e).map (·.slot) = some (c.en.slot + 1)) ∧
    (c.en.slot + 1 = c.cl.words.length → t.running = s.running.filter (fun x => x != (c.r.id, c.e)) ∧
      (c.unspun → q.entry? c.e = some (c.en.goto c.cl.nextPc s.clock)))
/-- The instruction takes a precise trap and has no other effect (R364): the trap is taken from the state as it was. -/
def Traps (s : State) (c : Ctx) (i : Instr) (cause : Nat) (lanes : LaneMask) (addr aux : Nat) : Prop :=
  exec i s = .next (s.trapAt c cause lanes addr aux)

/-- The instruction issues; all that it has done to anything but its own raft is to lead to `s1`, and it has written one
value to D, and no other register. -/
def WritesFrom (s s1 : State) (c : Ctx) (i : Instr) (d : RegNum) (val : List Word) : Prop :=
  ∃ t q, exec i s = .next t ∧ t = { s1 with rafts := t.rafts, running := t.running } ∧
    (∀ id, id ≠ c.r.id → t.raft? id = s1.raft? id) ∧ t.raft? c.r.id = some q ∧ sameRaft c.r q ∧
    Written c i d (fun _ => val) ((c.lanes.head?).map (fun _ => val)) q
/-- A debug instruction returns: the L1 lines that an acquire at device scope names are gone, and D holds the status
(R382). -/
def Returns (s s1 : State) (c : Ctx) (i : Instr) (f : CF) (status : Nat) : Prop :=
  WritesFrom s (s1.acquireDrop c.r c.t.asid 4 0xFF) c i f.d (words1 status)
/-- The instruction stays at its slot, off the quadrant, and waits for `w`; it has had no effect. -/
def Waits (s : State) (c : Ctx) (i : Instr) (w : Wait) : Prop :=
  ∃ t q, exec i s = .next t ∧ onlyRaft s t c.r.id ∧ t.raft? c.r.id = some q ∧ sameRaft c.r q ∧ q.v = c.r.v ∧ q.s = c.r.s ∧ q.p = c.r.p ∧
    (q.entry? c.e).map (·.wait) = some w ∧ (q.entry? c.e).map (·.slot) = some c.en.slot ∧
    t.running = s.running.filter (fun x => x != (c.r.id, c.e))

/-- As `Waits`, where the instruction has read memory before it came to its wait, which has led to `s1`. -/
def WaitsFrom (s s1 : State) (c : Ctx) (i : Instr) (w : Wait) : Prop :=
  ∃ t q, exec i s = .next t ∧ t = { s1 with rafts := t.rafts, running := t.running } ∧ (∀ id, id ≠ c.r.id → t.raft? id = s.raft? id) ∧
    t.raft? c.r.id = some q ∧ sameRaft c.r q ∧ q.v = c.r.v ∧ q.s = c.r.s ∧ q.p = c.r.p ∧
    (q.entry? c.e).map (·.wait) = some w ∧ (q.entry? c.e).map (·.slot) = some c.en.slot ∧
    t.running = s.running.filter (fun x => x != (c.r.id, c.e))

/-- A debug instruction whose descriptor names raft `r` of team `t`, and which no shared check of R382 and R387 turns away
up to the target's policy: what its release covers has been performed, the reserved words are zero, and no other
operation runs on the team. -/
structure Targets (s : State) (c : Ctx) (f : CF) (t : Team) (r : Raft) : Prop where
  first : s.myDebug c = none
  released : worst (s.releaseWork c.r.id 0xFF) = .free
  word3 : (c.swords f.a 8).getD 3 0 = 0
  word6 : (c.swords f.a 8).getD 6 0 = 0
  word7 : (c.swords f.a 8).getD 7 0 = 0
  names : s.trefTarget (c.sval64 f.a).toNat = some (t, r)
  alone : ∀ d ∈ s.debugs, d.team = t.id → d.status.isSome = true

/-- What an access to virtual memory may change at its home (chapter 10): frames and their buffered copies, L2 lines and
their counters, translations and marks, and the watches that fire. -/
def memSide (s t : State) : Prop :=
  t = { s with
    pmem := t.pmem, exchanges := t.exchanges, lines := t.lines, tlb := t.tlb, marks := t.marks, ringWait := t.ringWait, walks := t.walks
    bankCtr := t.bankCtr, watches := t.watches, notices := t.notices, asks := t.asks, nextId := t.nextId }

/-- A run of n steps that stops nowhere: a safe run. -/
def Safe (n : Nat) (s : State) : Prop := match Sys2Proof.core.run n s with
  | .next t => t.memOk = true
  | _ => False

end Sys2Proof.Machine
end

