-- ==== Sys2Proof/Certificates/Slice0/Obligations.lean ====
section
/-!
DEFINITION. The statements for the provers.
-/

open Sys2Proof Sys2Proof.Machine

/-- R149, R156, R157 and the frame of each: IADD, ISUB, IMUL, IMAD, IMIN, IMAX, IABS, DOT4 and IADDI issue, write the exact
integer result of each element, narrowed once, to D in the enabled lanes, and change nothing else. -/
def Obligations.IntegerArithmetic : Prop := ∀ (s : State) (c : Ctx),
  (∀ f, Issues s c (.iadd f) → WritesLanes s c (.iadd f) f.d (arithVal f (fun a b _ => a + b) s c)) ∧
  (∀ f, Issues s c (.isub f) → WritesLanes s c (.isub f) f.d (arithVal f (fun a b _ => a - b) s c)) ∧
  (∀ f, Issues s c (.imul f) → WritesLanes s c (.imul f) f.d (arithVal f (fun a b _ => a * b) s c)) ∧
  (∀ f, Issues s c (.imad f) → WritesLanes s c (.imad f) f.d (arithVal f (fun a b c => a * b + c) s c)) ∧
  (∀ f, Issues s c (.imin f) → WritesLanes s c (.imin f) f.d (arithVal f (fun a b _ => min a b) s c)) ∧
  (∀ f, Issues s c (.imax f) → WritesLanes s c (.imax f) f.d (arithVal f (fun a b _ => max a b) s c)) ∧
  (∀ f, Issues s c (.iabs f) → WritesLanes s c (.iabs f) f.d (arithVal f (fun a _ _ => a.natAbs) s c)) ∧
  (∀ f, Issues s c (.dot4 f) → WritesLanes s c (.dot4 f) f.d (fun l => words1 (dot4Val f.fn (srcA f s c l) (srcB f s c l) (srcC f s c l)))) ∧
  (∀ f, Issues s c (.iaddi f) → WritesLanes s c (.iaddi f) f.d (fun l => words1 (narrowInt (f.fn.getLsbD 0) (!f.fn.getLsbD 1) 32 (intOf (!f.fn.getLsbD 1) 32 (srcVI f s c l) + f.imm.toInt))))

/-- R151 to R153, R155, R156 and the frame of each: the shift, count, bit-field, select and move instructions issue and
write D in the enabled lanes. -/
def Obligations.BitwiseAndMoves : Prop := ∀ (s : State) (c : Ctx),
  (∀ f, Issues s c (.shl f) → WritesLanes s c (.shl f) f.d (shiftVal .shl f s c)) ∧
  (∀ f, Issues s c (.shr f) → WritesLanes s c (.shr f) f.d (shiftVal .shr f s c)) ∧
  (∀ f, Issues s c (.sar f) → WritesLanes s c (.sar f) f.d (shiftVal .sar f s c)) ∧
  (∀ f, Issues s c (.rotl f) → WritesLanes s c (.rotl f) f.d (shiftVal .rotl f s c)) ∧
  (∀ f, Issues s c (.popc f) → WritesLanes s c (.popc f) f.d (fun l => words1 (popCount (srcBits f.w) (srcAW f s c l)))) ∧
  (∀ f, Issues s c (.clz f) → WritesLanes s c (.clz f) f.d (fun l => words1 (leadingZeros (srcBits f.w) (srcAW f s c l)))) ∧
  (∀ f, Issues s c (.brev f) → WritesLanes s c (.brev f) f.d (fun l => wordsW f.w (reverseBits (srcBits f.w) (srcAW f s c l)))) ∧
  (∀ f, Issues s c (.bfe f) → WritesLanes s c (.bfe f) f.d (fun l => words1 (bfExtract (f.fn.getLsbD 1) (srcA f s c l) (srcB f s c l)))) ∧
  (∀ f, Issues s c (.bfi f) → WritesLanes s c (.bfi f) f.d (fun l => words1 (bfInsert (srcA f s c l) (srcB f s c l) (srcC f s c l)))) ∧
  (∀ f, Issues s c (.sel f) → WritesLanes s c (.sel f) f.d (fun l => wordsW f.w (if c.pred f.c l then srcAW f s c l else srcBW f s c l))) ∧
  (∀ f, Issues s c (.mov f) → WritesLanes s c (.mov f) f.d (fun l => wordsW f.w (srcAW f s c l))) ∧
  (∀ f, Issues s c (.andi f) → WritesLanes s c (.andi f) f.d (fun l => words1 (Nat.land (srcVI f s c l) f.imm.toNat))) ∧
  (∀ f, Issues s c (.ori f) → WritesLanes s c (.ori f) f.d (fun l => words1 (Nat.lor (srcVI f s c l) f.imm.toNat))) ∧
  (∀ f, Issues s c (.xori f) → WritesLanes s c (.xori f) f.d (fun l => words1 (Nat.xor (srcVI f s c l) f.imm.toNat))) ∧
  (∀ f, Issues s c (.shi f) → WritesLanes s c (.shi f) f.d (fun l => words1 (mapElems (elemBits false f.fn) (fun k => shiftElem (shiKind f.imm) (elemBits false f.fn) (elemAt (elemBits false f.fn) (srcVI f s c l) k) (field f.imm.toNat 5 0))))) ∧
  (∀ f, Issues s c (.movi f) → WritesLanes s c (.movi f) f.d (fun _ => [f.imm]))

/-- R158 to R163 and the frame of each: the FP32 instructions but for FCLASS issue and write D in the enabled lanes. The values of R162
apart from the operands it names are the part's own (log entry 8): the statement holds whatever they are. -/
def Obligations.SinglePrecision : Prop := ∀ (s : State) (c : Ctx),
  (∀ f, Issues s c (.fadd f) → WritesLanes s c (.fadd f) f.d (fun l => words1 (FFmt.fp32.sum (rcOf f.fn) [f32 (srcA f s c l), f32 (srcB f s c l)]))) ∧
  (∀ f, Issues s c (.fsub f) → WritesLanes s c (.fsub f) f.d (fun l => words1 (FFmt.fp32.sum (rcOf f.fn) [f32 (srcA f s c l), (f32 (srcB f s c l)).neg]))) ∧
  (∀ f, Issues s c (.fmul f) → WritesLanes s c (.fmul f) f.d (fun l => words1 (FFmt.fp32.ofVal (rcOf f.fn) false ((f32 (srcA f s c l)).mul (f32 (srcB f s c l)))))) ∧
  (∀ f, Issues s c (.ffma f) → WritesLanes s c (.ffma f) f.d (fun l => words1 (FFmt.fp32.sum (rcOf f.fn) [(f32 (srcA f s c l)).mul (f32 (srcB f s c l)), f32 (srcC f s c l)]))) ∧
  (∀ f, Issues s c (.fmin f) → WritesLanes s c (.fmin f) f.d (fun l => words1 (FFmt.fp32.minMax false (srcA f s c l) (srcB f s c l)))) ∧
  (∀ f, Issues s c (.fmax f) → WritesLanes s c (.fmax f) f.d (fun l => words1 (FFmt.fp32.minMax true (srcA f s c l) (srcB f s c l)))) ∧
  (∀ f, Issues s c (.frcp f) → WritesLanes s c (.frcp f) f.d (fun l => transVal frcp32 Config.rcp (srcA f s c l))) ∧
  (∀ f, Issues s c (.frsq f) → WritesLanes s c (.frsq f) f.d (fun l => transVal frsq32 Config.rsq (srcA f s c l))) ∧
  (∀ f, Issues s c (.fexp2 f) → WritesLanes s c (.fexp2 f) f.d (fun l => transVal fexp232 Config.exp2 (srcA f s c l))) ∧
  (∀ f, Issues s c (.flog2 f) → WritesLanes s c (.flog2 f) f.d (fun l => transVal flog232 Config.log2 (srcA f s c l))) ∧
  (∀ f, Issues s c (.fsin f) → WritesLanes s c (.fsin f) f.d (fun l => transVal (fsincos32 false) Config.sin (srcA f s c l))) ∧
  (∀ f, Issues s c (.fcos f) → WritesLanes s c (.fcos f) f.d (fun l => transVal (fsincos32 true) Config.cos (srcA f s c l))) ∧
  (∀ f, Issues s c (.fsqrt f) → WritesLanes s c (.fsqrt f) f.d (fun l => words1 (FFmt.fp32.sqrt (rcOf f.fn) (f32 (srcA f s c l))))) ∧
  (∀ f, Issues s c (.fdiv f) → WritesLanes s c (.fdiv f) f.d (fun l => words1 (FFmt.fp32.div (rcOf f.fn) (f32 (srcA f s c l)) (f32 (srcB f s c l)))))

/-- R164 to R166 and the frame of each: packed halves, FP64 and FDOT2H issue and write D in the enabled lanes. -/
def Obligations.PackedAndDouble : Prop := ∀ (s : State) (c : Ctx),
  (∀ f, Issues s c (.hadd2 f) → WritesLanes s c (.hadd2 f) f.d (fun l => halves (fun k => (halfFmt f.fn).sum (halfRc f.fn) [(halfFmt f.fn).value (elemAt 16 (srcA f s c l) k), (halfFmt f.fn).value (elemAt 16 (srcB f s c l) k)]))) ∧
  (∀ f, Issues s c (.hmul2 f) → WritesLanes s c (.hmul2 f) f.d (fun l => halves (fun k => (halfFmt f.fn).ofVal (halfRc f.fn) false (((halfFmt f.fn).value (elemAt 16 (srcA f s c l) k)).mul ((halfFmt f.fn).value (elemAt 16 (srcB f s c l) k)))))) ∧
  (∀ f, Issues s c (.hfma2 f) → WritesLanes s c (.hfma2 f) f.d (fun l => halves (fun k => (halfFmt f.fn).sum (halfRc f.fn) [((halfFmt f.fn).value (elemAt 16 (srcA f s c l) k)).mul ((halfFmt f.fn).value (elemAt 16 (srcB f s c l) k)), (halfFmt f.fn).value (elemAt 16 (srcC f s c l) k)]))) ∧
  (∀ f, Issues s c (.hmin2 f) → WritesLanes s c (.hmin2 f) f.d (fun l => halves (fun k => (halfFmt f.fn).minMax false (elemAt 16 (srcA f s c l) k) (elemAt 16 (srcB f s c l) k)))) ∧
  (∀ f, Issues s c (.hmax2 f) → WritesLanes s c (.hmax2 f) f.d (fun l => halves (fun k => (halfFmt f.fn).minMax true (elemAt 16 (srcA f s c l) k) (elemAt 16 (srcB f s c l) k)))) ∧
  (∀ f, Issues s c (.dadd f) → WritesLanes s c (.dadd f) f.d (fun l => words2 (FFmt.fp64.sum (rcOf f.fn) [f64 (srcAW f s c l), f64 (srcBW f s c l)]))) ∧
  (∀ f, Issues s c (.dmul f) → WritesLanes s c (.dmul f) f.d (fun l => words2 (FFmt.fp64.ofVal (rcOf f.fn) false ((f64 (srcAW f s c l)).mul (f64 (srcBW f s c l)))))) ∧
  (∀ f, Issues s c (.dfma f) → WritesLanes s c (.dfma f) f.d (fun l => words2 (FFmt.fp64.sum (rcOf f.fn) [(f64 (srcAW f s c l)).mul (f64 (srcBW f s c l)), f64 (srcCW f s c l)]))) ∧
  (∀ f, Issues s c (.fdot2h f) → WritesLanes s c (.fdot2h f) f.d (fun l => words1 (FFmt.fp32.sum (halfRc f.fn) [((halfFmt f.fn).value (elemAt 16 (srcA f s c l) 0)).mul ((halfFmt f.fn).value (elemAt 16 (srcB f s c l) 0)), ((halfFmt f.fn).value (elemAt 16 (srcA f s c l) 1)).mul ((halfFmt f.fn).value (elemAt 16 (srcB f s c l) 1)), f32 (srcC f s c l)])))

/-- R154, R160, R171, R174 and the frame of each: the compares, VOTE to a predicate and PLOP but for FN 9 issue and write
predicate D in the enabled lanes.
R64, R123: PBLK issues, reads its predicate once in every lane, and covers the LEN slots after it with its pattern; its
lanes and registers are unchanged. -/
def Obligations.PredicateResults : Prop :=
  (∀ (s : State) (c : Ctx),
  (∀ f, Issues s c (.icmp f) → WritesPred s c (.icmp f) f.d (fun l => icmpVal (srcBits f.w) f.fn (srcAW f s c l) (srcBW f s c l))) ∧
  (∀ f, Issues s c (.icmpi f) → WritesPred s c (.icmpi f) f.d (fun l => icmpVal 32 f.fn (srcVI f s c l) f.imm.toNat)) ∧
  (∀ f, Issues s c (.fcmp f) → WritesPred s c (.fcmp f) f.d (fun l => fcmpCond (field f.fn.toNat 2 0) (f32 (srcA f s c l)) (f32 (srcB f s c l)))) ∧
  (∀ f, Kind.of f.d = .pred → Issues s c (.vote f) → WritesPred s c (.vote f) f.d (fun _ => voteVal f c == 1)) ∧
  (∀ f, f.fn ≠ 9 → Issues s c (.plop f) → WritesPred s c (.plop f) f.d (plopVal f s c))) ∧
  (∀ (s : State) (c : Ctx) (f : PB), Issues s c (.pblk f) →
  ∃ t q, exec (.pblk f) s = .next t ∧ onlyRaft s t c.r.id ∧ t.raft? c.r.id = some q ∧
    q = { c.r with split := q.split } ∧
    q.entry? c.e = some { c.en with
      cover := some ⟨c.r.preg (f.a.toNat - 480), f.pat, c.en.slot + 1, c.en.slot + 1 + f.fn.toNat⟩
      slot := c.en.slot + 1, wait := .none, inside := true })

/-- R144, R170 to R175 and the frame of each: SHFL, SCAN, PLOP with FN 9 and LANE with FN 3 write each enabled lane's own
value; VOTE to a register, REDUX and LANE with FN 0 to 2 write one value for the raft. That SHFL with LANE or ORIGIN as B takes
each lane's own value of it is the model's choice (log entry 96).
R33, R168 and its frame: CVT issues and writes the converted elements to D in the enabled lanes; under stochastic rounding,
and only then, the use counts of the lanes that convert grow by the number of elements. That CVT.sr with scalar operands draws in
the lowest enabled lane is the model's choice (log entry 26). -/
def Obligations.CrossLaneAndConvertResults : Prop :=
  (∀ (s : State) (c : Ctx),
  (∀ f, Issues s c (.shfl f) → WritesLanes s c (.shfl f) f.d (fun l =>
    wordsW f.w (if f.w then c.src64 s f.a 0 0 (shflLane (field f.fn.toNat 1 0) c.r.width l (srcB f s c l))
      else c.src s f.a 0 0 (shflLane (field f.fn.toNat 1 0) c.r.width l (srcB f s c l))))) ∧
  (∀ f, Issues s c (.scan f) → WritesLanes s c (.scan f) f.d (fun l => wordsW f.w (scanVal f s c l))) ∧
  (∀ f, f.fn = 9 → Issues s c (.plop f) → WritesLanes s c (.plop f) f.d (fun l => words1 (if c.pred f.a l then 1 else 0))) ∧
  (∀ f, f.fn = 3 → Issues s c (.lane f) → WritesLanes s c (.lane f) f.d (fun l =>
    words1 ((c.lanes.filter (c.pred f.a)).filter (fun j => decide (j < l))).length)) ∧
  (∀ f, Kind.of f.d ≠ .pred → Issues s c (.vote f) → WritesOnce s c (.vote f) f.d (wordsW f.w (voteVal f c))) ∧
  (∀ f, Issues s c (.redux f) → WritesOnce s c (.redux f) f.d (wordsW f.w (reduxVal f s c))) ∧
  (∀ f, f.fn ≠ 3 → Issues s c (.lane f) → WritesOnce s c (.lane f) f.d (words1 (laneVal f c)))) ∧
  (∀ (s : State) (c : Ctx) (f : V3), Issues s c (.cvt f) →
  ∃ t q, exec (.cvt f) s = .next t ∧ onlyRaft s t c.r.id ∧ t.raft? c.r.id = some q ∧ sameRaft { c.r with srUse := q.srUse } q ∧
    Written c (.cvt f) f.d (fun l => cvtVal f s c (c.valueLane l)) ((c.lanes.head?).map (cvtVal f s c)) q ∧
    ∀ l, sget q.srUse l = if cvtRc f = 4 ∧ l ∈ cvtLanes c f
      then sget c.r.srUse l + BitVec.ofNat 32 (cvtCounts (cvtGrp f) (cvtSrc f) f.fn.toNat).1 else sget c.r.srUse l)

/-- R149: each element of n bits of the result is the exact integer result of the elements of the sources, wrapped modulo 2^n,
or clamped to the range of its kind under saturation. -/
def Obligations.ElementArithmetic : Prop := ∀ (n : Nat) (fn : BitVec 4) (op : Int → Int → Int → Int) (a b c k : Nat),
  (n = 8 ∨ n = 16 ∨ n = 32 ∨ n = 64) → k < max 1 (32 / n) →
  elemAt n (intArith n fn op a b c) k =
    let signed := !fn.getLsbD 1
    let x := op (intOf signed n (elemAt n a k)) (intOf signed n (elemAt n b k)) (intOf signed n (elemAt n c k))
    if fn.getLsbD 0 then
      (max (if signed then -(2 ^ (n - 1) : Int) else 0) (min (if signed then 2 ^ (n - 1) - 1 else 2 ^ n - 1) x) % 2 ^ n).toNat
    else (x % 2 ^ n).toNat

/-- R151: the four shifts of an element are those of n-bit words, for every amount.
R154: the conditions of ICMP and ICMPI on n-bit operands, signed with FN[3] clear and unsigned with it set. -/
def Obligations.ShiftsAndCompares : Prop :=
  (∀ (n : Nat) (a : BitVec n) (amt : Nat), 0 < n →
  shiftElem .shl n a.toNat amt = (a <<< amt).toNat ∧ shiftElem .shr n a.toNat amt = (a >>> amt).toNat ∧
  shiftElem .sar n a.toNat amt = (a.sshiftRight amt).toNat ∧ shiftElem .rotl n a.toNat amt = (a.rotateLeft amt).toNat) ∧
  (∀ (n : Nat) (a b : BitVec n) (fn : BitVec 4), 0 < n → field fn.toNat 2 0 ≤ 5 →
  icmpVal n fn a.toNat b.toNat =
    match field fn.toNat 2 0, fn.getLsbD 3 with
    | 0, _ => a == b
    | 1, _ => a != b
    | 2, false => a.slt b
    | 2, true => a.ult b
    | 3, false => a.sle b
    | 3, true => a.ule b
    | 4, false => b.slt a
    | 4, true => b.ult a
    | _, false => b.sle a
    | _, true => b.ule a)

/-- R190 to R194, R196: a plain or ordered load or store whose access nothing keeps back issues: one request stands in flight,
with each lane's bytes, cut at line ends, at the address that the entry gives; no register and no byte changes yet. -/
def Obligations.LoadsAndStoresIssue : Prop := ∀ (s : State) (c : Ctx) (f : MF) (form : MemForm),
  (∀ i, i = (match form with | .virt => Instr.ld f | .own => .ldt f | .member => .ldx f) → Issues s c i →
    let accs := c.accLanes.map (c.formAcc s f form false)
    let q := c.request s f (.load (memSize f.fn) (field f.fn.toNat 2 0 == 4 || field f.fn.toNat 2 0 == 5))
      (some (c.dest f.d (memRegs f.fn))) (fun _ => []) accs
    Admitted s c f false accs q → Leads s (s.withReq q) c i) ∧
  (∀ i, i = (match form with | .virt => Instr.st f | .own => .stt f | .member => .stx f) → Issues s c i →
    let accs := c.accLanes.map (c.formAcc s f form true)
    let q := c.request s f .store none (fun l => (c.regBytes s f.d (memRegs f.fn) l).take (memSize f.fn)) accs
    Admitted s c f true accs q → Leads s (s.withReq q) c i)

/-- R183, R187, R194, R195: LDB and STB read their record, and where their access is kept back by nothing issue one request
for the elements that the lanes' indices name; a stream that the record makes a part of STB's pair D has advanced too (R135). -/
def Obligations.RecordAccessesIssue : Prop := ∀ (s s1 : State) (c : Ctx) (f : MF) (b : List Byte),
  c.accLanes ≠ [] → f.brec.toNat < c.t.kernel.brecCount → Rec.sound false b = true →
  (Issues s c (.ldb f) →
    (s.stepStreams c.r.id (c.streamsRead (.ldb f))).recordBytes c.t c.r.here f.brec.toNat = (s1, .ok, b) →
    c.elemFits f (Rec.parse b) true = true → s1.interlock c [elemOpd f (Rec.parse b) true] = .free →
    let accs := c.accLanes.map (c.elemAcc s1 f (Rec.parse b) true)
    let q := c.request s1 f (.loadRec (Rec.parse b) (field f.fn.toNat 2 0) (f.fn.getLsbD 3))
      (some (c.dest f.d (elemRegs (Rec.parse b)))) (fun _ => []) accs
    Admitted s1 c f false accs q → Leads s (s1.withReq q) c (.ldb f)) ∧
  (Issues s c (.stb f) →
    (s.stepStreams c.r.id (c.streamsRead (.stb f))).recordBytes c.t c.r.here f.brec.toNat = (s1, .ok, b) →
    isMx (Rec.parse b).fmt = false → c.elemFits f (Rec.parse b) false = true →
    s1.interlock c [elemOpd f (Rec.parse b) false] = .free →
    let accs := c.accLanes.map (c.elemAcc s1 f (Rec.parse b) false)
    let q := c.request s1 f .store none (c.elemBytes s1 f (Rec.parse b) (elemRegs (Rec.parse b))) accs
    Admitted s1 c f true accs q → ∃ t r, exec (.stb f) s = .next t ∧
      t = { s1.withReq q with rafts := t.rafts, running := t.running } ∧ (∀ id, id ≠ c.r.id → t.raft? id = s.raft? id) ∧
      t.raft? c.r.id = some r ∧ sameRaft c.r r ∧ r.v = c.r.v ∧ r.p = c.r.p ∧
      ∀ k, (∀ j ∈ c.streamsRead (.stb f) ++ c.streamsMore (.stb f) [elemOpd f (Rec.parse b) false], k ≠ 60 + j) →
        r.sreg k = c.r.sreg k)

/-- R197 to R199, R204, R205: ATOM, CAS, CAS128, SETFE and RROT whose access nothing keeps back issue one request each. -/
def Obligations.AtomicsAndRingStoresIssue : Prop := ∀ (s : State) (c : Ctx) (f : MF),
  (Issues s c (.atom f) →
    let n := atomWidth f.fn.toNat
    let accs := c.accLanes.map (c.rmwAcc s f n (decide (f.fn.toNat < 13)))
    let q := c.request s f (.atom f.fn.toNat) (some (c.dest f.d (n / 4))) (c.regBytes s f.d (n / 4)) accs
    Admitted s c f true accs q → Leads s (s.withReq q) c (.atom f)) ∧
  (Issues s c (.cas f) →
    let n := if f.fn = 1 then 8 else 4
    let accs := c.accLanes.map (c.rmwAcc s f n (f.fn != 2))
    let q := c.request s f (.cas n) (some (c.dest f.d (n / 4))) (c.regBytes s f.d (n / 2)) accs
    Admitted s c f true accs q → Leads s (s.withReq q) c (.cas f)) ∧
  (Issues s c (.cas128 f) →
    let accs := c.accLanes.map (c.rmwAcc s f 16 true)
    let q := c.request s f (.cas 16) (some (c.dest f.d 4)) (c.regBytes s f.d 8) accs
    Admitted s c f true accs q → Leads s (s.withReq q) c (.cas128 f)) ∧
  (Issues s c (.setfe f) →
    let accs := c.accLanes.map (c.setfeAcc s f)
    let q := c.request s f (.setfe (f.fn.getLsbD 0)) none (fun _ => []) accs
    Admitted s c f true accs q → Leads s (s.withReq q) c (.setfe f)) ∧
  (Issues s c (.rrot f) → c.t.kernel.ring = true →
    let accs := c.accLanes.map (c.rrotAcc s f)
    let q := c.request s f .rrot none (c.regBytes s f.d 1) accs
    Admitted s c f true accs q → Leads s (s.withReq q) c (.rrot f))

/-- R200 to R203, R82 to R86: FENCE, once what it covers has been performed, drops the lines that an acquire names; FTAG binds
or unbinds one tag; PREF brings lines in lane by lane; INVL1 drops the L1 lines of its range, or of the whole ASID. -/
def Obligations.CacheControl : Prop := ∀ (s : State) (c : Ctx) (f : MF),
  (Issues s c (.fence f) → (f.ord.getLsbD 1 = true → worst (s.releaseWork c.r.id f.brec) = .free) →
    (∀ q ∈ s.reqs, q.raft = c.r.id → q.acq = true ∨ q.rel = true → q.fault.isSome = true) →
    (f.ord.getLsbD 0 = true → worst (s.acquireWork c.r.id) = .free) →
    Leads s (if f.ord.getLsbD 0 then s.acquireDrop c.r c.t.asid f.scope.toNat f.brec else s) c (.fence f)) ∧
  (∀ b, Issues s c (.ftag f) →
    (f.fn = 0 ∧ b = none ∨
      f.fn = 1 ∧ canonical (c.sval64 f.a).toNat = true ∧ (c.sval f.b = 0 ∨ canonical ((c.sval64 f.a).toNat + (c.sval f.b).toNat - 1) = true) ∧
        b = some (.virt (c.sval64 f.a).toNat (c.sval f.b).toNat) ∨
      f.fn = 2 ∧ (c.sval f.a).toNat + (c.sval f.b).toNat ≤ c.t.tileBytes ∧ c.r.landed = none ∧
        b = some (.tile (c.sval f.a).toNat (c.sval f.b).toNat)) →
    ∃ t q, exec (.ftag f) s = .next t ∧ onlyRaft s t c.r.id ∧ t.raft? c.r.id = some q ∧
      Unwritten { c with r := { c.r with tags := q.tags } } (.ftag f) q ∧
      q.tags = c.r.tags.set (field f.off.toNat 2 0 - 1) b) ∧
  (∀ s1 b, Issues s c (.ftag f) → f.fn = 3 → (c.sval f.a).toNat < c.t.kernel.brecCount → Rec.sound false b = true →
    (s.stepStreams c.r.id (c.streamsRead (.ftag f))).recordBytes c.t c.r.here (c.sval f.a).toNat = (s1, .ok, b) →
    ∃ t q, exec (.ftag f) s = .next t ∧ t = { s1 with rafts := t.rafts, running := t.running } ∧ t.raft? c.r.id = some q ∧
      Unwritten { c with r := { c.r with tags := q.tags } } (.ftag f) q ∧
      q.tags = c.r.tags.set (field f.off.toNat 2 0 - 1) (some (
        let (lo, len) := Rec.extent (Rec.parse b)
        if (Rec.parse b).space = 0 then .virt (wrapN 64 lo) len
        else .record (Rec.parse b).space (Rec.member (Rec.parse b)) lo.toNat ((lo + len).toNat - lo.toNat)))) ∧
  (Issues s c (.pref f) → ∃ t q, exec (.pref f) s = .next t ∧ t.raft? c.r.id = some q ∧ Unwritten c (.pref f) q ∧
    t.tile = s.tile ∧ t.empty = s.empty ∧ t.reqs = s.reqs ∧ t.ops = s.ops ∧ t.teams = s.teams ∧ t.csr = s.csr ∧ t.ctl = s.ctl ∧
    t.marks = s.marks ∧
    let s0 := s.stepStreams c.r.id (c.streamsRead (.pref f))
    let s1 := c.accLanes.foldl (fun st l => c.prefLane f st l) s0
    t = { s1 with rafts := t.rafts, running := t.running }) ∧
  (Issues s c (.invl1 f) →
    Leads s { s with l1 := s.l1.filter (fun l => !(l.core == c.r.here && l.asid == c.t.asid &&
      (f.fn.getLsbD 0 || overlaps (128 * l.line) 128 (va57 (c.sval64 f.a).toNat) (c.sval f.b).toNat))) } c (.invl1 f))

/-- R54, R63, R114, R117, R118, R120, R122: NOP goes on; BRU goes to its target or on, as its predicate, alike in every enabled
lane, or its s register says; JMP, JMPI and RET go to their targets, which for JMPI and RET must be aligned and canonical.
R118, R120, R114: a computed target that is not a multiple of 8 traps with ILLOP (cause 1), one that is not canonical with
cause 5, and a BRU whose enabled lanes disagree with cause 16.
R119: CALL and CALL_IND write the address past their clause to D, as a pair, and go to their target. -/
def Obligations.UniformTransfers : Prop :=
  (∀ (s : State) (c : Ctx) (f : CF),
  (Issues s c (.nop f) → Passes s c (.nop f)) ∧
  (∀ b, Issues s c (.bru f) →
    (Kind.of f.a = .pred ∧ (∀ l ∈ c.lanes, c.pred f.a l = b) ∧ (c.lanes = [] → b = false) ∨
      Kind.of f.a ≠ .pred ∧ b = (c.sval f.a != 0)) →
    if b = f.fn.getLsbD 0 then Passes s c (.bru f) else Goes s c (.bru f) (c.cl.pc + f.off.signExtend 64 * 8)) ∧
  (Issues s c (.jmp f) → Goes s c (.jmp f) (c.cl.pc + f.off.signExtend 64 * 8)) ∧
  (Issues s c (.jmpi f) → (c.sval64 f.a).toNat % 8 = 0 → canonical (c.sval64 f.a).toNat = true → Goes s c (.jmpi f) (c.sval64 f.a)) ∧
  (Issues s c (.ret f) → (c.sval64 f.a).toNat % 8 = 0 → canonical (c.sval64 f.a).toNat = true → Goes s c (.ret f) (c.sval64 f.a))) ∧
  (∀ (s : State) (c : Ctx) (f : CF),
  (Issues s c (.jmpi f) → (c.sval64 f.a).toNat % 8 ≠ 0 → Traps s c (.jmpi f) 1 c.en.mask (c.sval64 f.a).toNat 0) ∧
  (Issues s c (.jmpi f) → (c.sval64 f.a).toNat % 8 = 0 → canonical (c.sval64 f.a).toNat = false →
    Traps s c (.jmpi f) 5 c.en.mask (c.sval64 f.a).toNat 0) ∧
  (Issues s c (.ret f) → (c.sval64 f.a).toNat % 8 ≠ 0 → Traps s c (.ret f) 1 c.en.mask (c.sval64 f.a).toNat 0) ∧
  (Issues s c (.ret f) → (c.sval64 f.a).toNat % 8 = 0 → canonical (c.sval64 f.a).toNat = false →
    Traps s c (.ret f) 5 c.en.mask (c.sval64 f.a).toNat 0) ∧
  (∀ l l', Issues s c (.bru f) → Kind.of f.a = .pred → l ∈ c.lanes → l' ∈ c.lanes → c.pred f.a l = true → c.pred f.a l' = false →
    Traps s c (.bru f) 16 c.active 0 0)) ∧
  (∀ (s : State) (c : Ctx) (f : CF),
  (Issues s c (.call f) → ∃ t q, exec (.call f) s = .next t ∧ onlyRaft s t c.r.id ∧ t.raft? c.r.id = some q ∧ sameRaft c.r q ∧
    Written c (.call f) f.d (fun _ => words2 c.cl.nextPc.toNat) ((c.lanes.head?).map (fun _ => words2 c.cl.nextPc.toNat)) q ∧
    q.entry? c.e = some (c.en.goto (c.cl.pc + f.off.signExtend 64 * 8) s.clock)) ∧
  (Issues s c (.callInd f) → (c.sval64 f.a).toNat % 8 = 0 → canonical (c.sval64 f.a).toNat = true →
    ∃ t q, exec (.callInd f) s = .next t ∧ onlyRaft s t c.r.id ∧ t.raft? c.r.id = some q ∧ sameRaft c.r q ∧
    Written c (.callInd f) f.d (fun _ => words2 c.cl.nextPc.toNat) ((c.lanes.head?).map (fun _ => words2 c.cl.nextPc.toNat)) q ∧
    q.entry? c.e = some (c.en.goto (c.sval64 f.a) s.clock)))

/-- R110 to R112, R115, R118, R120: a divergent branch keeps the lanes that fall through, or the first target's, in the issuing
sub-raft. The others become sub-rafts of their own in the free split entries, lowest entry and lowest group first, and those left
over are pushed in descending rank, the lowest-ranked on top; the join record of its JID expects every lane. Where all lanes agree
the sub-raft stays whole and no record is made. A record or a stack that has no room traps with DIVERGE_OVERFLOW (cause 17), and
a target of JMPI.div that is not a multiple of 8 with ILLOP (cause 1), one that is not canonical with VA_RANGE (cause 5), with no effect. -/
def Obligations.DivergentTransfers : Prop := ∀ (s : State) (c : Ctx) (f : CF), s.named →
  let live := c.r.joins.any (fun j => j.jid == f.jid)
  let grown := c.r.joins.map (fun j => if j.jid = f.jid then { j with expect := j.expect ||| c.en.mask } else j)
  let joined : List JoinRec := if live then grown else c.r.joins ++ [⟨f.jid, c.en.mask, 0, none⟩]
  let frees := (List.range 4).filter (fun k => (c.r.entry? k).isNone)
  let split (q : Raft) (rest : List (DWord × LaneMask)) : Prop :=
    q.joins = joined ∧
    (∀ (k : Nat) (g : DWord × LaneMask) (e : Nat), rest[k]? = some g → frees[k]? = some e → q.entry? e = some (Entry.at g.1 g.2 s.clock)) ∧
    (∀ e, e ≠ c.e → e ∉ frees.take rest.length → q.entry? e = c.r.entry? e) ∧
    q.stack = (rest.drop frees.length).map (fun g => ⟨g.1, g.2, f.jid⟩) ++ c.r.stack
  (∀ taken fall, Issues s c (.brd f) → c.en.slot + 1 = c.cl.words.length → c.unspun →
    taken = c.en.mask &&& (if f.fn.getLsbD 0 then ~~~(c.r.preg (f.a.toNat - 480)) else c.r.preg (f.a.toNat - 480)) →
    fall = c.en.mask &&& ~~~taken →
    (taken ≠ 0 → fall ≠ 0 → c.r.splitOverflow f.jid 1 = true → Traps s c (.brd f) 17 c.en.mask 0 f.jid.toNat) ∧
    (taken = 0 ∨ fall = 0 ∨ c.r.splitOverflow f.jid 1 = false →
      ∃ t q, exec (.brd f) s = .next t ∧ onlyRaft s t c.r.id ∧ t.raft? c.r.id = some q ∧ q.v = c.r.v ∧ q.s = c.r.s ∧ q.p = c.r.p ∧
      (taken = 0 → q.entry? c.e = some (c.en.goto c.cl.nextPc s.clock) ∧ q.stack = c.r.stack ∧ q.joins = grown ∧
        ∀ k, k ≠ c.e → q.entry? k = c.r.entry? k) ∧
      (taken ≠ 0 → fall = 0 → q.entry? c.e = some (c.en.goto (c.cl.pc + f.off.signExtend 64 * 8) s.clock) ∧ q.stack = c.r.stack ∧
        q.joins = grown ∧ ∀ k, k ≠ c.e → q.entry? k = c.r.entry? k) ∧
      (taken ≠ 0 → fall ≠ 0 → q.entry? c.e = some ({ c.en with mask := fall }.goto c.cl.nextPc s.clock) ∧
        split q [(c.cl.pc + f.off.signExtend 64 * 8, taken)]))) ∧
  (∀ pc, Issues s c (.jmpiDiv f) → lanesOf c.r.width c.en.mask ≠ [] →
    (∀ l ∈ lanesOf c.r.width c.en.mask, BitVec.ofNat 64 (c.src64 s f.a 0 0 l) = pc) → pc.toNat % 8 = 0 → canonical pc.toNat = true →
    Goes s c (.jmpiDiv f) pc) ∧
  (∀ pc m rest, Issues s c (.jmpiDiv f) →
    (∀ l ∈ lanesOf c.r.width c.en.mask, c.src64 s f.a 0 0 l % 8 = 0 ∧ canonical (c.src64 s f.a 0 0 l) = true) →
    targetGroups (lanesOf c.r.width c.en.mask) (fun l => BitVec.ofNat 64 (c.src64 s f.a 0 0 l)) = (pc, m) :: rest → rest ≠ [] →
    (c.r.splitOverflow f.jid rest.length = true → Traps s c (.jmpiDiv f) 17 c.en.mask 0 f.jid.toNat) ∧
    (c.r.splitOverflow f.jid rest.length = false →
      ∃ t q, exec (.jmpiDiv f) s = .next t ∧ onlyRaft s t c.r.id ∧ t.raft? c.r.id = some q ∧ q.v = c.r.v ∧ q.s = c.r.s ∧ q.p = c.r.p ∧
        q.entry? c.e = some ({ c.en with mask := m }.goto pc s.clock) ∧ split q rest)) ∧
  (∀ l rest, Issues s c (.jmpiDiv f) →
    (((lanesOf c.r.width c.en.mask).filter (fun k => c.src64 s f.a 0 0 k % 8 != 0)) = l :: rest →
      Traps s c (.jmpiDiv f) 1 (maskOf (l :: rest)) (c.src64 s f.a 0 0 l) 0) ∧
    ((∀ k ∈ lanesOf c.r.width c.en.mask, c.src64 s f.a 0 0 k % 8 = 0) →
      ((lanesOf c.r.width c.en.mask).filter (fun k => !canonical (c.src64 s f.a 0 0 k))) = l :: rest →
      Traps s c (.jmpiDiv f) 5 (maskOf (l :: rest)) (c.src64 s f.a 0 0 l) 0)) ∧
  (c.r.splitOverflow f.jid 1 = true ↔ (live = false ∧ c.r.joins.length = 8) ∨ (frees = [] ∧ 32 ≤ c.r.stack.length) ∨
    (frees ≠ [] ∧ 32 < c.r.stack.length))

/-- R112, R113, R116: JOIN parks its lanes at the join record it names, whose continuation is the clause that follows, and the
merges and pops that this allows follow; without such a record it goes on.
R121, R406, R416: EXIT ends the lanes of its sub-raft, every join record forgets them, and merges and pops follow; when no lane is
left the raft waits for its outstanding work at the EXIT, and its lease has ended, unless a deferred fault is raised there. -/
def Obligations.LanesJoinAndExit : Prop :=
  (∀ (s : State) (c : Ctx) (f : CF), Issues s c (.join f) →
  (c.r.joins.all (fun j => j.jid != f.jid) = true → Passes s c (.join f)) ∧
  (∀ j, c.r.joins.find? (fun j => j.jid == f.jid) = some j → j.cont = none ∨ j.cont = some c.cl.nextPc →
    let parked : Raft := { c.r with
      split := c.r.split.set c.e none
      joins := c.r.joins.map (fun k => if k.jid = f.jid then
        { k with cont := some c.cl.nextPc, expect := k.expect ||| c.en.mask, arrived := k.arrived ||| c.en.mask } else k) }
    ((parked.settle s.clock).deadlocked = false → ∃ t, exec (.join f) s = .next t ∧ onlyRaft s t c.r.id ∧
      t.raft? c.r.id = some (parked.settle s.clock) ∧ t.running = s.running.filter (fun x => x != (c.r.id, c.e))) ∧
    ((parked.settle s.clock).deadlocked = true → Traps s c (.join f) 18 c.en.mask 0 f.jid.toNat)) ∧
  (∀ j pc, c.r.joins.find? (fun j => j.jid == f.jid) = some j → j.cont = some pc → pc ≠ c.cl.nextPc →
    Traps s c (.join f) 19 c.en.mask 0 f.jid.toNat)) ∧
  (∀ (s : State) (c : Ctx) (f : CF), Issues s c (.exit f) →
  let ended : Raft := { c.r with
    split := c.r.split.set c.e none, live := c.r.live &&& ~~~c.en.mask
    joins := c.r.joins.map (fun j => { j with expect := j.expect &&& ~~~c.en.mask }) }
  ((ended.settle s.clock).deadlocked = true → Traps s c (.exit f) 18 c.en.mask 0 0) ∧
  ((ended.settle s.clock).deadlocked = false →
    (∀ q ∈ s.reqs, q.raft = c.r.id → q.fault = none) → (∀ o ∈ s.ops, o.raft = some c.r.id → o.fault = none) →
    ∃ t, exec (.exit f) s = .next t ∧ t = { s with rafts := t.rafts, running := s.running.filter (fun x => x != (c.r.id, c.e)), leases := t.leases } ∧
      t.leases = (if (ended.settle s.clock).live = 0 then s.leases.filter (fun l => l.raft != c.r.id) else s.leases) ∧
      (∀ id, id ≠ c.r.id → t.raft? id = s.raft? id) ∧ t.raft? c.r.id = some { ended.settle s.clock with
        exitAt := if (ended.settle s.clock).live = 0 then some (c.cl.pc, c.en.slot) else none }))

/-- R124 to R128: WAITC, WAITB and WAITB_KEEP go on once what they wait for is complete; BATCH closes the open batch, gives its
handle to an s register D, and opens the next.
R132, R79, R84: WAITMEM, with none of its raft's stores to the word and no ordered access before it, reads its word; where the condition holds it goes on, after the acquire's drop, and else waits at its slot. -/
def Obligations.CompletionAndMemoryWaits : Prop :=
  (∀ (s : State) (c : Ctx),
  (∀ f, Issues s c (.waitc f) →
    (field f.off.toNat 23 8 = 0 ∧ (∀ k, k < 6 → f.off.getLsbD k = true → s.counterWork c.r.id k = []) ∨
      field f.off.toNat 23 8 ≠ 0 ∧
        total (((List.range 6).filter (fun k => f.off.getLsbD k)).map (s.counter c.r.id)) ≤ field f.off.toNat 23 8) →
    Passes s c (.waitc f)) ∧
  (∀ f, Issues s c (.waitb f) → 2 ^ 31 ≤ (c.sval f.a - c.r.batchCount).toNat → s.batchOps c.r.id (c.sval f.a) = [] →
    Passes s c (.waitb f)) ∧
  (∀ f, Issues s c (.waitb f) → (c.sval f.a - c.r.batchCount).toNat < 2 ^ 31 → Traps s c (.waitb f) 20 c.active 0 0) ∧
  (∀ f, Issues s c (.waitbKeep f) → (s.openBatches c.r).length ≤ field f.off.toNat 3 0 →
    (∀ o ∈ s.closedOps c.r, o.fault = none ∨ o.batch ∈ s.openBatches c.r) → Passes s c (.waitbKeep f)) ∧
  (∀ f, Issues s c (.batch f) → (s.openBatches c.r).length < 16 →
    ∃ t q, exec (.batch f) s = .next t ∧ onlyRaft s t c.r.id ∧ t.raft? c.r.id = some q ∧
      sameRaft { c.r with batchCount := c.r.batchCount + 1 } q ∧
      Written c (.batch f) f.d (fun _ => []) (some [c.r.batchCount]) q)) ∧
  (∀ (s s1 : State) (c : Ctx) (f : CF) (bytes : List Byte), Issues s c (.waitmem f) →
  let n := if f.fn.getLsbD 2 then 8 else 4
  let value := if f.fn.getLsbD 2 then (c.sval64 f.d).toNat else (c.sval f.d).toNat
  canonical (c.sval64 f.a).toNat = true → (c.sval64 f.a).toNat % n = 0 →
  s.waitmemBlock c.r c.t.asid (c.sval64 f.a).toNat n = .free →
  (s.stepStreams c.r.id (c.streamsRead (.waitmem f))).readAt c.t.asid (c.sval64 f.a).toNat n .read = (s1, .ok, bytes) →
  let scope := field f.off.toNat 2 0
  let s2 := s1.dropRead c.r.here c.t.asid (c.sval64 f.a).toNat n
  (waitCond (field f.fn.toNat 1 0) (ofBytes bytes) value = true →
    Leads s (s2.acquireDrop c.r c.t.asid scope 0xFF) c (.waitmem f)) ∧
  (waitCond (field f.fn.toNat 1 0) (ofBytes bytes) value = false →
    ∃ t q, exec (.waitmem f) s = .next t ∧ t.raft? c.r.id = some q ∧ q.v = c.r.v ∧ q.s = c.r.s ∧ q.p = c.r.p ∧
      (q.entry? c.e).map (·.wait) =
        some (.mem (c.sval64 f.a).toNat n (field f.fn.toNat 1 0) value scope (s.cycles c.r.here)) ∧
      (q.entry? c.e).map (·.slot) = some c.en.slot))

/-- R91, R129 to R131: a converged raft's BAR on an aligned canonical object, once what its release covers has been performed,
sends one arrival where no link on the way to its home is backed up (R24), and else waits for that at its slot; with FN 0 its sub-raft
waits at the BAR, with FN 1, where the loads counter has room (R124), it goes on and D awaits the phase. -/
def Obligations.BarriersSendArrivals : Prop := ∀ (s : State) (c : Ctx) (f : CF),
  c.r.converged = true → canonical (c.sval64 f.a).toNat = true → (c.sval64 f.a).toNat % 64 = 0 →
  worst (s.releaseWork c.r.id 0xFF) = .free →
  let req (ent : Option Nat) (dest : Option Dest) : Req :=
    { id := s.nextId, raft := c.r.id, core := c.r.here, kind := .arrive (c.sval (nextReg f.a 2)).toNat ent, acq := false, rel := true
      scope := field f.off.toNat 2 0, mask := 0xFF, lanes := c.active, dest := dest
      parts := [⟨0, .virt c.t.asid, (c.sval64 f.a).toNat, 64, 0, none⟩], data := [], got := [], tags := 0, tagLanes := []
      binds := [], missed := [], twin := none, born := s.nextId, early := false, checked := false
      replay := false, fault := none, pc := c.cl.pc, slot := c.en.slot, instr := c.word }
  (Issues s c (.barSync f) → s.sendable (req (some c.e) none) = false → Waits s c (.barSync f) .slot) ∧
  (Issues s c (.barSync f) → s.sendable (req (some c.e) none) = true → Leads s (s.withReq (req (some c.e) none)) c (.barSync f) ∧
    ∃ t q, exec (.barSync f) s = .next t ∧ t.raft? c.r.id = some q ∧
      q.entry? c.e = some { c.en with wait := .barrier (c.sval64 f.a).toNat none }) ∧
  (Issues s c (.barArrive f) → 65535 ≤ s.counter c.r.id 4 ∨ s.sendable (req none none) = false → Waits s c (.barArrive f) .slot) ∧
  (Issues s c (.barArrive f) → s.counter c.r.id 4 < 65535 → s.sendable (req none none) = true → Leads s (s.withReq (req none (some ⟨f.d, 1, c.active, true, 384⟩))) c (.barArrive f))

/-- R133, R134: LOOP and LOOP_UNTIL capture their body from the clauses that follow and run its first pass from the spindle; a
count of 0 goes past the body.
R135 to R137: STRM binds a stream to a walk of one to three dimensions with no zero count among them, and its register holds
the base; STRM_OFF unbinds it. -/
def Obligations.LoopsAndStreams : Prop :=
  (∀ (s s2 : State) (c : Ctx) (f : CF) (first : Clause) (rest : List Clause),
  c.r.spindle = none → f.d.toNat + f.jid.toNat ≤ c.r.count →
  (Issues s c (.loop f) →
    State.capture c.t.asid (field f.off.toNat 2 0 + 1) c.cl.nextPc (s.stepStreams c.r.id (c.streamsRead (.loop f))) =
      (s2, .body (first :: rest)) →
    ∃ t q, exec (.loop f) s = .next t ∧ t.raft? c.r.id = some q ∧ q.v = c.r.v ∧ q.p = c.r.p ∧
      (c.sval f.a ≠ 0 → q.entry? c.e = some (c.en.spin first s2.clock) ∧ q.spindle =
        some ⟨c.e, first :: rest, f.d.toNat, f.jid.toNat, field f.off.toNat 7 4, none, (c.sval f.a).toNat, 0, 0⟩) ∧
      (c.sval f.a = 0 → q.spindle = none ∧ q.entry? c.e = some (c.en.goto (bodyEnd (first :: rest) c.cl.nextPc) s2.clock))) ∧
  (∀ w, Issues s c (.loopUntil f) → c.r.streams[field f.off.toNat 9 8]? = some (some w) →
    State.capture c.t.asid (field f.off.toNat 2 0 + 1) c.cl.nextPc (s.stepStreams c.r.id (c.streamsRead (.loopUntil f))) =
      (s2, .body (first :: rest)) →
    ∃ t q, exec (.loopUntil f) s = .next t ∧ t.raft? c.r.id = some q ∧ q.v = c.r.v ∧ q.p = c.r.p ∧
      q.entry? c.e = some (c.en.spin first s2.clock) ∧ q.spindle =
        some ⟨c.e, first :: rest, f.d.toNat, f.jid.toNat, field f.off.toNat 7 4,
          some (field f.off.toNat 9 8, field f.off.toNat 11 10), 0, 0, 0⟩)) ∧
  (∀ (s : State) (c : Ctx) (f : CF),
  (∀ b c0 d0 c1 d1 c2 d2 dims : Word, Issues s c (.strm f) → c.swords f.a 8 = [b, c0, d0, c1, d1, c2, d2, dims] →
    1 ≤ dims.toNat → dims.toNat ≤ 3 → c0 ≠ 0 → (2 ≤ dims.toNat → c1 ≠ 0) → (dims = 3 → c2 ≠ 0) →
    ∃ t q, exec (.strm f) s = .next t ∧ onlyRaft s t c.r.id ∧ t.raft? c.r.id = some q ∧
      q = { c.stepped (.strm f) with
        s := sset (c.stepped (.strm f)).s (60 + f.fn.toNat) b, split := q.split, spindle := q.spindle
        streams := (c.stepped (.strm f)).streams.set f.fn.toNat
          (some ⟨b, c0.toNat, c1.toNat, c2.toNat, d0, d1, d2, dims.toNat, 0, 0, 0, false, false, false⟩) }) ∧
  (Issues s c (.strmOff f) →
    ∃ t q, exec (.strmOff f) s = .next t ∧ onlyRaft s t c.r.id ∧ t.raft? c.r.id = some q ∧
      q = { c.r with split := q.split, spindle := q.spindle, streams := c.r.streams.set (f.fn.toNat - 4) none }))

/-- R138: REORDER on a converged raft without pending writes moves the live threads to the lowest lanes, by ascending key: the
lane of rank p holds the listed registers, the predicates and the origin of the thread of that rank.
R139, R140: QUOTA to the same count goes on; to a lower one that no register lock keeps gives the registers back; to a higher
one waits for a grant. YIELD goes on, after the cycles it names. -/
def Obligations.ReorderQuotaAndYield : Prop :=
  (∀ (s : State) (c : Ctx) (f : CF), Issues s c (.reorder f) → c.r.converged = true →
  (∀ q ∈ s.reqs, q.raft = c.r.id → Dest.real q.dest = false) → (∀ o ∈ s.ops, o.raft = some c.r.id → Dest.real o.dest = false) →
  let order := sortBy (fun l => (c.r.vreg f.a.toNat l).toNat) (lanesOf c.r.width c.r.live)
  ∃ t q, exec (.reorder f) s = .next t ∧ onlyRaft s t c.r.id ∧ t.raft? c.r.id = some q ∧ q.s = c.r.s ∧
    q.live = maskOf (List.range (lanesOf c.r.width c.r.live).length) ∧
    (∀ p l, order[p]? = some l →
      (∀ reg, f.d.toNat ≤ reg → reg < f.d.toNat + f.off.toNat → q.vreg reg p = c.r.vreg reg l) ∧
      (∀ k, k < 8 → (q.preg k).getLsbD p = (c.r.preg k).getLsbD l) ∧ (p < c.r.origin.length → q.origin[p]? = some l)) ∧
    ∀ reg l, l < 64 → ¬(f.d.toNat ≤ reg ∧ reg < f.d.toNat + f.off.toNat ∧ l < order.length) → q.vreg reg l = c.r.vreg reg l) ∧
  (∀ (s : State) (c : Ctx) (f : CF),
  (∀ n, Issues s c (.quota f) → c.r.landed = none → n = (if f.fn = 0 then f.off.toNat else (c.sval f.a).toNat) →
    1 ≤ n → n ≤ 384 → n + ((s.poolRafts c.r).length - 1) ≤ c.t.pool c.r →
    (n = c.r.count → Passes s c (.quota f)) ∧
    (n < c.r.count → (∀ o ∈ s.ops, ∀ x ∈ o.locks, x.1 = c.r.id → x.2 < n) →
      ∃ t q, exec (.quota f) s = .next t ∧ t.raft? c.r.id = some q ∧ q.count = n ∧ q.p = c.r.p ∧
        (∀ k, (∀ j ∈ c.streamsRead (.quota f), k ≠ 60 + j) → q.sreg k = c.r.sreg k) ∧
        (∀ reg l, l < 64 → reg < n → q.vreg reg l = c.r.vreg reg l) ∧ t.teams = s.teams ∧ t.tile = s.tile ∧ t.pmem = s.pmem ∧
        t.csr = s.csr) ∧
    (c.r.count < n → ∃ t q, exec (.quota f) s = .next t ∧ onlyRaft s t c.r.id ∧ t.raft? c.r.id = some q ∧ sameRaft c.r q ∧ q.v = c.r.v ∧
      q.s = c.r.s ∧ q.p = c.r.p ∧ (q.entry? c.e).map (·.wait) = some (.quota n s.clock))) ∧
  (Issues s c (.yield f) → (f.off = 0 → Passes s c (.yield f)) ∧
    (f.off ≠ 0 → ∃ t q, exec (.yield f) s = .next t ∧ onlyRaft s t c.r.id ∧ t.raft? c.r.id = some q ∧ Unwritten c (.yield f) q ∧
      (q.entry? c.e).map (·.wait) = some (.yield f.off.toNat (s.cycles c.r.here)))))

/-- R55: in a team without supervisor rights every SYS instruction traps with PRIV (cause 3), whatever its operands. -/
def Obligations.SystemInstructionsArePrivileged : Prop := ∀ (s : State) (c : Ctx) (f : CF), s.ctx = some c → c.t.supv = false →
  ∀ i ∈ [Instr.csrr f, .csrw f, .dbghalt f, .dbgres f, .dbgstep f, .dbgrd f, .dbgwr f, .watch f, .tlbinv f, .tlbinvHold f, .tlbinvFree f,
    .kill f, .mbox f], Traps s c i 3 c.active 0 0

/-- R385, R386: CSRR and CSRW of an assigned register in its width read it and write it; of another number or width, and a
write of a read-only register, trap with ILLOP.
R386: a write of a control register is read back as the register keeps it, and no other register of the core named, or of
any core, changes. -/
def Obligations.ControlRegisters : Prop :=
  (∀ (s : State) (c : Ctx) (f : CF),
  (∀ wide x rw, s.csrGet (c.csrCore f) (field f.off.toNat 11 0) = some (wide, x, rw) →
    (Issues s c (.csrr f) → wide = f.fn.getLsbD 0 → WritesLanes s c (.csrr f) f.d (fun _ => wordsW wide x)) ∧
    (Issues s c (.csrr f) → wide ≠ f.fn.getLsbD 0 → Traps s c (.csrr f) 1 c.active 0 0) ∧
    (Issues s c (.csrw f) → wide = f.fn.getLsbD 0 → rw = true →
      Leads s (s.csrPut (c.csrCore f) (field f.off.toNat 11 0) (if wide then (c.sval64 f.a).toNat else (c.sval f.a).toNat)) c (.csrw f)) ∧
    (Issues s c (.csrw f) → wide ≠ f.fn.getLsbD 0 ∨ rw = false → Traps s c (.csrw f) 1 c.active 0 0)) ∧
  (s.csrGet (c.csrCore f) (field f.off.toNat 11 0) = none →
    (Issues s c (.csrr f) → Traps s c (.csrr f) 1 c.active 0 0) ∧ (Issues s c (.csrw f) → Traps s c (.csrw f) 1 c.active 0 0))) ∧
  (∀ (s : State) (core x : Nat),
  (∀ num num' core', num ≠ num' → (s.csrPut core num x).csrGet core' num' = s.csrGet core' num') ∧
  (∀ num, num ∈ [0x000, 0x001, 0x002] → (s.csrPut core num x).csrGet core num = some (false, x % 2 ^ 32, true)) ∧
  (s.csrPut core 0x003 x).csrGet core 0x003 = some (true, x % 2 ^ 64 / 2 ^ 20 * 2 ^ 20, true) ∧
  (s.csrPut core 0x004 x).csrGet core 0x004 = some (true, x % 2 ^ 64 / 2 ^ 21 * 2 ^ 21, true) ∧
  (s.csrPut core 0x005 x).csrGet core 0x005 = some (false, min (x % 2 ^ 32) 4096, true) ∧
  (s.csrPut core 0x006 x).csrGet core 0x006 = some (true, x % 2 ^ 64 / 2 ^ 12 * 2 ^ 12, true) ∧
  (4 ≤ x % 2 ^ 32 → x % 2 ^ 32 ≤ 16 → (s.csrPut core 0x007 x).csrGet core 0x007 = some (false, x % 2 ^ 32, true)) ∧
  (x % 2 ^ 32 < 4 ∨ 16 < x % 2 ^ 32 → s.csrPut core 0x007 x = s) ∧
  (s.csrPut core 0x008 x = s) ∧ (∀ s' : State, (s'.csrGet core 0x008).map (·.2.2) = some false) ∧
  (s.csrPut core 0x009 x).csrGet core 0x009 = some (true, x % 2 ^ 64, true) ∧
  (∀ num, num ∈ [0x010, 0x011, 0x012, 0x013, 0x014, 0x100] ∨ 0x180 ≤ num ∧ num ≤ 0x188 →
    (s.csrPut core num x).csrGet core num = some (true, x % 2 ^ 48, true)) ∧
  (∀ core', core' / 32 ≠ core / 32 → ∀ num, 0x180 ≤ num → num ≤ 0x188 → (s.csrPut core num x).csrGet core' num = s.csrGet core' num) ∧
  (∀ core', core' ≠ core → (s.csrPut core 0x100 x).csrGet core' 0x100 = s.csrGet core' 0x100) ∧
  (∀ num, 0x009 < num ∧ num < 0x010 ∨ 0x014 < num ∧ num < 0x100 ∨ 0x100 < num ∧ num < 0x180 ∨ 0x188 < num →
    s.csrGet core num = none ∧ s.csrPut core num x = s))

/-- R384, R364, R366, R377: TRAPI completes and then takes its trap at the slot after it, cause 39 with IMM24 in AUX; so does BKPT with
cause 40 where the policy is not DEBUG. Under DEBUG a BKPT writes no record: it reports BREAK, with the header of its clause in PC,
its slot in SLOT, and AUX[2] 1 with IMM24 in AUX[39:16], and stops every raft of its team with REASON 2; a raft of one sub-raft
that issues nowhere else and has no barrier arrival on its way (log entry 20) halts at once, and HALTPC and HALTINFO name the
slot after the BKPT. -/
def Obligations.SoftwareTraps : Prop := ∀ (s : State) (c : Ctx) (f : CF),
  let past := s.pastSlot c
  let info (cause : Nat) : TrapInfo :=
    ⟨cause, 0, past.resumePc c, 0, c.active, detailOf c.cl.pc f.off.toNat c.en.slot (opOf c.word).toNat 0 c.word⟩
  (Issues s c (.trapi f) → exec (.trapi f) s = .next (past.takeTrap c.r.id (some c.e) (info 39))) ∧
  (Issues s c (.bkpt f) → s.policyOf c.t ≠ 2 → exec (.bkpt f) s = .next (past.takeTrap c.r.id (some c.e) (info 40))) ∧
  (Issues s c (.trapi f) ∨ Issues s c (.bkpt f) → onlyRaft s past c.r.id ∧
    (c.unspun → past.resumePc c = c.cl.nextPc ∧ past.raft? c.r.id = some (c.r.setEntry c.e (some (c.en.goto c.cl.nextPc s.clock))))) ∧
  (Issues s c (.bkpt f) → s.policyOf c.t = 2 →
    ∃ bytes, bytes.length = 60 ∧ ofBytes (bytes.take 8) = trefOf c.t c.r.index % 2 ^ 64 ∧ ofBytes ((bytes.drop 8).take 1) = 2 ∧
      field (ofBytes ((bytes.drop 8).take 8)) 19 16 = c.en.slot % 16 ∧ ofBytes ((bytes.drop 0x10).take 8) = c.cl.pc.toNat ∧
      ofBytes ((bytes.drop 0x18).take 8) = c.active.toNat ∧ bit (ofBytes ((bytes.drop 0x28).take 8)) 2 = true ∧
      field (ofBytes ((bytes.drop 0x28).take 8)) 39 16 = f.off.toNat ∧
      exec (.bkpt f) s = .next (((((s.report c.t.asid bytes).pastSlot c).stopTeam c.t.id 2).settleStop c.r.id)) ∧
      (c.t.dying = none → s.named → ∃ t, exec (.bkpt f) s = .next t ∧
        t.csr.trapDrop = s.csr.trapDrop ∧ t.tile = s.tile ∧ t.ops = s.ops ∧ t.reqs = s.reqs ∧
        (∀ id q, t.raft? id = some q → q.team = c.t.id → q.halted = true ∨ q.stopping.isSome = true) ∧
        (∀ id r q, s.raft? id = some r → t.raft? id = some q → r.team = c.t.id → r.halted = false → r.stopping = none →
          q.halted = true ∧ field q.haltInfo.toNat 19 12 = 2 ∨ q.halted = false ∧ q.stopping = some 2) ∧
        (∀ q, t.raft? c.r.id = some q → q.v = c.r.v ∧ q.s = c.r.s ∧ q.p = c.r.p) ∧
        (c.unspun → c.r.subs = [(c.e, c.en)] → c.r.joins = [] → c.r.stack = [] → c.r.halted = false → s.arriving c.r.id = false →
          (∀ x ∈ s.running, x.1 = c.r.id → x.2 = c.e) →
          ∃ q, t.raft? c.r.id = some q ∧ q.halted = true ∧ q.haltPc = c.cl.nextPc ∧ field q.haltInfo.toNat 11 8 = 0 ∧
            field q.haltInfo.toNat 19 12 = 2)))

/-- R366, R367, R373: taking a trap stops every raft of the team and leaves the others; a raft of one sub-raft that is not
issuing elsewhere and has no barrier arrival on its way halts there at once, with HALTPC, slot and REASON 1 in place. Under KILL the team dies of the cause.
R369, R370: a record that is dropped adds one to TRAP_DROP; one that is written is numbered by TCOUNT, which goes up by one.
Reserved bits in the entry, or a TRING that is not a canonical multiple of 64, drop every record; reserved bits and policy 3 read
as KILL. -/
def Obligations.TrapsStopTheTeam : Prop :=
  (∀ (s : State) (rid : Nat) (r : Raft) (t : Team) (e : Option Nat) (ti : TrapInfo),
  s.named → s.raft? rid = some r → s.team? r.team = some t →
  let u := s.takeTrap rid e ti
  (s.policyOf t ≠ 0 → t.dying = none → t.stepping = none →
    (∀ id q, u.raft? id = some q → q.team = t.id → q.halted = true ∨ q.stopping.isSome = true) ∧
    (∀ id, id ≠ rid → (∀ x ∈ s.rafts, x.id = id → x.team ≠ t.id) → u.raft? id = s.raft? id) ∧
    u.tile = s.tile ∧ u.empty = s.empty ∧ u.ops = s.ops ∧ u.reqs = s.reqs ∧
    (∀ k en, r.subs = [(k, en)] → r.joins = [] → r.stack = [] → r.halted = false → r.stopping = none → s.arriving rid = false →
      (∀ x ∈ s.running, x.1 = rid → e = some x.2) →
      ∃ q, u.raft? rid = some q ∧ q.halted = true ∧ q.haltPc = en.pc ∧ field q.haltInfo.toNat 4 0 = 0 ∧
        field q.haltInfo.toNat 11 8 = en.slot % 16 ∧ field q.haltInfo.toNat 19 12 = 1 ∧ q.v = r.v ∧ q.s = r.s ∧ q.p = r.p ∧
        q.split = (r.turnAges s.clock).split)) ∧
  (s.policyOf t = 0 → ∀ x, u.team? t.id = some x → x.dying = some (t.dying.getD ti.cause))) ∧
  (∀ (s : State) (asid : Nat) (bytes : List Byte), s.exchanges = [] →
  let te := s.trapEntry asid
  let r := s.postTrapRecord asid bytes
  (r.2 = none → r.1.csr.trapDrop = s.csr.trapDrop + 1) ∧
  (∀ k, r.2 = some k → k = te.tcount ∧ r.1.csr.trapDrop = s.csr.trapDrop ∧ (r.1.trapEntry asid).tcount = (te.tcount + 1) % 2 ^ 64) ∧
  (te.sound = false ∨ canonical te.tring = false ∨ te.tring % 64 ≠ 0 → r.2 = none) ∧
  (te.sound = false → te.policy = 0 ∧ te.spolicy = 0) ∧ te.policy < 3 ∧ te.spolicy < 3 ∧ r.1.rafts = s.rafts ∧ r.1.tile = s.tile)

/-- R375, R380, R382, R387: the checks that the debug instructions share and the status each returns, with no effect on the target.
Their order is the model's reading (log entry 64), and so is that ALL names the team's lowest live raft (log entry 65).
R374, R380, R381, R387: DBGHALT stops its raft, or every raft of the team; DBGSTEP lets the lowest sub-raft of its halted raft
run; KILL makes the team die; each waits at its slot, and returns the status once its effect is complete (log entries 64, 65). -/
def Obligations.DebugOperations : Prop :=
  (∀ (s : State) (c : Ctx) (f : CF) (st : Nat),
  s.myDebug c = none → worst (s.releaseWork c.r.id 0xFF) = .free →
  let tref := (c.sval64 f.a).toNat
  let bad := (c.swords f.a 8).getD 3 0 ≠ 0 ∨ (c.swords f.a 8).getD 6 0 ≠ 0 ∨ (c.swords f.a 8).getD 7 0 ≠ 0
  let busy (t : Team) := s.debugs.any (fun d => d.team == t.id && d.status.isNone)
  let turned (policies : List Nat) (stowedToo : Bool) : Prop :=
    bad ∧ st = 5 ∨ ¬bad ∧ s.trefTarget tref = none ∧ st = 1 ∨
    ¬bad ∧ ∃ t r, s.trefTarget tref = some (t, r) ∧
      (busy t = true ∧ st = 4 ∨ busy t = false ∧ t.stowed.isSome = true ∧ stowedToo = false ∧ st = 6 ∨
        busy t = false ∧ (t.stowed = none ∨ stowedToo = true) ∧ s.policyOf t ∉ policies ∧ st = 2)
  (∀ i ∈ [Instr.dbghalt f, .dbgstep f], Issues s c i → turned [2] false → Returns s s c i f st) ∧
  (∀ i ∈ [Instr.dbgres f, .dbgrd f, .dbgwr f], Issues s c i → turned [1, 2] false → Returns s s c i f st) ∧
  (Issues s c (.kill f) → turned [0, 1, 2] true → Returns s s c (.kill f) f st)) ∧
  (∀ (s : State) (c : Ctx) (f : CF), s.named →
  (∀ t r, Targets s c f t r → t.stowed = none → s.policyOf t = 2 → Issues s c (.dbghalt f) → s.team? t.id = some t → t.dying = none →
    ∃ u, exec (.dbghalt f) s = .next u ∧ u.tile = s.tile ∧ u.ops = s.ops ∧ u.reqs = s.reqs ∧
      ((c.sval64 f.a).getLsbD 63 = false → ∀ q, u.raft? r.id = some q → q.halted = true ∨ q.stopping.isSome = true) ∧
      ((c.sval64 f.a).getLsbD 63 = true → ∀ id q, u.raft? id = some q → q.team = t.id → q.halted = true ∨ q.stopping.isSome = true)) ∧
  (∀ t r e en, Targets s c f t r → t.stowed = none → s.policyOf t = 2 → Issues s c (.dbgstep f) → (c.sval64 f.a).getLsbD 63 = false →
    s.team? t.id = some t → r.id ≠ c.r.id →
    s.teamHalted t = true → r.subs.head? = some (e, en) → en.wait = .none ∨ en.wait = .slot ∨ en.wait = .empty ∨ en.wait = .spindle →
    ∃ u q, exec (.dbgstep f) s = .next u ∧ u.raft? r.id = some q ∧ q.halted = false ∧ q.stopping = some 5 ∧
      (u.team? t.id).map (·.stepping) = some (some ⟨r.id, e, en.pc, en.mask, false, false⟩) ∧ q.v = r.v ∧ q.s = r.s ∧ q.p = r.p) ∧
  (∀ t r, Targets s c f t r → s.team? t.id = some t → Issues s c (.kill f) →
    ∃ u, exec (.kill f) s = .next u ∧ ∀ x, u.team? t.id = some x → x.dying = some (t.dying.getD 42)) ∧
  (∀ i ∈ [Instr.dbghalt f, .dbgstep f, .kill f], ∀ d st, Issues s c i → s.myDebug c = some d → d.status = some st →
    Returns s { s with debugs := s.debugs.filter (fun x => x != d) } c i f st))

/-- R373, R380, R388: DBGRES lets its halted raft, or every raft of its halted team, go on where it stopped, and returns OK; DBGRD
and DBGWR read and write the selected item; a target that is not halted is refused with RUNNING, and an item that does not
exist with BADDESC. RUNNING before a selector's BADDESC is the model's reading (log entry 64), and so is what ALL names to DBGRD and
DBGWR (log entry 65). -/
def Obligations.ResumeAndInspect : Prop := ∀ (s : State) (c : Ctx) (f : CF) (t : Team) (r : Raft),
  s.named → Targets s c f t r → t.stowed = none → s.policyOf t = 1 ∨ s.policyOf t = 2 →
  let resumed (x : Raft) : Raft := { x with
    halted := false, stopping := none, skid := 0, mooredAt := x.mooredAt.map (fun _ => s.cycles x.here)
    split := (x.turnAges s.clock).split.map (fun y => y.map (fun en => { en with fresh := true })) }
  let sel := (c.sval (f.a + 2)).toNat
  (Issues s c (.dbgres f) → r.id ≠ c.r.id → (c.sval64 f.a).getLsbD 63 = false → r.halted = true →
    Returns s (s.setRaft (resumed r)) c (.dbgres f) f 0) ∧
  (Issues s c (.dbgres f) → (c.sval64 f.a).getLsbD 63 = true → s.teamHalted t = true → c.t.id ≠ t.id →
    ∃ u, exec (.dbgres f) s = .next u ∧
      ∀ id q, s.raft? id = some q → q.team = t.id → u.raft? id = some (resumed q)) ∧
  (Issues s c (.dbgres f) → s.targetHalted (c.sval64 f.a).toNat t r = false → Returns s s c (.dbgres f) f 3) ∧
  (∀ x, Issues s c (.dbgrd f) → r.id ≠ c.r.id ∨ 4 ≤ sel / 2 ^ 28 → (sel / 2 ^ 28 < 4 → r.halted = true) → s.selRead t r sel = some x →
    ∃ u q, exec (.dbgrd f) s = .next u ∧
      u = { (s.acquireDrop c.r c.t.asid 4 0xFF) with rafts := u.rafts, running := u.running } ∧ u.raft? c.r.id = some q ∧
      (∀ id, id ≠ c.r.id → u.raft? id = s.raft? id) ∧ sameRaft c.r q ∧ q.v = c.r.v ∧ q.p = c.r.p ∧
      (c.lanes ≠ [] → Kind.of f.d = .scl → q.sreg (f.d.toNat - 384) = 0) ∧
      (c.lanes ≠ [] → f.d ≠ f.a + 4 → f.d ≠ f.a + 5 →
        [q.sreg (f.a.toNat - 384 + 4), q.sreg (f.a.toNat - 384 + 5)] = words2 x)) ∧
  (∀ s2, Issues s c (.dbgwr f) → r.id ≠ c.r.id ∨ 4 ≤ sel / 2 ^ 28 → (sel / 2 ^ 28 < 4 → r.halted = true) → s.selWrite t r sel (c.sval64 (f.a + 4)) = some s2 →
    Returns s s2 c (.dbgwr f) f 0) ∧
  (Issues s c (.dbgrd f) → sel / 2 ^ 28 < 4 → r.halted = false → Returns s s c (.dbgrd f) f 3) ∧
  (Issues s c (.dbgwr f) → sel / 2 ^ 28 < 4 → r.halted = false → Returns s s c (.dbgwr f) f 3) ∧
  (Issues s c (.dbgrd f) → (sel / 2 ^ 28 < 4 → r.halted = true) → s.selRead t r sel = none → Returns s s c (.dbgrd f) f 5) ∧
  (Issues s c (.dbgwr f) → (sel / 2 ^ 28 < 4 → r.halted = true) → s.selWrite t r sel (c.sval64 (f.a + 4)) = none →
    Returns s s c (.dbgwr f) f 5)

/-- R389, R390: WATCH sets or clears a watchpoint of the core it names, or refuses a bad descriptor with BADDESC; MBOX posts its
fifteen words and writes how that went to s[d+15]; a mailbox address that is not canonical or not a multiple of 64 traps. -/
def Obligations.WatchAndMail : Prop := ∀ (s : State) (c : Ctx) (f : CF), worst (s.releaseWork c.r.id 0xFF) = .free →
  let w := c.swords f.a 8
  let x := (w.getD 0 0).toNat
  let g := (w.getD 1 0).toNat
  let key := 4 * field x 7 0 + field x 9 8
  let set : List (Nat × WatchPoint) := if bit x 10 then [(key, ⟨true, bit x 11, bit x 12, bit x 13, g / 8⟩)] else []
  let good := field x 31 14 = 0 ∧ g % 8 = 0 ∧ g < 2 ^ 21 ∧ ∀ y ∈ w.drop 2, y = 0
  let mbox := (c.sval64 f.a).toNat
  (Issues s c (.watch f) → good →
    Returns s { s with points := set ++ s.points.filter (fun p => p.1 != key) } c (.watch f) f 0) ∧
  (Issues s c (.watch f) → ¬good → Returns s s c (.watch f) f 5) ∧
  (Issues s c (.mbox f) → canonical mbox = false → Traps s c (.mbox f) 5 c.active mbox 0) ∧
  (Issues s c (.mbox f) → canonical mbox = true → mbox % 64 ≠ 0 → Traps s c (.mbox f) 7 c.active mbox 0) ∧
  (∀ s1 k, Issues s c (.mbox f) → canonical mbox = true → mbox % 64 = 0 → k ≠ 3 →
    (s.stepStreams c.r.id (c.streamsRead (.mbox f))).postMail c.t.asid mbox ((c.swords f.d 15).flatMap (fun y => toBytes 4 y.toNat)) = (s1, k) →
    WritesFrom s { s1 with rafts := s.rafts } c (.mbox f) (f.d + 15) (words1 k))

/-- R290, R292 to R294: TLBINV and TLBINV_HOLD leave no line of the range in any L1 or L2, and no translation or mark of it, global ones
with GLOB alone; a HOLD stands from then on, and TLBINV_FREE lifts one that names exactly the range, of several equal ones a single
one (log entry 25), with the same translations gone where no record has waited for it to end. A length of 0 has no effect but the
acquire; a range that is not canonical traps with VA_RANGE (cause 5); where an exchange or 16 holds stand in the way the slot waits. -/
def Obligations.TranslationInvalidate : Prop := ∀ (s : State) (c : Ctx) (f : CF), worst (s.releaseWork c.r.id 0xFF) = .free →
  let all := f.off.getLsbD 18
  let glob := f.off.getLsbD 17
  let asid := if f.off.getLsbD 16 then field f.off.toNat 15 0 else c.t.asid
  let start := if all then 0 else (c.sval64 f.a).toNat
  let len := if all then 2 ^ 57 else (c.sval f.d).toNat
  let lo := va57 start / 128 * 128
  let n := ceilDiv (va57 start + len) 128 * 128 - lo
  let clean (u : State) : Prop :=
    u.tlb = s.tlb.filter (fun e => !(overlaps e.base e.size lo n && (if bit e.pte.toNat 8 then glob else e.asid == asid))) ∧
    u.marks = s.marks.filter (fun m => !(m.asid == asid && overlaps m.base m.size lo n)) ∧ (∀ w ∈ u.walks, w.found = none) ∧
    u.tile = s.tile ∧ u.empty = s.empty ∧ u.ops = s.ops ∧ u.reqs = s.reqs ∧ u.csr = s.csr ∧ u.ctl = s.ctl ∧ u.home = s.home ∧
    ∃ q, u.raft? c.r.id = some q ∧ q.v = c.r.v ∧ q.p = c.r.p
  let gone (u : State) : Prop :=
    (∀ l ∈ u.l1, l.asid = asid → overlaps (128 * l.line) 128 lo n = false) ∧
    (∀ l ∈ u.lines, l.asid = asid → overlaps (128 * l.line) 128 lo n = false)
  let good := all = true ∨ canonical start = true ∧ canonical (start + len - 1) = true
  (∀ i ∈ [Instr.tlbinv f, .tlbinvHold f, .tlbinvFree f], Issues s c i →
    (all = false → len = 0 → Leads s (s.acquireDrop c.r c.t.asid 4 0xFF) c i) ∧
    (len ≠ 0 → ¬good → Traps s c i 5 c.active start 0)) ∧
  (∀ i ∈ [Instr.tlbinv f, .tlbinvHold f], Issues s c i → good → len ≠ 0 →
    s.exchanging asid lo n = true ∨ i = .tlbinvHold f ∧ 16 ≤ s.holds.length → Waits s c i .slot) ∧
  (good → len ≠ 0 → (∀ q ∈ s.queues, q.state ≠ 6) →
    (∀ i, i = .tlbinv f → Issues s c i → s.exchanging asid lo n = false →
      ∃ u, exec i s = .next u ∧ clean u ∧ gone u ∧ u.holds = s.holds) ∧
    (∀ i, i = .tlbinvHold f → Issues s c i → s.exchanging asid lo n = false → s.holds.length < 16 →
      ∃ u, exec i s = .next u ∧ clean u ∧ gone u ∧ u.holds = s.holds ++ [⟨asid, lo, n⟩]) ∧
    (∀ i, i = .tlbinvFree f → Issues s c i →
      ∃ u, exec i s = .next u ∧ (s.posts = [] → clean u) ∧ u.holds = s.holds.erase ⟨asid, lo, n⟩))

/-- R396, R406: MIGRATE and MIGRATE.home of a raft that sits on the die go on, of another wait at their slot to be moved, and trap
on a far or non-canonical address. LEASE takes a lease, or answers that eight leases stand on the cluster or that the module's estimate,
a free number (log entry 69), passes PLIMIT; LEASE.end gives one up, and answers NONE where the raft has none that still stands. The
answer is a load on its way to D until it comes (R124), and a slot whose loads counter is full waits. -/
def Obligations.MovesAndLeases : Prop := ∀ (s : State) (c : Ctx) (f : CF),
  (∀ va, va = (c.sval64 f.a).toNat → Issues s c (.migrate f) →
    (canonical va = true → s.homeOf c.t.asid va = c.r.here / 32 → s.homeOf c.t.asid va ≠ 8 → Passes s c (.migrate f)) ∧
    (canonical va = true → s.homeOf c.t.asid va ≠ c.r.here / 32 → s.homeOf c.t.asid va ≠ 8 →
      Waits s c (.migrate f) (.migrate (s.homeOf c.t.asid va) none)) ∧
    (canonical va = false ∨ s.homeOf c.t.asid va = 8 → Traps s c (.migrate f) 5 c.active va 0)) ∧
  (Issues s c (.migrateHome f) →
    (c.r.core / 32 = c.r.here / 32 → Passes s c (.migrateHome f)) ∧
    (c.r.core / 32 ≠ c.r.here / 32 → Waits s c (.migrateHome f) (.migrate (c.r.core / 32) none))) ∧
  (Issues s c (.lease f) →
    let cl := c.r.here / 4
    let s0 : State := { s with leases := s.leases.filter (fun l => l.raft != c.r.id) }
    let s1 : State := { s0 with freeCtr := s.freeCtr + 1 }
    let standing := s.leases.filter (fun l => l.raft != c.r.id && (l.cluster == cl && decide (s.clusterCycles l.cluster < l.expiry)))
    (s.counter c.r.id 4 < 65535 → 8 ≤ standing.length → Leads s (s0.withReq (c.statusReply s f.d 2)) c (.lease f)) ∧
    (s.counter c.r.id 4 < 65535 → standing.length < 8 → Config.freeNat s.freeCtr ≤ s.ctl.plimit.toNat →
      Leads s (({ s1 with leases := s0.leases ++ [⟨c.r.id, cl, s.clusterCycles cl + f.off.toNat⟩] } : State).withReq (c.statusReply s f.d 0))
        c (.lease f)) ∧
    (s.counter c.r.id 4 < 65535 → standing.length < 8 → s.ctl.plimit.toNat < Config.freeNat s.freeCtr →
      Leads s (s1.withReq (c.statusReply s f.d 1)) c (.lease f)) ∧
    (65535 ≤ s.counter c.r.id 4 → Waits s c (.lease f) .slot)) ∧
  (Issues s c (.leaseEnd f) →
    let stands (l : Lease) : Prop := l.raft = c.r.id ∧ s.clusterCycles l.cluster < l.expiry
    let s0 : State := { s with leases := s.leases.filter (fun l => l.raft != c.r.id) }
    (s.counter c.r.id 4 < 65535 → (∃ l ∈ s.leases, stands l) → Leads s (s0.withReq (c.statusReply s f.d 0)) c (.leaseEnd f)) ∧
    (s.counter c.r.id 4 < 65535 → (∀ l ∈ s.leases, ¬stands l) → Leads s (s0.withReq (c.statusReply s f.d 3)) c (.leaseEnd f)) ∧
    (65535 ≤ s.counter c.r.id 4 → Waits s c (.leaseEnd f) .slot)) ∧
  (∀ s0 x r, let q := c.statusReply s0 f.d x
    s.req? q.id = some q → s.raft? c.r.id = some r → s.away c.r.id = false → Kind.of f.d = .scl → c.lanes ≠ [] → c.r.width ≤ 64 →
    ∃ u y, exec (.loadReply q.id) s = .next u ∧ u.reqs = s.reqs.filter (fun z => z.id != q.id) ∧ u.tile = s.tile ∧ u.pmem = s.pmem ∧
      u.lines = s.lines ∧ u.raft? c.r.id = some y ∧ y.sreg (f.d.toNat - 384) = x ∧ y.v = r.v ∧ y.p = r.p)

/-- R237, R250, R251, R259: WVIEW with a sound descriptor whose input lies inside the allocation, and for which the engine's input
queue has room, captures its eight words in the view slot that it names, and no other; another descriptor traps (that the detail of
these precise traps has STEP 0xFFFF is log entry 35).
R17, R237, R241 to R243, R246, R248, R249, R254, R256: a matrix instruction that passes its checks, and for which its queue and
the range-lock tables have room, is accepted: one operation is in flight with the descriptor, home, operands and ranges that the
instruction names, and its raft goes on. -/
def Obligations.ViewsAndMatrixOperations : Prop :=
  (∀ (s : State) (c : Ctx) (f : AF), Issues s c (.wview f) →
  let v := c.swords f.a 8
  (viewOk v = true → vw v 0 20 0 + viewBytes v ≤ c.t.tileBytes → c.r.landed = none → s.roomFor (c.newOp s (.wview f) 0) 16 = true →
    ∃ t q, exec (.wview f) s = .next t ∧ onlyRaft s t c.r.id ∧ t.raft? c.r.id = some q ∧
      Unwritten { c with r := { c.r with views := q.views } } (.wview f) q ∧
      (field f.imm.toNat 0 0 < c.r.views.length → q.views[field f.imm.toNat 0 0]? = some (some ⟨v⟩)) ∧
      ∀ k, k ≠ field f.imm.toNat 0 0 → q.views[k]? = c.r.views[k]?) ∧
  (viewOk v = false → exec (.wview f) s = .next (s.trapAt c 28 c.active 0 0 (c.engineDetail 28 (mplace noStep 0) 0))) ∧
  (viewOk v = true → c.t.tileBytes < vw v 0 20 0 + viewBytes v →
    exec (.wview f) s = .next (s.trapAt c 6 c.active (vw v 0 20 0) 0 (c.engineDetail 6 (mplace noStep 0) (vw v 0 20 0))))) ∧
  (∀ (s : State) (c : Ctx) (f : AF),
  (Issues s c (.macc f) →
    let virt := f.fn.getLsbD 0
    let base := if virt then (c.sval64 f.b).toNat else (c.sval f.b).toNat
    let home := c.homePlace s base virt
    let o := c.tagged s { c.newOp s (.macc f) 0 with anchor := (c.sval f.c).toInt, places := [home], ranges := [c.homeRange home] }
    (-1024 : Int) ≤ (c.sval f.c).toInt → (c.sval f.c).toInt ≤ 1023 → homeCause base c.t.tileBytes virt = none → virt = true ∨ c.r.landed = none →
    s.mayEnter o 16 = true → Leads s (s.withOp o []) c (.macc f)) ∧
  (Issues s c (.mloop f) →
    let s0 := s.stepStreams c.r.id (c.streamsRead (.mloop f))
    let d := c.swords f.a 8
    let o := c.tagged s0 (c.mloopOp s0 f d)
    (∀ x ∈ c.mloopChecks s0 d, x.1 = false) → worst (s0.pendingOn c.r.id ((c.mloopRegs d).map (·.1))) = .free → c.mloopOthers s0 d = [] →
    s.mayEnter o 16 = true → Leads s (s.withOp o []) c (.mloop f)) ∧
  (∀ s1 b, Issues s c (.mdrain f) →
    let d := c.swords f.a 8
    let r := Rec.parse b
    let o := c.tagged s1 (c.mdrainOp s1 f d r)
    mdDescOk d = true → vw d 2 23 16 < c.t.kernel.brecCount → Rec.sound true b = true →
    (s.stepStreams c.r.id (c.streamsRead (.mdrain f))).recordBytes c.t c.r.here (vw d 2 23 16) = (s1, .ok, b) →
    (∀ x ∈ c.mdrainChecks s1 f d r, x.1 = false) → s1.mayEnter o 16 = true →
    ∃ t q, exec (.mdrain f) s = .next t ∧ t = { (s1.withOp o []) with rafts := t.rafts, running := t.running } ∧
      (∀ id, id ≠ c.r.id → t.raft? id = s.raft? id) ∧ t.raft? c.r.id = some q ∧
      Unwritten { c with r := { c.r with drain := q.drain } } (.mdrain f) q ∧
      q.drain = c.r.drain + (if field f.fn.toNat 2 0 = 4 then 1 else 0)) ∧
  (Issues s c (.mscale f) →
    let o := c.tagged s (c.mscaleOp s f)
    (f.fn.getLsbD 0 = true → c.renameOk (c.scaleOpd f) = true ∧ (c.reg f.b).toNat + 128 / c.r.width ≤ c.r.count ∧
      s.interlock c [c.scaleOpd f] = .free) →
    (∀ x ∈ c.mscaleChecks s f, x.1 = false) → s.mayEnter o 16 = true → Leads s (s.withOp o []) c (.mscale f)) ∧
  (Issues s c (.mstat f) →
    let virt := f.fn.getLsbD 0
    let base := if virt then (c.sval64 f.b).toNat else (c.sval f.b).toNat
    let home := c.homePlace s base virt
    let o := c.tagged s { c.newOp s (.mstat f) 0 with dest := some ⟨f.d, 1, c.active, true, 384⟩, places := [home], ranges := [c.statusRange home] }
    homeCause base c.t.tileBytes virt = none → virt = true ∨ c.r.landed = none →
    s.mayEnter o 16 = true → Leads s (s.withOp o []) c (.mstat f)) ∧
  (Issues s c (.wpool f) →
    let d := c.swords f.a 8
    let o := c.tagged s (c.wpoolOp s f d)
    (∀ x ∈ c.wpoolChecks s d, x.1 = false) → s.mayEnter o 16 = true → Leads s (s.withOp o []) c (.wpool f)))

/-- R209, R210, R213, R215 to R217: a ferry whose records are read and which passes its checks is accepted: one operation is in
flight for all its elements, and the lines of its own tile memory that it writes have become empty; so is an FQUEUE with a sound
descriptor, where nothing that its release covers has stopped (R93, R218; that its ranges are the header and the whole ring is log
entry 88). Without room, or with a counter at its most, the slot waits. -/
def Obligations.FerriesIssue : Prop := ∀ (s : State) (c : Ctx) (f : AF),
  let d := c.swords f.a 8
  (∀ i ∈ [Instr.fcopy f, .fgather f, .fscatter f, .ffill f], ∀ s1 src dst idx, Issues s c i → ferryDescOk i d = true →
    (∀ k, c.ferryRecs (s.stepStreams c.r.id (c.streamsRead i)) i d k = k s1 src dst idx) →
    let o := c.tagged s1 (c.ferryOp s1 i f d src dst idx)
    (∀ x ∈ c.ferryChecks s1 i f d src dst idx, x.1 = false) → s1.interlock c (fillOpds i f dst) = .free →
    (s1.mayEnter o 256 = false → WaitsFrom s s1 c i .slot) ∧
    (s1.mayEnter o 256 = true → ∃ t q, exec i s = .next t ∧
      t = { s1.withOp o (c.ferryFills s1 i d src dst) with rafts := t.rafts, running := t.running } ∧
      (∀ id, id ≠ c.r.id → t.raft? id = s.raft? id) ∧ t.raft? c.r.id = some q ∧ sameRaft c.r q ∧ q.v = c.r.v ∧ q.p = c.r.p ∧
      ∀ k, (∀ j ∈ c.streamsRead i ++ c.streamsMore i (fillOpds i f dst), k ≠ 60 + j) → q.sreg k = c.r.sreg k)) ∧
  (Issues s c (.fqueue f) → fqueueDescOk d = true → worst (s.releaseWork c.r.id f.imm) = .free ∨ worst (s.releaseWork c.r.id f.imm) = .wait →
    let o := c.tagged s { c.newOp s (.fqueue f) 1 with
      desc := d, dest := some ⟨f.d, 1, c.active, true, 384⟩, amount := 1, ranges := s.fqueueRanges c.t.asid c.r.here d }
    (s.mayEnter o 256 = true → Leads s (s.withOp o []) c (.fqueue f)) ∧
    (s.mayEnter o 256 = false → Waits s c (.fqueue f) .slot))

/-- R209, R243, R246, R256, R280: of the checks of an engine instruction, in their order, the first that fails is the cause of a
precise trap, with the address that it names and the engine's detail (R227, R259, R371). Which layout such a check carries, its
chunk 0, ELEM 0 and STEP 0xFFFF, and ILLOP's keeping of R372's layout are log entry 35. -/
def Obligations.EngineChecksTrap : Prop := ∀ (s : State) (c : Ctx) (f : AF) (cause addr : Nat) (place : Nat × Nat),
  let d := c.swords f.a 8
  let s0 (i : Instr) := s.stepStreams c.r.id (c.streamsRead i)
  (Issues s c (.mloop f) → (c.mloopChecks (s0 (.mloop f)) d).find? (·.1) = some (true, cause, addr, place) →
    exec (.mloop f) s = .next (s.trapAt c cause c.active addr 0 (c.engineDetail cause place addr))) ∧
  (Issues s c (.wpool f) → (c.wpoolChecks s d).find? (·.1) = some (true, cause, addr, place) →
    exec (.wpool f) s = .next (s.trapAt c cause c.active addr 0 (c.engineDetail cause place addr))) ∧
  (∀ s1 b, Issues s c (.mdrain f) → mdDescOk d = true → vw d 2 23 16 < c.t.kernel.brecCount → Rec.sound true b = true →
    (s0 (.mdrain f)).recordBytes c.t c.r.here (vw d 2 23 16) = (s1, .ok, b) →
    (c.mdrainChecks s1 f d (Rec.parse b)).find? (·.1) = some (true, cause, addr, place) →
    exec (.mdrain f) s = .next (({ s1 with rafts := s.rafts } : State).trapAt c cause c.active addr 0 (c.engineDetail cause place addr))) ∧
  (∀ i ∈ [Instr.fcopy f, .fgather f, .fscatter f, .ffill f], ∀ s1 src dst idx, Issues s c i → ferryDescOk i d = true →
    (∀ k, c.ferryRecs (s0 i) i d k = k s1 src dst idx) → (c.ferryChecks s1 i f d src dst idx).find? (·.1) = some (true, cause, addr, place) →
    exec i s = .next (({ s1 with rafts := s.rafts } : State).trapAt c cause c.active addr 0 (c.engineDetail cause place addr))) ∧
  (∀ i ∈ [Instr.fcopy f, .fgather f, .fscatter f, .ffill f], Issues s c i → ferryDescOk i d = false →
    exec i s = .next (s.trapAt c 26 c.active 0 0 (c.engineDetail 26 (0, 0) 0))) ∧
  (Issues s c (.fqueue f) → fqueueDescOk d = false →
    exec (.fqueue f) s = .next (s.trapAt c 26 c.active 0 0 (c.engineDetail 26 (0, 3) 0))) ∧
  (Issues s c (.lathe f) → latheCheck f d (if latheOp f = 3 then c.sval f.b else 0) = some (cause, addr) →
    Traps s c (.lathe f) cause c.active addr 0)

/-- R280, R281: LATHE that passes its checks is accepted: one operation for its elements, which reads SRC and writes DST. -/
def Obligations.LatheIssues : Prop := ∀ (s : State) (c : Ctx) (f : AF), Issues s c (.lathe f) →
  let d := c.swords f.a 8
  let alpha := if latheOp f = 3 then c.sval f.b else 0
  let o := c.tagged s { c.newOp s (.lathe f) 3 with
    desc := d, ext := [alpha], amount := latheLen d / latheSize f
    ranges := [⟨.virt c.t.asid, latheSrc d, latheLen d, false, some c.r.here⟩, ⟨.virt c.t.asid, latheDst d, latheLen d, true, some c.r.here⟩] }
  latheCheck f d alpha = none →
  (s.mayEnter o 1024 = true → Leads s (s.withOp o []) c (.lathe f)) ∧ (s.mayEnter o 1024 = false → Waits s c (.lathe f) .slot)

/-- R305 to R309, R311, R313, R315, R321, R322, R325: a render instruction that passes its checks is accepted: one operation is in
flight; a TILEDONE's team holds its grant no more, a VIS's planes have become empty, and a BLEND has submitted the fragments that
its lanes name. -/
def Obligations.RenderOperationsIssue : Prop := ∀ (s : State) (c : Ctx) (f : AF) (g : Grant) (core base : Nat),
  let room (o : Op) : Prop := s.mayEnter o (2 ^ 32) = true
  (Issues s c (.emit f) →
    let d := c.swords f.a 8
    let n := emitCount d
    let o : Op := { c.newOp s (.emit f) 2 with
      desc := d, amount := n, tags := 0xFF, dest := if Kind.of f.d = .scl then some ⟨f.d, 1, c.active, true, 384⟩ else none }
    (∀ w ∈ d.drop 5, w = 0) → emitPrims d % 128 = 0 → n ≤ 65536 → canonical (passVa d) = true → canonical (emitPrims d) = true →
    n = 0 ∨ canonical (emitPrims d + 128 * n - 1) = true → passVa d % 128 = 0 → room o → Leads s (s.withOp o []) c (.emit f)) ∧
  (Issues s c (.tileget f) →
    let d := c.swords f.a 2
    let o : Op := { c.newOp s (.tileget f) 2 with desc := d, tags := 1, dest := some ⟨f.d, 2, c.active, true, 384⟩ }
    let pending := s.ops.filter (fun x => x.team == some c.t.id && (match x.instr with | .tileget _ => true | _ => false))
    passCheck (passVa d) = none → (s.grants.filter (fun g => g.team == c.t.id && !g.retiring)).length + pending.length < 2 →
    room o → Leads s (s.withOp o []) c (.tileget f)) ∧
  (Issues s c (.tiledone f) →
    let d := c.swords f.a 3
    let o : Op := { c.newOp s (.tiledone f) 2 with desc := d, amount := g.id, tags := 1 }
    passCheck (passVa d) = none → s.grantOf c.t (passVa d) (d.getD 2 0) = some g →
    worst (s.releaseWork c.r.id 0xFF) = .free ∨ worst (s.releaseWork c.r.id 0xFF) = .wait → room o →
    Leads s { (s.withOp o []) with grants := s.grants.map (fun x => if x.id = g.id then { x with retiring := true } else x) } c (.tiledone f)) ∧
  (Issues s c (.vis f) →
    let d := c.swords f.a 8
    let o := c.tagged s (c.visOp s f d g core base)
    visDescOk d = true → passCheck (passVa d) = none → s.grantOf c.t (passVa d) (d.getD 2 0) = some g →
    (∀ x ∈ visRanges d, x.1 + x.2 ≤ c.t.tileBytes) → visClash d = false → c.r.landed = none → s.ownTile c.t c.r = some (core, base) →
    room o → Leads s (s.withOp o (visFills d core base)) c (.vis f)) ∧
  (Issues s c (.blend f) →
    let d := c.swords f.a 8
    let held := c.blendHeld s f g
    let o := c.tagged s (c.blendOp s f d g core base)
    (∀ w ∈ d.drop 4, w = 0) → field (d.getD 3 0).toNat 27 21 = 0 → blendPlane d % 128 = 0 → passCheck (passVa d) = none →
    s.grantOf c.t (passVa d) (d.getD 2 0) = some g → blendPlane d + 16384 * blendSpp d ≤ c.t.tileBytes → c.r.landed = none →
    s.ownTile c.t c.r = some (core, base) → (∀ l ∈ c.lanes, c.blendBad s f (blendSpp d) g l = false) →
    (s.frags.filter (fun x => x.held && x.core == core)).length + held.length ≤ 4096 → room o →
    Leads s { (s.withOp o []) with frags := c.blendTake s f g held s.frags } c (.blend f)) ∧
  (Issues s c (.trace f) →
    let d := c.swords f.a 2
    let vals := c.lanes.flatMap (fun l => (List.range 8).map (fun k => (64 * k + l, BitVec.ofNat 32 (c.src s (f.b + BitVec.ofNat 9 k) 0 0 l))))
    let o : Op := { c.newOp s (.trace f) 2 with
      desc := d, vals := vals.foldl (fun m x => sset m x.1 x.2) [], tags := 0xFF, dest := some ⟨c.reg f.d, 5, c.active, false, 384⟩ }
    passVa d % 128 = 0 → canonical (passVa d) = true → room o → Leads s (s.withOp o []) c (.trace f))

/-- R49, R51, R105, R121, R139, R140: CLAUSE_FETCH brings a sub-raft's clause in, or takes the trap of a clause that breaks R48 to
R50; CLAUSE_START takes up the ready sub-raft that has waited longest; YIELD_EXPIRY ends a wait whose time is over; QUOTA_GRANT
grants an increase that the pool holds; RAFT_FREE gives back an exited raft without outstanding work, and the last one ends its
team. -/
def Obligations.SubRaftEvents : Prop := ∀ (s : State) (rid e : Nat) (r : Raft) (t : Team), s.raft? rid = some r → s.team? r.team = some t →
  (∀ en s1 cl, r.entry? e = some en → en.clause = none → en.wait = .none → r.halted = false → r.migrating = false → r.stopping = none →
    t.stowed = none → s.fetchClause t.asid en.pc = (s1, .clause cl) →
    (cl.ok = true → ∃ u, exec (.clauseFetch rid e) s = .next u ∧ u = { s1 with rafts := u.rafts } ∧
      u.raft? rid = some (r.setEntry e (some { en with clause := some cl, since := s.clock })) ∧ ∀ id, id ≠ rid → u.raft? id = s.raft? id) ∧
    (cl.ok = false → exec (.clauseFetch rid e) s = .next (s1.trapHeader r e en 2 0 cl.hdr))) ∧
  (∀ core quad, (∀ x ∈ s.running, ∀ y, s.raft? x.1 = some y → y.here ≠ core ∨ y.quad ≠ quad) → s.startable core quad ≠ [] →
    (∀ x ∈ s.startable core quad, s.startBlock x.1 x.2.2 = .free ∧ ∀ y, s.team? x.1.team = some y → s.breakHit y x.2.2 = none) →
    ∃ x ∈ s.startable core quad, (∀ y ∈ s.startable core quad, x.2.2.since ≤ y.2.2.since) ∧
      ∃ u, exec (.clauseStart core quad) s = .next u ∧ u.running = (x.1.id, x.2.1) :: s.running ∧
        u = { s with running := u.running, rafts := u.rafts, teams := u.teams }) ∧
  (∀ en n since, r.entry? e = some en → en.wait = .yield n since → n ≤ s.elapsed r.here since → r.hears = true → t.stowed = none →
    ∃ u, exec (.yieldExpiry rid e) s = .next u ∧ onlyRaft s u rid ∧
      u.raft? rid = some (r.setEntry e (some { en with wait := .none, since := s.clock }))) ∧
  (∀ en n since, r.entry? e = some en → en.wait = .quota n since → r.halted = false → r.stopping = none → t.stowed = none →
    r.landed = none → r.count ≤ n → n - r.count ≤ s.poolFree t r →
    (∀ x ∈ s.poolRafts r, ∀ y ∈ x.subs, ∀ m t0, y.2.wait = .quota m t0 → since < t0 ∨ since = t0 ∧ r.id ≤ x.id) →
    ∃ u q, exec (.quotaGrant rid e) s = .next u ∧ onlyRaft s u rid ∧ u.raft? rid = some q ∧ q.count = n ∧ q.v = r.v ∧
      (∀ k, k < 60 → q.sreg k = r.sreg k) ∧ q.p = r.p) ∧
  (∀ x, t.dying = none → r.exitAt = some x → r.halted = false → r.stopping = none → t.stowed = none →
    (∀ q ∈ s.reqs, q.raft ≠ rid) → (∀ o ∈ s.ops, o.raft ≠ some rid) →
    ((∃ y ∈ s.rafts, y.id ≠ rid ∧ y.team = t.id) → exec (.raftFree rid) s =
      .next { s with rafts := s.rafts.filter (fun y => y.id != rid), leases := s.leases.filter (fun l => l.raft != rid) }) ∧
    ((∀ y ∈ s.rafts, y.team = t.id → y.id = rid) → t.group = none → ∃ u, exec (.raftFree rid) s = .next u ∧
      u.rafts = s.rafts.filter (fun y => y.id != rid) ∧ u.teams = s.teams.filter (fun y => y.id != t.id) ∧
      u.launches = s.launches.map (fun l => if l.id = t.launch then { l with ended := l.ended + 1 } else l)))

/-- R129, R130: an arrival at a barrier is one too many where EXPECTED have arrived; else it counts, adds its bytes, and where it is
the last with no bytes left completes the phase: ARRIVED and WAITERS return to 0, GEN goes up by one, and the waiting cores
are told. Credits take bytes away.
R130 to R132: BARRIER_ARRIVE performs an arrival at its object's home and answers it, or traps at one too many; BARRIER_CREDIT
takes a ferry's bytes away; a WAKE_NOTICE lets a waiting sub-raft that finds GEN changed go on; a WRITE_NOTICE, or 4,096
cycles, make a WAITMEM read its word again. -/
def Obligations.BarriersAndWaitsEnd : Prop :=
  (∀ (x : Barrier) (n : Nat),
  (x.expected ≤ x.arrived → x.arrive n = none) ∧
  (x.arrived < x.expected → x.arrived + 1 = x.expected ∧ (x.tx + n) % 2 ^ 64 = 0 →
    x.arrive n = some (⟨0, x.expected, 0, x.gen + 1, 0⟩, (List.range 256).filter (fun c => x.waiters.testBit c), x.gen)) ∧
  (x.arrived < x.expected → ¬(x.arrived + 1 = x.expected ∧ (x.tx + n) % 2 ^ 64 = 0) →
    x.arrive n = some (⟨x.arrived + 1, x.expected, (x.tx + n) % 2 ^ 64, x.gen, x.waiters⟩, [], x.gen)) ∧
  (x.expected ≠ 0 → x.arrived = x.expected → x.tx = n % 2 ^ 64 →
    x.credit n = (⟨0, x.expected, 0, x.gen + 1, 0⟩, (List.range 256).filter (fun c => x.waiters.testBit c)))) ∧
  (∀ (s s1 : State) (bytes : List Byte),
  (∀ q txb l asid va n o nb d b told g r, s.req? q.id = some q → q.kind = .arrive txb none → q.parts = [⟨l, .virt asid, va, n, o, nb⟩] →
    q.replay = false → q.fault = none → q.dest = some d → s.readAt asid va 64 .write = (s1, .ok, bytes) →
    (Barrier.ofBytes bytes).arrive txb = some (b, told, g) → s.raft? q.raft = some r → r.stopping = none → s.away q.raft = false →
    Kind.of d.first = .scl → lanesOf 64 d.lanes ≠ [] →
    ∃ u y, exec (.barrierArrive q.id) s = .next u ∧ u.reqs = s.reqs.filter (fun x => x.id != q.id) ∧ u.tile = s.tile ∧
      u.pmem = (s1.writeAt asid va (b.into bytes) true).1.pmem ∧ u.lines = (s1.writeAt asid va (b.into bytes) true).1.lines ∧
      u.raft? q.raft = some y ∧ y.sreg (d.first.toNat - 384) = g ∧ y.v = r.v ∧ y.p = r.p) ∧
  (∀ q txb e l asid va n o nb, s.req? q.id = some q → q.kind = .arrive txb (some e) → q.parts = [⟨l, .virt asid, va, n, o, nb⟩] →
    q.replay = false → q.fault = none → s.readAt asid va 64 .write = (s1, .ok, bytes) → (Barrier.ofBytes bytes).arrive txb = none →
    exec (.barrierArrive q.id) s = .next (((s1.dropReq q.id).mapEntry q.raft e (fun en => { en with wait := .none })).takeTrap q.raft
      (some e) ⟨21, 0, q.pc, q.slot, q.lanes, detailOf q.pc 0 q.slot (opOf q.instr).toNat va q.instr⟩)) ∧
  (∀ q txb e l asid va n o nb b told g r en, s.req? q.id = some q → q.kind = .arrive txb (some e) → q.parts = [⟨l, .virt asid, va, n, o, nb⟩] →
    q.replay = false → q.fault = none → s.readAt asid va 64 .write = (s1, .ok, bytes) → (Barrier.ofBytes bytes).arrive txb = some (b, told, g) →
    b.gen = g → s.raft? q.raft = some r → r.stopping = none → r.entry? e = some en →
    let set : Barrier := { b with waiters := Nat.lor b.waiters (2 ^ (q.core % 256)) }
    ∃ u y, exec (.barrierArrive q.id) s = .next u ∧ u.reqs = s.reqs.filter (fun x => x.id != q.id) ∧ u.tile = s.tile ∧
      u.pmem = (s1.writeAt asid va (set.into bytes) true).1.pmem ∧ u.lines = (s1.writeAt asid va (set.into bytes) true).1.lines ∧
      u.raft? q.raft = some y ∧ y.entry? e = some { en with wait := .barrier va (some g) } ∧ y.v = r.v ∧ y.s = r.s ∧ y.p = r.p) ∧
  (∀ c, s.credits.find? (fun x => x.id == c.id) = some c → s.readAt c.asid c.va 64 .write = (s1, .ok, bytes) →
    ∃ u, exec (.barrierCredit c.id) s = .next u ∧ u.credits = s.credits.filter (fun x => x.id != c.id) ∧ u.rafts = s.rafts ∧ u.tile = s.tile ∧
      u.pmem = (s1.writeAt c.asid c.va (((Barrier.ofBytes bytes).credit c.bytes).1.into bytes) true).1.pmem ∧
      u.lines = (s1.writeAt c.asid c.va (((Barrier.ofBytes bytes).credit c.bytes).1.into bytes) true).1.lines) ∧
  (∀ k core asid va, s.notices.find? (fun n => n.id == k) = some ⟨k, .wake core asid va⟩ →
    let done (u : State) : State := { u with notices := u.notices.filter (fun n => n.id != k) }
    ((∀ r ∈ s.rafts, s.waitsOn core asid va r = false) → exec (.wakeNotice k) s = .next (done s)) ∧
    (∀ r t e en g, s.rafts.filter (s.waitsOn core asid va) = [r] → r.hears = true → r.subs = [(e, en)] → en.wait = .barrier va (some g) →
      s.raft? r.id = some r → s.team? r.team = some t → s.readAt asid (va + 16) 4 .read = (s1, .ok, bytes) →
      let s2 := s1.dropRead r.here asid (va + 16) 4
      (BitVec.ofNat 32 (ofBytes bytes) = g → exec (.wakeNotice k) s = .next (done s2)) ∧
      (BitVec.ofNat 32 (ofBytes bytes) ≠ g →
        exec (.wakeNotice k) s = .next (done (s2.leaveBarrier r e asid (field en.slotWord.toNat 42 40)))))) ∧
  (∀ rid e r t en va n cond value scope since, s.raft? rid = some r → s.team? r.team = some t → r.entry? e = some en →
    en.wait = .mem va n cond value scope since → r.hears = true → t.stowed = none → s.waitmemBlock r t.asid va n = .free →
    s.held t.asid va = false →
    (4096 ≤ s.elapsed r.here since → s.readAt t.asid va n .read = (s1, .ok, bytes) →
      (waitCond cond (ofBytes bytes) value = true →
        exec (.waitmemRetry rid e) s = .next (((s1.dropRead r.here t.asid va n).acquireDrop r t.asid scope 0xFF).passWait rid e)) ∧
      (waitCond cond (ofBytes bytes) value = false → ∃ u q, exec (.waitmemRetry rid e) s = .next u ∧ u.raft? rid = some q ∧
        (q.entry? e).map (·.wait) = some (.mem va n cond value scope (s.cycles r.here)))) ∧
    (∀ k, s.notices.find? (fun n => n.id == k) = some ⟨k, .fired (.wait rid e)⟩ →
      ({ s with notices := s.notices.filter (fun n => n.id != k) } : State).readAt t.asid va n .read = (s1, .ok, bytes) →
      waitCond cond (ofBytes bytes) value = true →
      exec (.writeNotice k) s = .next (((s1.dropRead r.here t.asid va n).acquireDrop r t.asid scope 0xFF).passWait rid e))))

/-- R79, R85, R93, R144, R187, R193, R194, R197 to R199, R204, R205: a reported request is performed line by line: a load that is
whole, plain or by a record, writes D from the bytes of its line, a uniform one the value of its lowest lane, and one that acquires
drops the L1 lines that it names; a store, an atomic or an RROT leaves its lane's bytes in tile memory or in the line at its home,
an atomic writes the bytes that it found to D, and SETFE sets or clears its line's bit (a store to a line that L1 holds may first
show there, R81); a store of the control die's software is made at its homes. (That team scope is cluster scope for a team with a
landed raft is log entry 107.) -/
def Obligations.AccessesArePerformed : Prop := ∀ (s : State) (q : Req) (sp : Space) (line : Nat),
  s.req? q.id = some q → q.replay = false → q.fault = none → q.checked = true → s.away q.raft = false →
  (∀ p ∈ q.parts, p.space = sp ∧ p.addr / 128 = line ∧ p.addr % 128 + p.len ≤ 128) → q.parts ≠ [] →
  let s0 := s.draw.2
  let give (data : List Byte) := q.parts.foldl (fun d p => p.give q.data d) data
  let writes (got : Sparse 8) (u : State) : Prop := ∀ r d, s.raft? q.raft = some r → q.dest = some d → lanesOf 64 d.lanes ≠ [] →
    let val (l : Nat) := ({ q with got := got } : Req).result (if d.uniform then (lanesOf 64 q.lanes).headD 0 else l)
    let once := val ((lanesOf 64 d.lanes).headD 0)
    ∃ y, u.raft? q.raft = some y ∧ y.p = r.p ∧
      (Kind.of d.first = .vec → (∀ l ∈ lanesOf 64 d.lanes, d.first.toNat + (val l).length ≤ min 384 (min r.count d.cap)) →
        y.s = r.s ∧ ∀ l ∈ lanesOf 64 d.lanes, ∀ j x, (val l)[j]? = some x → y.vreg (d.first.toNat + j) l = x) ∧
      (Kind.of d.first = .scl → d.first.toNat + once.length ≤ 448 →
        y.v = r.v ∧ ∀ j x, once[j]? = some x → y.sreg (d.first.toNat - 384 + j) = x)
  let drops (x : State) (l1 : List L1Line) : Prop := ∀ r t, s.raft? q.raft = some r → s.team? r.team = some t →
    l1 = (if q.acq = true ∧ 2 ≤ s.scopeOf t.id q.scope then (x.dropNamed r.here t.asid q.binds q.mask).l1 else x.l1)
  let gone (u : State) : Prop := u.reqs = s.reqs.filter (fun x => x.id != q.id)
  (s.readyLines q = [(sp, line)] →
    (∀ s1 data, (∃ n sg, q.kind = .load n sg) ∨ (∃ rec rc sat, q.kind = .loadRec rec rc sat) → s0.lineForLoad q sp line = (s1, .ok, data) →
      ∃ u, exec (.loadReply q.id) s = .next u ∧ gone u ∧ u.tile = s1.tile ∧ u.pmem = s1.pmem ∧ u.lines = s1.lines ∧ drops s1 u.l1 ∧
        writes (q.parts.foldl (fun g p => p.take data g) q.got) u) ∧
    (∀ core, q.kind = .store → q.acq = false → sp = .tile core → core < 256 → 128 * line + 128 ≤ 2 ^ 32 → q.dest = none →
      ∃ u, exec (.storePerform (.raft q.id)) s = .next u ∧ gone u ∧
        u.tileGet core (128 * line) 128 = give (s.tileGet core (128 * line) 128) ∧ u.pmem = s.pmem ∧ u.empty = s.empty ∧ onlyAges s u ∧
        ∀ k a, k < 256 → a < 2 ^ 32 → k ≠ core ∨ a < 128 * line ∨ 128 * line + 128 ≤ a → u.tileGet k a 1 = s.tileGet k a 1) ∧
    (∀ asid s1 l, q.kind = .store → q.acq = false → sp = .virt asid → q.dest = none → s.mayShow q = false →
      s0.ensure asid (128 * line) .write = (s1, .ok) → s1.l2At asid (128 * line) = some l → l.data.length = 128 →
      ∃ u, exec (.storePerform (.raft q.id)) s = .next u ∧ gone u ∧
        u.homeGet asid (128 * line) 128 = give l.data ∧ u.tile = s.tile ∧ onlyAges s u) ∧
    (∀ core full, q.kind = .setfe full → q.acq = false → sp = .tile core → core < 256 → q.dest = none →
      ∃ u, exec (.storePerform (.raft q.id)) s = .next u ∧ gone u ∧ u.isEmpty core line = !full ∧
        u.tile = s.tile ∧ u.pmem = s.pmem ∧ onlyAges s u ∧
        ∀ k x, k < 256 → lineKey k x ≠ lineKey core line → u.isEmpty k x = s.isEmpty k x)) ∧
  (∀ p, (∃ fn, q.kind = .atom fn) ∨ (∃ n, q.kind = .cas n) → q.parts = [p] → s.partGoes q p = true →
    (∀ core, sp = .tile core → core < 256 → p.addr + p.len ≤ 2 ^ 32 →
      let old := s.tileGet core p.addr p.len
      (∀ new, q.swap p.lane old = some new → new.length = p.len) →
      ∃ u, exec (.atomicPerform q.id) s = .next u ∧ gone u ∧ u.pmem = s.pmem ∧ u.empty = s.empty ∧
        u.tileGet core p.addr p.len = (q.swap p.lane old).getD old ∧ drops s u.l1 ∧ writes (ssets q.got (64 * p.lane) old) u) ∧
    (∀ asid s1 l, sp = .virt asid → s.ensure asid p.addr .write = (s1, .ok) → s1.l2At asid p.addr = some l → l.data.length = 128 →
      let old := (l.data.drop (p.addr % 128)).take p.len
      (∀ new, q.swap p.lane old = some new → new.length = p.len) →
      ∃ u, exec (.atomicPerform q.id) s = .next u ∧ gone u ∧ u.tile = s.tile ∧ u.empty = s.empty ∧
        u.homeGet asid (128 * line) 128 = overlay l.data (p.addr % 128) ((q.swap p.lane old).getD old) ∧
        drops (s1.setL1 q.core asid (va57 p.addr / 128) none) u.l1 ∧ writes (ssets q.got (64 * p.lane) old) u)) ∧
  (∀ p core, q.kind = .rrot → sp = .tile core → core < 256 → 128 * line + 128 ≤ 2 ^ 32 → q.parts.find? (s.rrotGoes q) = some p →
    q.dest = none → q.acq = false →
    ∃ u, exec (.rrotLineWrite q.id) s = .next u ∧ gone u ∧ u.isEmpty core line = false ∧
      u.tileGet core (128 * line) 128 = give (s.tileGet core (128 * line) 128) ∧ u.pmem = s.pmem ∧ onlyAges s u) ∧
  (∀ asid va bytes, canonical (BitVec.toNat (w := 64) va) = true →
    exec (.storePerform (.software asid va bytes)) s = .next (s.writeAt asid va.toNat bytes).1)

/-- R11, R21, R273, R284 to R290, R354: L2_FILL brings a line of a resident page into its bank from its frame. PAGE_WALK makes a
request for a page, behind those before it; one of the first 64 reads the tables; and then installs what it has found, or marks a page
that is not resident and sends its record to the fault ring, unless 4,096 marks stand there, where it waits (that a walk reads all its
levels at one event is log entry 106). FAULT_RING_POST writes the oldest record where the ring has room. -/
def Obligations.FillsWalksAndRecords : Prop := ∀ (s : State) (asid : Nat),
  (∀ line acc e s1, line < 2 ^ 50 → s.l2At asid (128 * line) = none → s.held asid (128 * line) = false → s.marked asid (128 * line) = false →
    s.tlbAt (s.homeOf asid (128 * line)) asid (128 * line) = some e → s.direct asid (128 * line) e = false → bit e.pte.toNat (accPerm acc) = true →
    s.setAD e 0x40 = some s1 →
    ∃ u, exec (.l2Fill asid line acc) s = .next u ∧ u.rafts = s.rafts ∧ u.tile = s.tile ∧
      ∃ k, u.l2At asid (128 * line) = some ⟨asid, line, s1.physGet (e.pa (128 * line)) 128, false, bit e.pte.toNat 4, bit e.pte.toNat 2,
        bit e.pte.toNat 3, false, true, k⟩) ∧
  (∀ (va : DWord) acc, canonical va.toNat = true → s.marked asid va.toNat = false → s.walkFor asid va.toNat = none →
    exec (.pageWalk asid va acc) s = .next { s with walks := s.walks ++ [⟨asid, va, acc, none⟩] }) ∧
  (∀ (va : DWord) acc w k, s.walkFor asid va.toNat = some w → s.walks[k]? = some w →
    (64 ≤ k → (∀ j, j < k → s.walks[j]? ≠ some w) → exec (.pageWalk asid va acc) s = .next s) ∧
    (k < 64 → s.marked asid va.toNat = false → w.found = none → exec (.pageWalk asid va acc) s =
      .next { s with walks := s.walks.map (fun x => if x = w then { w with found := some (s.walk asid w.va.toNat) } else x) })) ∧
  (∀ (va : DWord) acc w k, s.walkFor asid va.toNat = some w → s.walks[k]? = some w → k < 64 → w.va = va → w.acc = acc →
    s.marked asid va.toNat = false → s.posts = [] →
    let side := s.homeOf asid va.toNat
    let done : State := { s with walks := s.walks.filter (· != w), tlb := s.tlb.filter (fun e => !e.serves side asid va.toNat) }
    (∀ base size pte at_, w.found = some (.page base size pte at_) → exec (.pageWalk asid va acc) s =
      .next (({ done with tlb := ⟨side, asid, base, size, pte, at_⟩ :: done.tlb } : State).trimTlb side)) ∧
    (∀ base size table, w.found = some (.absent base size table) →
      (s.marksFull side = true → exec (.pageWalk asid va acc) s = .next s) ∧
      (s.marksFull side = false → exec (.pageWalk asid va acc) s = .next (({ done with
        marks := ⟨side, asid, base, size⟩ :: s.marks
        ringWait := s.ringWait ++ [⟨base, if table then 3 else accRing acc, side, asid⟩] } : State).trimTlb side))) ∧
    (w.found = some .bad → exec (.pageWalk asid va acc) s = .next done)) ∧
  (∀ m rest, s.ringWait = m :: rest → s.exchanges = [] →
    let log2 := field s.csr.fqCtl.toNat 4 0
    (2 ^ log2 ≤ (s.csr.fqHead - s.csr.fqTail).toNat → exec .faultRingPost s = .next s) ∧
    ((s.csr.fqHead - s.csr.fqTail).toNat < 2 ^ log2 → m.va < 2 ^ 57 → m.asid < 2 ^ 16 → m.home < 2 ^ 4 → m.kind < 4 →
      ∃ u, exec .faultRingPost s = .next u ∧ u.ringWait = rest ∧ u.csr = { s.csr with fqHead := s.csr.fqHead + 1 } ∧ u.rafts = s.rafts ∧
        let at_ := s.csr.fqBase.toNat + s.csr.fqHead.toNat % 2 ^ log2 * 16
        (u.phys64 at_).toNat % 2 ^ 57 = m.va ∧ canonical (u.phys64 at_).toNat = true ∧
        u.phys64 (at_ + 8) = BitVec.ofNat 64 (m.asid + m.home * 2 ^ 16 + m.kind * 2 ^ 22)))

/-- R93, R141, R396: MOORED_READMIT performs a raft's replay list, or lets its suspended operations and moored sub-rafts go on, once
every page named is there; MIGRATE_LAND takes a migrating raft whose earlier work is made home, or has it give up its lease and
wait for a landing slot of the die, and take one in its turn. Neither changes a register, but for the walk of a stream that
MIGRATE reads (R135). -/
def Obligations.MooredAndMigratingRafts : Prop := ∀ (s : State) (rid : Nat) (r : Raft) (t : Team),
  s.raft? rid = some r → s.team? r.team = some t → t.stowed = none →
  (s.replayReady rid = true → (∃ q ∈ s.reqs, q.raft = rid ∧ q.replay = true) → exec (.mooredReadmit rid) s = .next (s.readmit rid t.asid)) ∧
  (s.replayReady rid = true → (∀ q ∈ s.reqs, q.raft = rid → q.replay = false) →
    ((∃ o ∈ s.ops, o.raft = some rid ∧ o.replay = true) ∨ ∃ x ∈ r.subs, x.2.wait.isMoored = true ∧ s.slotReady t.asid x.2.wait = true) →
    ∃ u q, exec (.mooredReadmit rid) s = .next u ∧ u = { s with ops := u.ops, rafts := u.rafts } ∧
      (∀ id, id ≠ rid → u.raft? id = s.raft? id) ∧ (∀ o ∈ u.ops, o.raft = some rid → o.replay = false) ∧
      u.raft? rid = some q ∧ q.v = r.v ∧ q.s = r.s ∧ q.p = r.p ∧
      ∀ e en, r.entry? e = some en → q.entry? e = some (if en.wait.isMoored = true ∧ s.slotReady t.asid en.wait = true then
        { (if r.halted then en else en.turnAge s.clock) with wait := s.waitAgain rid e en.wait } else en)) ∧
  (∀ e die ready, s.named → r.migration = some (e, die, ready) → r.halted = false → r.stopping = none → s.moveBlock r = .free →
    let lands (place : Option Nat) (leases : List Lease) : Prop :=
      ∃ u q, exec (.migrateLand rid) s = .next u ∧ u.raft? rid = some q ∧ q.landed = place ∧ q.core = r.core ∧ q.v = r.v ∧
        (∀ k, k < 60 → q.sreg k = r.sreg k) ∧ q.p = r.p ∧ q.live = r.live ∧ u.leases = leases ∧ u.pmem = s.pmem ∧ u.tile = s.tile ∧
        ∀ id, id ≠ rid → u.raft? id = s.raft? id
    (ready = none → die = r.core / 32 → lands none (s.leases.filter (fun l => l.raft != rid))) ∧
    (ready = none → die ≠ r.core / 32 → ∃ u q, exec (.migrateLand rid) s = .next u ∧ u.raft? rid = some q ∧
      u = { s with rafts := u.rafts, leases := s.leases.filter (fun l => l.raft != rid) } ∧ sameRaft r q ∧ q.v = r.v ∧ q.s = r.s ∧
      q.p = r.p ∧ (q.entry? e).map (·.wait) = some (.migrate die (some s.clock)) ∧ ∀ id, id ≠ rid → u.raft? id = s.raft? id) ∧
    (∀ since core, ready = some since → s.landsLater r die since = false → s.landingOn r die = some core → lands (some core) s.leases))

/-- R356, R357, R362: MOOR_LIMIT_EXPIRY and STOW_DELAY_EXPIRY stop every raft of the team's group for a stow, but those that are halted
already, where slots for all its cores are free beside those kept for the victims of pre-emption; else STOW_FAIL adds one and the team stays. STOW_RETRY tries again, once slots have been freed or 65,536
cycles have passed, while the trigger holds. -/
def Obligations.StowsBegin : Prop := ∀ (s : State) (t : Team), s.named → s.team? t.id = some t → t.stowing = none →
  s.quietGroup (s.groupOf t) = true → s.matrixSettled (s.groupOf t) = true →
  let g := s.groupOf t
  let begins (e : Instr) (reason : Nat) : Prop :=
    (s.freeSlots.length < (coresOf g).length + s.slotsKept g → exec e s =
      .next (({ s with csr := { s.csr with stowFail := s.csr.stowFail + 1 } } : State).setTeam { t with stowTry := some (reason, s.clock, s.cycles (t.cores.headD 0)) })) ∧
    ((coresOf g).length + s.slotsKept g ≤ s.freeSlots.length → ∃ u, exec e s = .next u ∧ u = { s with teams := u.teams, rafts := u.rafts } ∧
      (∀ x ∈ g, (u.team? x.id).map (·.stowing) = some (some reason)) ∧
      ∀ r ∈ s.rafts, ((∀ x ∈ g, r.team ≠ x.id) ∨ r.halted = true → u.raft? r.id = some r) ∧
        ((∃ x ∈ g, r.team = x.id) → r.halted = false → ∃ q, u.raft? r.id = some q ∧ q.stopping = some 6 ∧ q.v = r.v ∧ q.s = r.s ∧ q.p = r.p))
  (∀ r, s.raft? r.id = some r → r.team = t.id → t.stowTry = none → s.csr.moorLimit ≠ 0 → r.mooredAt.isSome = true →
    s.csr.moorLimit.toNat ≤ s.mooredFor r → begins (.moorLimitExpiry r.id) 1) ∧
  (t.stowTry = none → s.csr.stowDelay ≠ 0 → (∀ r ∈ s.raftsOf t.id, s.canIssue r = false) →
    (∃ r ∈ s.raftsOf t.id, r.mooredAt.isSome = true ∧ s.csr.stowDelay.toNat ≤ s.mooredFor r) → begins (.stowDelayExpiry t.id) 2) ∧
  (∀ reason since cycles, t.stowTry = some (reason, since, cycles) →
    (s.triggered t reason = false → exec (.stowRetry t.id) s = .next (s.setTeam { t with stowTry := none })) ∧
    (s.triggered t reason = true → (since < s.slotsFreed ∨ 65536 ≤ s.elapsed (t.cores.headD 0) cycles) → begins (.stowRetry t.id) reason))

/-- R20, R142, R359 to R363: a stow whose rafts stand still is made: the team takes the lowest free slots, its tile memory and its
name stand in them, and STOWS adds one. RESTORE loads a team whose replay lists are ready onto cores of its die, with its
registers and tile memory as they were, and RESTORES adds one. -/
def Obligations.StowAndRestore : Prop := ∀ (s : State) (t : Team), s.named → s.team? t.id = some t → t.group = none → t.dying = none →
  s.exchanges = [] →
  (∀ reason core base e, t.stowing = some reason → t.cores = [core] → t.bases = [base] → core < 256 → t.kernel.ring = false →
    (∀ r ∈ s.raftsOf t.id, r.halted = false ∧ s.still r = true) → s.matrixSettled [t] = true → s.slotsLack [t] = false →
    (reason = 1 ∧ (∃ r, s.raft? r.id = some r ∧ r.team = t.id ∧ e = .moorLimitExpiry r.id) ∨ reason = 2 ∧ e = .stowDelayExpiry t.id) →
    let k := s.freeSlots.headD 0
    ∃ u, exec e s = .next u ∧ u.csr = { s.csr with stows := s.csr.stows + 1 } ∧
      u.team? t.id = some { t with stowed := some ⟨[k], reason⟩, stowing := none, stowTry := none } ∧
      u.phys64 (u.slotAt k) = BitVec.ofNat 64 (t.linear % 2 ^ 32 * 2 ^ 32 + t.lnum.toNat) ∧
      (t.kernel.tmemLines ≤ 16384 → u.tileGet (256 + k) 0 (128 * t.kernel.tmemLines) = s.tileGet core (128 * base) (128 * t.kernel.tmemLines)) ∧
      ∀ r ∈ s.raftsOf t.id, ∃ q, u.raft? r.id = some q ∧ q.stopping = none ∧ q.landed = none ∧ q.v = r.v ∧ q.s = r.s ∧ q.p = r.p) ∧
  (∀ st place, t.stowed = some st → t.kernel.ring = false → s.down.contains ((t.cores.headD 0) / 32) = false →
    (∀ r ∈ s.raftsOf t.id, (∀ q ∈ s.reqs, q.raft ≠ r.id) ∧ (∀ o ∈ s.ops, o.raft ≠ some r.id) ∧ ∀ x ∈ r.subs, x.2.wait = .none) →
    leastByKeys (fun (p : List (Nat × Nat)) => s.placeKeys t.asid [] (fun _ => false) (p.map (·.1)))
      (s.placesFor t.kernel 1 [(t.cores.headD 0) / 32] (fun c => s.reservedElse 65536 0 c)) = some place →
    ∃ u, exec (.restore t.id) s = .next u ∧ u.csr = { s.csr with restores := s.csr.restores + 1 } ∧ u.slotsFreed = s.clock ∧
      u.team? t.id = some { t with cores := place.map (·.1), bases := place.map (·.2), stowed := none } ∧
      (∀ r ∈ s.raftsOf t.id, ∃ q, u.raft? r.id = some q ∧ q.v = r.v ∧ q.s = r.s ∧ q.p = r.p ∧ q.split = r.split ∧
        q.core = (place.map (·.1)).getD (if t.kernel.pair then r.index / 32 else 0) 0) ∧
      ∀ core base, place = [(core, base)] → core < 256 →
        u.tileGet core (128 * base) (128 * t.kernel.tmemLines) = s.tileGet (256 + st.slots.getD 0 0) 0 (128 * t.kernel.tmemLines))

/-- R97 to R103, R180, R350, R351: TEAM_DISPATCH starts the next team of a launch, or the next group of a ring set, where the
distributor places it: its rafts begin at ENTRY with full live masks, the arguments and the grid in s0 to s4 and zero in
every other register, and its tile memory holds zero and is full. SPATIAL_PREEMPTION strikes the victims of a packet. -/
def Obligations.TeamsStart : Prop := ∀ (s : State) (l : Launch) (place : List (Nat × Nat)), s.launch? l.id = some l →
  (s.servedBefore (s.launchPrio l) l.since = false → l.nextTeam < l.gx * l.gy * l.gz → s.choosePlace l = some place →
    (∀ x ∈ place, x.1 < 256 ∧ x.2 + l.kernel.tmemLines ≤ 2 ^ 24) →
    (l.kernel.ring = false → ∃ (u : State) (t : Team) (rs : List Raft), exec (.teamDispatch l.id) s = .next u ∧ u.teams = s.teams ++ [t] ∧ u.rafts = s.rafts ++ rs ∧
      u.launch? l.id = some { l with nextTeam := l.nextTeam + 1 } ∧ u.pmem = s.pmem ∧
      t.linear = l.nextTeam ∧ t.x + l.gx * (t.y + l.gy * t.z) = l.nextTeam ∧ t.x < l.gx ∧ t.y < l.gy ∧ t.cores = place.map (·.1) ∧
      t.bases = place.map (·.2) ∧ t.asid = l.asid ∧ t.lnum = l.lnum ∧ t.supv = l.kernel.supv ∧ t.breaks = [0, 0, 0, 0] ∧
      rs.length = l.kernel.rafts ∧
      (∀ (i : Nat) (r : Raft), rs[i]? = some r → r.team = t.id ∧ r.index = i ∧ r.count = l.kernel.vregs ∧ r.width = l.kernel.width ∧ r.live = fullMask r.width ∧
        r.subs = [(0, Entry.at l.kernel.entry r.live s.clock)] ∧ (∀ k j, r.vreg k j = 0) ∧ (∀ k, r.preg k = 0) ∧
        (∀ k, r.sreg k = ([l.args.setWidth 32, (l.args >>> 32).setWidth 32, BitVec.ofNat 32 l.gx, BitVec.ofNat 32 l.gy,
          BitVec.ofNat 32 l.gz] : List Word).getD k 0)) ∧
      (∀ x ∈ place, (∀ a, a < 128 * l.kernel.tmemLines → u.tileGet x.1 (128 * x.2 + a) 1 = [0]) ∧
        ∀ k, k < l.kernel.tmemLines → u.isEmpty x.1 (x.2 + k) = false) ∧
      ∀ core a, core < 256 → a < 2 ^ 32 → (∀ x ∈ place, core ≠ x.1 ∨ a < 128 * x.2 ∨ 128 * (x.2 + l.kernel.tmemLines) ≤ a) →
        u.tileGet core a 1 = s.tileGet core a 1) ∧
    (l.kernel.ring = true → place.length = l.groupSize → ∃ u, exec (.teamDispatch l.id) s = .next u ∧
      u.launch? l.id = some { l with nextTeam := l.nextTeam + l.groupSize } ∧ u.teams.length = s.teams.length + l.groupSize ∧
      ∀ i x, place[i]? = some x → ∃ t ∈ u.teams, t.linear = l.nextTeam + i ∧ t.cores = [x.1] ∧ t.bases = [x.2] ∧ t.group = some s.nextId)) ∧
  (∀ queue q p vs, s.queueWith queue (fun q => q.state == 2) = some q → s.nextPacket q.packets = some p → p.opc = 1 → p.vacate ≠ 0 →
    s.striking q p = false → s.choice q p = some vs → (∀ g ∈ vs, s.matrixSettled g = true) →
    ∃ u, exec (.spatialPreemption queue) s = .next u ∧
      u = { s with teams := u.teams, rafts := u.rafts, struck := u.struck, reserved := u.reserved } ∧
      ∀ g ∈ vs, ∀ x ∈ g, (u.team? x.id).map (·.stowing) = some (some 3) ∧ (queue, p.seq.toNat, x.id) ∈ u.struck)

/-- R39, R44, R236, R237, R241, R244, R249, R257: a matrix operation starts in its turn with the anchor of its home; MLOOP_STEP
adds one step's products to the working accumulator, element by element; FX64_MERGE adds a run of its elements to the
home's; MATRIX_COMPLETE does MACC's image, gives MSTAT's D the status, makes a loop's last status update and ends the
operation; MATRIX_RESUME lets a suspended one go on. That a loop's flags reach the home's status in one update, at its end, is log entry
34's reading. -/
def Obligations.MatrixEvents : Prop := ∀ (s : State) (o : Op) (core base : Nat), s.op? o.id = some o → o.cls = 0 → o.place 0 = (.tile core, base) →
  core < 256 → (∀ k l, s.emptyFor o.id k l = false) → (∀ y ∈ s.ops, y.id < o.id → y.fills = []) →
  let status := BitVec.ofNat 64 (ofBytes (s.tileGet core (base + 0x21000) 8))
  (∀ f, o.instr = .mloop f →
    (s.startTurn o = true → (s.accums o.core).length < 2 → (∀ x ∈ s.accums o.core, x.phase ≠ 1) →
      exec (.mloopStart o.id) s =
        .next (s.setOp { o with phase := 1, asked := s.clock, pos := 0, work := [], wtag := [], flags := 0, anchor := statusAnchor status })) ∧
    (o.phase = 1 → s.opGoes o = true → o.resv ≠ 0 → mlNext o.desc ≤ 128 →
      let last := o.pos + 1 = mlSteps o.desc
      let at_ : Nat := match (o.place 1).1 with | .tile k => k | .virt _ => o.core
      let steps := List.range (mlK o.desc o.pos)
      ∃ x, exec (.mloopStep o.id) s = .next (s.setOp x) ∧
        x = { o with work := x.work, wtag := x.wtag, flags := x.flags, locks := x.locks, pos := if last then 0 else o.pos + 1
                     phase := if last then 2 else 1, resv := (o.spend (if last then o.resv else 1) s.clock).resv
                     asked := (o.spend (if last then o.resv else 1) s.clock).asked } ∧
        ∀ m n, m < mlMext o.desc → n < mlNext o.desc →
          let r := dotRow o.anchor
            (steps.map (fun k => let e := o.aElem o.pos m k; if e = .omitted then none else some (s.melem at_ (mlAfmt o.desc) e)))
            (steps.map (fun k => s.melem at_ (mlBfmt o.desc) (o.bElem (s.opWidth o) o.pos n k)))
            (sget o.work (m * 128 + n), sget o.wtag (m * 128 + n), 0)
          sget x.work (m * 128 + n) = r.1 ∧ sget x.wtag (m * 128 + n) = r.2.1) ∧
    (o.phase = 2 → s.opGoes o = true → o.resv ≠ 0 → o.pos < 16384 → ∃ u n, exec (.fx64Merge o.id) s = .next u ∧ 1 ≤ n ∧ n ≤ o.resv ∧
      o.pos + n ≤ 16384 ∧ u.op? o.id = some { o.spend n s.clock with pos := o.pos + n } ∧ u.rafts = s.rafts ∧ u.pmem = s.pmem ∧
      ∀ e, e < 16384 → ∃ x t, s.elemRead o e .read = (s, .done, x, t) ∧ u.elemRead o e .read =
        if o.pos ≤ e ∧ e < o.pos + n then (u, .done, x + sget o.work e, t ||| sget o.wtag e) else (u, .done, x, t)) ∧
    (o.phase = 2 → s.opGoes o = true → 16384 ≤ o.pos → ∃ u, exec (.matrixComplete o.id) s = .next u ∧ u.op? o.id = none ∧
      u.tileGet core (base + 0x21000) 8 = toBytes 8 (statusOr status o.flags).toNat)) ∧
  (∀ f, o.instr = .macc f →
    (s.startTurn o = true → exec (.matrixComplete o.id) s = .next (s.setOp { o with phase := 1, asked := s.clock })) ∧
    (o.phase = 1 → s.opGoes o = true → o.resv ≠ 0 → o.pos < imageBytes / 8 → ∃ u n, exec (.matrixComplete o.id) s = .next u ∧
      1 ≤ n ∧ n ≤ o.resv ∧ u.op? o.id = some { o.spend n s.clock with pos := o.pos + n } ∧
      ∀ i, i < n → u.tileGet core (base + 8 * (o.pos + i)) 8 = toBytes 8 (if o.pos + i = 0x21000 / 8 then (statusOf o.anchor).toNat else 0)) ∧
    (o.phase = 1 → s.opGoes o = true → imageBytes / 8 ≤ o.pos → exec (.matrixComplete o.id) s = .next (s.finishOp o.id))) ∧
  (∀ f rid r d, o.instr = .mstat f → s.startTurn o = true → o.raft = some rid → s.raft? rid = some r → s.away rid = false → o.dest = some d →
    Kind.of d.first = .scl → lanesOf 64 d.lanes ≠ [] →
    ∃ u y, exec (.matrixComplete o.id) s = .next u ∧ u.op? o.id = none ∧ u.raft? rid = some y ∧
      y.sreg (d.first.toNat - 384) = status.setWidth 32 ∧ y.v = r.v ∧ y.p = r.p) ∧
  (∀ va, o.susp = some va → s.absent o.asid va = false → s.opStowed o = false → s.opDying o = false →
    exec (.matrixResume o.id) s = .next (s.setOp { o with susp := none, replay := false }))

/-- R130, R208, R216, R219, R222 to R224: a ferry writes its elements in order; the chunk whose last one is written is complete: its
credit goes to the barrier, and with the last chunk the ferry ends. FSCATTER_COMBINE makes one combine. R218: FQUEUE_RETRY
claims a slot again. R281, R282: LATHE_ELEMENT combines the elements of one destination line at their home, once their sources are read and the line
is ready (that the elements of one line are combined in one step is log entry 37's reading). R224, R282: FERRY_RESUME and LATHE_RESUME let a
suspended operation go on. -/
def Obligations.FerryAndLatheEvents : Prop := ∀ (s s1 s2 : State) (o : Op), s.op? o.id = some o →
  (isFerry o.instr = true → s.opGoes o = true →
    let k := o.pos * o.perChunk + o.phase
    let last := o.amount ≤ (o.pos + 1) * o.perChunk
    (o.chunkLen o.pos ≤ o.phase → (∀ rid, o.raft = some rid → s.away rid = false) → ∃ u, exec (.ferryChunkComplete o.id) s = .next u ∧ onlyAges s u ∧ u.tile = s.tile ∧
      ((∀ l ∈ o.fills, l.1 < 256) → u.pmem = s.pmem) ∧ (last → u.op? o.id = none) ∧
      (¬last → ∃ x, u.op? o.id = some x ∧ x = { o with pos := o.pos + 1, phase := 0, resv := 0, asked := s.clock, fills := x.fills, marked := x.marked }) ∧
      (∀ a b, o.ext = [a, b] → u.credits = s.credits ++ [⟨s.nextId, o.id, o.asid, a.toNat + 2 ^ 32 * b.toNat,
        if last then ceilDiv (o.chunkLen o.pos * Rec.bits (o.brec 1)) 8 else 4096⟩]) ∧
      ∀ key, (∀ l ∈ o.fills, key ≠ lineKey l.1 l.2) → sget u.empty key = sget s.empty key) ∧
    (combines o.instr = false → o.resv ≠ 0 → o.phase + 1 = o.chunkLen o.pos → isMx (o.brec 1).fmt = false → s.draw.2.ferryElem o k = (s1, .done) →
      exec (.ferryChunkComplete o.id) s =
        .next ((s1.setOp { o with phase := o.phase + 1 }).chunkDone { o with phase := o.phase + 1 })) ∧
    (combines o.instr = true → o.resv ≠ 0 → o.phase < o.chunkLen o.pos → isMx (o.brec 1).fmt = false →
      s.ferryElem (o.spend 1 s.clock) k = (s1, .done) →
      exec (.fscatterCombine o.id) s = .next (s1.setOp { o.spend 1 s.clock with phase := o.phase + 1 }))) ∧
  (∀ k core j, let di := (ferryIndex o.instr o.desc (o.brec 0) (o.brec 1) 0 k).2
    let sp := spotOf (o.place 1) (o.brec 1) j
    (o.brec 1).space ≠ 3 → strictOut (o.brec 1) di = false → settleIndex (o.brec 1) di false = some j → sp.space = .tile core → core < 256 →
    sp.nibble = none → (∀ y ∈ s.ops, y.id < o.id → y.fills = []) →
    (∀ f, o.instr = .ffill f → ∃ u, s.ferryElem o k = (u, .done) ∧ u = { s with tile := u.tile } ∧
      u.tileGet core sp.addr sp.len = toBytes sp.len (sget o.work 0).toNat) ∧
    (∀ f raw scale, o.instr = .fcopy f → s.ferryRead o 0 (ferryIndex o.instr o.desc (o.brec 0) (o.brec 1) 0 k).1 0 = (s, .done, raw, scale) →
      ∃ u, s.ferryElem o k = (u, .done) ∧ u = { s with tile := u.tile } ∧
        u.tileGet core sp.addr sp.len = toBytes sp.len (ferryConv (o.brec 0) (o.brec 1) o.rc o.sat raw scale))) ∧
  (∀ f q hdr i n, o.instr = .fqueue f → o.phase = 3 → o.fault = none → o.susp = none → o.peerOf = none →
    (s.notices.any (fun x => x.kind == .fired (.fqueue o.id)) = true ∨ 4096 ≤ s.elapsed o.core o.since) →
    let s0 : State := { s with notices := s.notices.filter (fun x => x.kind != .fired (.fqueue o.id)) }
    s0.queueAt o.asid o.qhdr = some q → s0.readAt o.asid o.qhdr 64 .write = (s1, .ok, hdr) → claimStep hdr = some (i, n) →
    exec (.fqueueRetry o.id) s = .next (((s1.writeAt o.asid o.qhdr (toBytes 8 (i + 1)) true).1.dropWritten o o.qhdr 64).setOp { o with
      phase := 1, work := sset (sset (sset [] 0 (BitVec.ofNat 64 q.ring)) 1 (BitVec.ofNat 64 q.log2)) 2 (BitVec.ofNat 64 i) })) ∧
  (∀ f m, o.instr = .lathe f → o.cls = 3 → s.opGoes o = true → o.resv ≠ 0 →
    let n := min o.resv (o.latheRest o.pos)
    let va := (o.latheAt o.pos).2
    State.latheReads o o.pos n s = (s1, .done, m, o.pos + n) → s1.ensure o.asid va .write = (s2, .ok) →
    let left := { o with pos := o.pos + n }.spend n s.clock
    let made := (State.latheElems o m o.pos n s2).setOp left
    (o.amount ≤ o.pos + n → exec (.latheElement o.id) s = .next (made.finishOp o.id)) ∧
    (o.pos + n < o.amount → exec (.latheElement o.id) s = .next made) ∧
    (∀ s3, s2.writeAt o.asid va (toBytes (latheSize f) (latheElem f (o.ext.headD 0).toNat (ofBytes (s2.homeGet o.asid va (latheSize f)))
        (ofBytes (sgets m (latheSize f * o.pos) (latheSize f))))) true = (s3, .ok) →
      State.latheElems o m o.pos 1 s2 = s3.dropWritten o va (latheSize f))) ∧
  (∀ va, o.susp = some va → s.opStowed o = false → s.opDying o = false → s.absent o.asid va = false →
    (o.cls = 1 → exec (.ferryResume o.id) s = .next (s.setOp { o with susp := none, replay := false })) ∧
    (o.cls = 3 → exec (.latheResume o.id) s = .next (s.setOp { o with susp := none, replay := false })))

/-- R298 to R303, R307 to R311: LIST_PROCESS takes an EMIT to its pass, lists its records and gives D the first sequence number;
SEGMENT_OPEN begins the next segment once every tile of the closed one is retired; TILE_GRANT gives a tile, or says that
none is left or that the pass has ended; TILE_RETIRE takes it back, and the last one of the final segment ends the pass. -/
def Obligations.PassesAndTiles : Prop := ∀ (s s1 : State),
  (∀ p, s.passes.find? (fun x => x.id == p.id) = some p → p.phase = 1 → p.avail = [] →
    s.passWrite p none 0x18 (toBytes 4 p.seq.toNat ++ toBytes 4 (p.seg + 1)) = (s1, .done) →
    exec (.segmentOpen p.id) s = .next (s1.setPass { p with phase := 0, seg := p.seg + 1, used := 0, prims := [] })) ∧
  ∀ (o : Op), s.op? o.id = some o → s.opGoes o = true →
  (∀ f, o.instr = .emit f →
    (∀ p, o.phase = 0 → (∀ x ∈ s.ops, isEmit x.instr = true → x.asid = o.asid → x.passVa = o.passVa → x.id = o.id ∨ x.fault.isSome = true) → s.pass? o.asid o.passVa = some p → p.phase ≠ 2 →
      s.passWrite p (some o) 0x18 (toBytes 4 (p.seq + BitVec.ofNat 32 o.amount).toNat ++ toBytes 4 p.seg) = (s1, .done) →
      exec (.listProcess o.id) s = .next ((s1.setPass { p with seq := p.seq + BitVec.ofNat 32 o.amount }).setOp
        { o with phase := 1, work := sset (sset [] 0 (BitVec.ofNat 64 p.seq.toNat)) 5 1 })) ∧
    (∀ p b, o.phase = 1 → o.pos + 1 = o.amount → s.pass? o.asid o.passVa = some p → p.phase = 0 →
      s.writtenAhead o (emitPrims o.desc + 128 * o.pos) 128 = false → s.draw.2.readAt o.asid (emitPrims o.desc + 128 * o.pos) 128 .read = (s1, .ok, b) → primOk b = true →
      let q : Prim := ⟨BitVec.ofNat 32 ((sget o.work 0).toNat + o.pos), b, primBox b p.tilesX p.tilesY⟩
      let bound := 96 + 16 * q.tileCount
      p.used + bound ≤ p.bytes - 32 * p.tilesX * p.tilesY →
      ∃ u x, exec (.listProcess o.id) s = .next u ∧ u.op? o.id = some x ∧ x = { o with pos := o.amount, phase := x.phase } ∧
        u.pass? o.asid o.passVa = some { p with used := p.used + bound, prims := p.prims ++ [q] }) ∧
    (∀ rid d r, 2 ≤ o.phase → f.fn.getLsbD 0 = false → sget o.work 1 = 0 → o.raft = some rid → o.dest = some d → Kind.of d.first = .scl →
      lanesOf 64 d.lanes ≠ [] → s.raft? rid = some r →
      ∃ u y, exec (.listProcess o.id) s = .next u ∧ u.op? o.id = none ∧ u.raft? rid = some y ∧
        y.sreg (d.first.toNat - 384) = (sget o.work 0).setWidth 32 ∧ y.v = r.v ∧ y.p = r.p)) ∧
  (∀ f t rid d r, o.instr = .tileget f → o.team = some t.id → s.team? t.id = some t → t.dying = none → t.ended = false → o.raft = some rid →
    o.dest = some d → Kind.of d.first = .scl → d.first.toNat < 447 → lanesOf 64 d.lanes ≠ [] → s.raft? rid = some r →
    let gives (word seg : Nat) (grants : List Grant) : Prop := ∃ u y, exec (.tileGrant o.id) s = .next u ∧ u.op? o.id = none ∧ u.grants = grants ∧
      u.raft? rid = some y ∧ y.sreg (d.first.toNat - 384) = BitVec.ofNat 32 word ∧ y.sreg (d.first.toNat - 383) = BitVec.ofNat 32 seg ∧
      y.v = r.v ∧ y.p = r.p ∧ u.tile = s.tile
    (s.pass? o.asid o.passVa = none → (o.asid, o.passVa) ∈ s.passEnds → gives (2 ^ 31) 0 s.grants) ∧
    (∀ p, s.pass? o.asid o.passVa = some p → (∀ g ∈ s.regrants, g.asid ≠ p.asid ∨ g.pass ≠ p.addr) →
      (s.pickTile p o.core = none → f.fn.getLsbD 0 = true → gives (2 ^ 28) 0 s.grants) ∧
      (∀ x y, s.pickTile p o.core = some (x, y) → s.servedFirst o = false →
        let again := p.given.any (fun t => t.1 != p.seg && t.2 == (x, y))
        gives (x + 512 * y + (if again then 2 ^ 29 else 0) + (if p.phase = 1 then 2 ^ 30 else 0)) p.seg
          (s.grants ++ [⟨s.nextId, t.id, o.core, p.asid, p.addr, x, y, p.seg, p.phase == 1, again, false⟩])))) ∧
  (∀ f g p, o.instr = .tiledone f → s.olderWork o 0xFF = false → (∀ x ∈ s.frags, x.grant ≠ o.amount) →
    s.visOf o.amount = false → s.grants.find? (fun x => x.id == o.amount) = some g → s.pass? g.asid g.pass = some p →
    let left := p.avail.filter (fun t => t != (g.tx, g.ty))
    (¬(p.phase = 2 ∧ left = []) → ∃ u q, exec (.tileRetire o.id) s = .next u ∧ u.op? o.id = none ∧ u.grants = s.grants.filter (fun x => x.id != g.id) ∧
      u.pass? g.asid g.pass = some q ∧ q.avail = left ∧ q.phase = p.phase) ∧
    (p.phase = 2 ∧ left = [] → s.passWrite p (some o) 0x20 (toBytes 4 p.closed ++ toBytes 4 1) = (s1, .done) → ∃ u, exec (.tileRetire o.id) s = .next u ∧
      u.op? o.id = none ∧ u.grants = s.grants.filter (fun x => x.id != g.id) ∧ u.passes = s.passes.filter (fun x => x.id != p.id) ∧
      (p.asid, p.addr) ∈ u.passEnds))

/-- R313 to R318, R321 to R323, R325 to R331: an opaque VIS leaves in its planes, for every sample of its tile, what the listed
primitives come to in their order; FRAGMENT_APPLY blends the lowest fragment of its sample; TRACE_COMPLETE starts the lanes, and
once all have ended writes their results together and defers the fault of the lowest failing lane; RENDER_RESUME lets a suspended operation go on. -/
def Obligations.SamplingAndTracing : Prop := ∀ (s : State) (o : Op), s.op? o.id = some o →
  (∀ f g core base rest, s.opGoes o = true → o.instr = .vis f → o.places = (.tile core, base) :: rest → core < 256 → s.fillsFirst o = true →
    s.grants.find? (fun x => x.id == o.amount) = some g → (∀ x ∈ linePieces (base + visStab o.desc) 1024, s.emptyFor o.id core (x.1 / 128) = false) → visTransp o.desc = false → visClash o.desc = false →
    let word (a : Nat) : Word := BitVec.ofNat 32 (ofBytes (s.tileGet core (base + a) 4))
    ∃ u, exec (.visComplete o.id) s = .next u ∧ u.op? o.id = none ∧ u.grants = s.grants ∧ u.frags = s.frags ∧ ∀ pix i, pix < 1024 → i < visSpp o.desc →
      let e := pix * visSpp o.desc + i
      let r := (opaqueSample (visDtest o.desc)
        (sampleOf o.desc (s.tileGet core (base + visStab o.desc) 1024) (s.visTilesY g) g pix i) (s.visPrims o g)
        (if visClear o.desc then (0x3F800000, 0xFFFFFFFF, 0)
         else (word (visDplane o.desc + 4 * e), word (visPlane o.desc + 8 * e), word (visPlane o.desc + 8 * e + 4)), 0)).1
      u.tileGet core (base + visDplane o.desc + 4 * e) 4 = toBytes 4 r.1.toNat ∧
      u.tileGet core (base + visPlane o.desc + 8 * e) 8 = toBytes 4 r.2.1.toNat ++ toBytes 4 r.2.2.toNat) ∧
  (∀ fr lane core base rest, s.frags.find? (fun x => x.id == fr.id) = some fr → fr.blend = some (o.id, lane) → o.places = (.tile core, base) :: rest →
    core < 256 → s.opGoes o = true → s.fragNext fr = true →
    let at_ := base + blendPlane o.desc + (fr.pixel * blendSpp o.desc + fr.sample) * 16
    let fn := (renderFields o.instr).fn.toNat % 4
    (fn ≠ 2 → s.emptyFor o.id core (at_ / 128) = false) →
    ∃ u, exec (.fragmentApply fr.id) s = .next u ∧ u.frags = s.frags.filter (fun x => x.id != fr.id) ∧ onlyAges s u ∧
      (∀ k, k < 4 → u.tileGet core (at_ + 4 * k) 4 = toBytes 4 (if fn = 2 then ofBytes (s.tileGet core (at_ + 4 * k) 4)
        else blendChannel fn (ofBytes (s.tileGet core (at_ + 4 * k) 4)) (sget o.vals (64 * k + lane)).toNat (sget o.vals (192 + lane)).toNat)) ∧
      (∀ a, a < at_ ∨ at_ + 16 ≤ a → u.tileGet core a 1 = s.tileGet core a 1) ∧
      ((∃ x ∈ u.frags, x.blend.map (·.1) = some o.id) → u.ops = s.ops) ∧
      ((∀ x ∈ u.frags, x.blend.map (·.1) ≠ some o.id) → u.op? o.id = none)) ∧
  (∀ f rid r d, s.opGoes o = true → o.instr = .trace f → o.raft = some rid → s.raft? rid = some r → o.dest = some d → d.uniform = false →
    Kind.of d.first = .vec → d.first.toNat + 5 ≤ min r.count d.cap →
    (o.phase = 0 → exec (.traceComplete o.id) s = .next (s.setOp { o with phase := 1, trace := o.traceStart })) ∧
    (o.phase ≠ 0 → o.trace.lanes = [] → (o.trace.ended.map (·.1)).Nodup → (∀ x ∈ o.trace.ended, x.1 < 64 ∧ x.2.length = 5) →
      ∃ u y, exec (.traceComplete o.id) s = .next u ∧ u.raft? rid = some y ∧ y.s = r.s ∧ y.p = r.p ∧
        (∀ x ∈ o.trace.ended, ∀ j, j < 5 → x.2[j]? = some (y.vreg (d.first.toNat + j) x.1)) ∧
        (o.trace.failed = [] → u.op? o.id = none) ∧
        (∀ l c side a, leastBy (·.1) o.trace.failed = some (l, c, side, a) →
          (u.op? o.id).bind (fun x => x.fault.map (fun e => (e.cause, e.lanes))) =
            some (c, maskOf ((o.trace.failed.filter (fun x => x.2.1 == c)).map (·.1)))))) ∧
  (∀ va, o.susp = some va → o.cls = 2 → s.opDying o = false → s.absent o.asid va = false →
    exec (.renderResume o.id) s = .next (s.setOp { o with susp := none, replay := false }))

/-- R266, R267: the home table's commands. HT_SET makes or changes an entry, HT_REMOVE takes one away, HT_REMOVE_ASID all of an ASID;
each region whose home changes has its lines written back and dropped and its watches fired; STATUS tells a bad format, a full
table and an entry that is not there. The event ends the command that HT_CMD runs, with HT_ENTRY as it was at the command's write (that
a command runs until its event is log entry 24); where HT_CMD runs none of its OP, it does nothing. That a remove of a badly formed
entry ends with HT_FORMAT is log entry 51.
R295, R296: an exchange begins with the pages that next use chooses; its pieces of 4 KiB are copied into the buffer, then each is
written into the other frame; the switch points both PTEs, and every TLB entry of them, at the other frame; where a PTE has
changed apart from A and D, the frames are restored and the PTEs stay. -/
def Obligations.HomesAndExchanges : Prop :=
  (∀ (s : State) (entry : DWord),
  let a := htAsid entry
  let r := htRegion entry
  let h := htHome entry
  let ends (e : Instr) (status : Nat) : Prop := exec e s = .next { s with htBusy := none, htStatus := status }
  let moves (e : Instr) (home : List HomeEntry) : Prop := ∃ u, exec e s = .next u ∧ u.htBusy = none ∧ u.htStatus = 0 ∧ u.home = home ∧
    (∀ l ∈ u.lines, ¬(l.asid = a ∧ l.line / 2 ^ 14 = r)) ∧ (∀ w ∈ u.watches, ¬(w.asid = a ∧ w.line / 2 ^ 14 = r)) ∧
    (∀ w ∈ s.watches, w.asid = a → w.line / 2 ^ 14 = r → ∃ n ∈ u.notices, n.kind = .fired w.target) ∧ u.rafts = s.rafts ∧ u.tile = s.tile
  (∀ x ∈ [(Instr.htSet, 1#2), (.htRemove, 2#2), (.htRemoveAsid, 3#2)],
    (s.htBusy = none ∨ s.htOp ≠ x.2 → exec x.1 s = .next s) ∧
    (s.htBusy = some entry → s.htOp = x.2 → htOk entry = false → ends x.1 1)) ∧
  (s.htBusy = some entry → htOk entry = true →
    (∀ old, s.home.find? (·.names a r) = some old →
      (s.htOp = 1 → old.home = h → ends .htSet 0) ∧
      (s.htOp = 1 → old.home ≠ h → moves .htSet (s.home.map (fun x => if x.names a r then { x with home := h } else x))) ∧
      (s.htOp = 2 → moves .htRemove (s.home.filter (fun x => !x.names a r)))) ∧
    (s.home.find? (·.names a r) = none →
      (s.htOp = 1 → s.home.length < 65536 → moves .htSet (s.home ++ [⟨a, r, h⟩])) ∧
      (s.htOp = 1 → 65536 ≤ s.home.length → ends .htSet 2) ∧
      (s.htOp = 2 → ends .htRemove 3)) ∧
    (s.htOp = 3 → ∃ u, exec .htRemoveAsid s = .next u ∧ u.htBusy = none ∧ u.htStatus = 0 ∧ u.home = s.home.filter (fun x => x.asid != a) ∧ u.rafts = s.rafts ∧
      ∀ x ∈ s.home, x.asid = a → ∀ l ∈ u.lines, ¬(l.asid = a ∧ l.line / 2 ^ 14 = x.region)))) ∧
  (∀ (s : State) (die : Nat),
  (∀ far near, (∀ e ∈ s.exchanges, e.die ≠ die) → s.chooseSwap = some (far, near) → stackOf (pteFrame near.pte) = die →
    exec (.swapStart die) s = .next { s with exchanges := s.exchanges ++
      [⟨die, near.asid, near.va, near.pteAt, near.pte, far.asid, far.va, far.pteAt, far.pte, near.size, 0, [], [], []⟩] }) ∧
  (∀ e, s.exchanges = [e] → e.die = die →
    let near := pteFrame e.nearPte
    let far := pteFrame e.farPte
    let n := s.phys64 e.nearAt
    let f := s.phys64 e.farAt
    let same (x y : DWord) : Prop := x &&& ~~~0xC0#64 = y &&& ~~~0xC0#64
    (e.copied < e.pieces → ∃ x, exec (.swapPieceCopy die) s = .next { s with exchanges := [x] } ∧
      x = { e with copied := e.copied + 1, slotN := x.slotN, slotF := x.slotF } ∧
      sgets x.slotN (4096 * e.copied) 4096 = sgets s.pmem (near + 4096 * e.copied) 4096 ∧
      sgets x.slotF (4096 * e.copied) 4096 = sgets s.pmem (far + 4096 * e.copied) 4096) ∧
    (∀ k, e.pieces ≤ e.copied → k < e.pieces → k ∉ e.written → (∀ j, j < k → j ∈ e.written) → overlaps near e.size far e.size = false →
      e.size = 4096 * e.pieces →
      ∃ m, exec (.swapPieceWrite die) s = .next { s with pmem := m, exchanges := [{ e with written := e.written ++ [k] }] } ∧
        sgets m (far + 4096 * k) 4096 = sgets e.slotN (4096 * k) 4096 ∧ sgets m (near + 4096 * k) 4096 = sgets e.slotF (4096 * k) 4096) ∧
    (e.pieces ≤ e.copied → (∀ k, k < e.pieces → k ∈ e.written) →
      (same n e.nearPte → same f e.farPte → overlaps e.nearAt 8 e.farAt 8 = false → ∃ u, exec (.swapSwitch die) s = .next u ∧ u.exchanges = [] ∧ (∀ w ∈ u.walks, w.found = none) ∧
        u.phys64 e.nearAt = retarget n f true ∧ u.phys64 e.farAt = retarget f n false ∧ u.rafts = s.rafts ∧ u.lines = s.lines ∧
        ∀ t ∈ u.tlb, (t.pteAt = e.nearAt → t.pte = retarget n f true) ∧ (t.pteAt = e.farAt → t.pte = retarget f n false)) ∧
      (¬(same n e.nearPte ∧ same f e.farPte) → overlaps near e.size far e.size = false → ∃ m, exec (.swapSwitch die) s =
        .next { s with pmem := m, exchanges := [] } ∧ sgets m near e.size = sgets e.slotN 0 e.size ∧ sgets m far e.size = sgets e.slotF 0 e.size))))

/-- R335 to R337, R343, R349, R352, R353: QT_CMD enables a queue that its table entry describes and disables one, with its STATUS, and
a command is ignored while one is BUSY; the READY queue of highest effective priority is mapped, and when its quantum ends leaves
its slot once the packet that it starts next has started. A queue that is enabled takes over the header from an earlier enabling whose
packets still complete: that one's STATE is not shown any more. A fired header watch, or a
READ_INTERVAL read that finds a published slot, makes an IDLE queue READY; a non-zero RESUME leaves ERROR; each change of STATE is
written to the header, and a header page that is not resident makes the queue PAGED. In which states the header watch stands is log entry 100,
and that CAUSE is kept after ERROR is log entry 33. -/
def Obligations.QueueStates : Prop := ∀ (s s0 s1 s2 s3 : State),
  (∀ i : BitVec 16, let k := i.toNat
    (s.mgmt.released = false → exec (.qtEnable i) s = .next s) ∧
    (s.ctl.qtCmd.getLsbD 63 = true → exec (.qtEnable i) s = .next s ∧ exec (.qtDisable i) s = .next s) ∧
    (s.ctl.qtCmd.getLsbD 63 = false →
    (s.mgmt.released = true → (s.queue? k).isSome = true → exec (.qtEnable i) s = .next (s.qtStatus 2 1 k)) ∧
    (s.mgmt.released = true → s.queue? k = none → s.tableQueue k = none → exec (.qtEnable i) s = .next (s.qtStatus 1 1 k)) ∧
    (∀ q, s.mgmt.released = true → s.queue? k = none → s.tableQueue k = some q →
      (∀ x ∈ s.queues, x.state = 5 ∨ x.asid ≠ q.asid ∨ x.qhdr ≠ q.qhdr) →
      let older (x : Queue) : Bool := x.asid == q.asid && x.qhdr == q.qhdr
      let kept := (s.queues.filter (fun x => !(older x && x.packets.isEmpty))).map (fun x => if older x then { x with unshown := false } else x)
      let q1 := { q with done := (((s.queues.filter (fun x => older x && !x.packets.isEmpty)).head?).map (·.done)).getD 0 }
      exec (.qtEnable i) s = .next
        (((({ s with queues := kept ++ [q1] } : State).showQueue q1).schedWatch q.asid q.qhdr (.queueHeader k)).qtStatus 0 1 k)) ∧
    (s.queue? k = none → exec (.qtDisable i) s = .next (s.qtStatus 3 2 k)) ∧
    (∀ q, s.queue? k = some q → exec (.qtDisable i) s = .next
      (((s.untell (.queueHeader k)).moveQueue q { q with
        state := 5, unshown := true
        packets := q.packets.map (fun p => if p.stage = 0 then { p with stage := 2, status := 8 } else p) }).qtStatus 0 2 k
          (q.packets.any (fun p => p.stage == 0)))))) ∧
  (∀ q, (s.queues.filter (fun x => x.state == 2)).length < 1024 →
    leastByKeys (fun (x : Queue) => [127 - s.effPrio x, x.since, x.index]) (s.queues.filter (fun x => x.state == 1)) = some q →
    exec .queueMap s = .next (s.moveQueue q { q with state := 2 })) ∧
  (∀ q, s.queueWith q.index (fun x => x.state == 2 && decide (x.since + 1000 * perUs ≤ s.clock)) = some q →
    (∃ x ∈ s.queues, x.state = 1 ∧ s.effPrio q ≤ s.effPrio x) → q.leaving = none →
    (s.nextPacket q.packets = none → exec (.quantumExpiry q.index) s = .next (s.moveQueue q { q with state := 1 })) ∧
    (∀ p, s.nextPacket q.packets = some p → exec (.quantumExpiry q.index) s = .next (s.setQueue q { q with leaving := some p.seq }))) ∧
  (∀ q b, s.told (.queueHeader q.index) = true → (s.untell (.queueHeader q.index)).queue? q.index = some q → q.state = 0 →
    (s.untell (.queueHeader q.index)).readAt q.asid q.qhdr 64 .read = (s1, .ok, b) → ofBytes ((b.drop 0x1C).take 4) = 0 → badSize q b = false →
    exec (.headerWatch q.index) s =
      .next ((s1.schedWatch q.asid q.qhdr (.queueHeader q.index)).moveQueue q { q with state := 1, startable := s.clock })) ∧
  (∀ q b, s.queueWith q.index (fun x => x.state == 4) = some q → q.state = 4 →
    (s.told (.queueHeader q.index) = true ∨ q.readAt + s.interval ≤ s.clock) →
    let q1 := { q with readAt := s.clock }
    ((s.untell (.queueHeader q.index)).setQueue q q1).readAt q.asid q.qhdr 64 .read = (s1, .ok, b) → ofBytes ((b.drop 0x1C).take 4) ≠ 0 →
    badSize q b = false → s1.headerWrite q1 0x1C (toBytes 4 0) = (s2, .ok) →
    exec (.queueResume q.index) s = .next ((s2.schedWatch q.asid q.qhdr (.queueHeader q.index)).moveQueue q1 { q1 with state := 0, readAt := 0 })) ∧
  (∀ q, s.someQueue q.index (fun x => x.state != 5 || x.unshown) = (s0, some q) →
    let q1 := { q with readAt := s0.clock }
    (q.unshown = true → exec (.readIntervalRead q.index) s = .next (s0.showQueue q)) ∧
    (∀ hdr b, q.unshown = false → q.state = 0 → q.readAt + s0.interval ≤ s0.clock → (s0.setQueue q q1).readHeader q1 false = s1 →
      s1.queueWith q.index (fun x => x == q1) = some q1 → s1.readAt q.asid q.qhdr 64 .read = (s2, .ok, hdr) →
      let i := ofBytes ((hdr.drop 8).take 8)
      s2.readAt q.asid (q.ring + i % 2 ^ q.log2 * 64 + 0x3C) 4 .read = (s3, .ok, b) → ofBytes b = (i + 1) % 2 ^ 32 →
      exec (.readIntervalRead q.index) s = .next (s3.moveQueue q1 { q1 with state := 1, startable := s0.clock }))) ∧
  (∀ old new : Queue, ∀ b,
    let q := { new with unshown := true, leaving := none, since := if new.state = 1 ∨ new.state = 2 then s.clock else new.since }
    let s0 := if q.listens then s else s.unwatch (.queueHeader q.index)
    ((s0.setQueue old q).readAt q.asid q.qhdr 64 .write = (s1, .ok, b) → q.state ≠ 4 →
      s.moveQueue old new = ((s1.headerWrite q 0x18
        (toBytes 4 (field (ofBytes (b.drop 0x18)) 4 0 + q.state * 2 ^ 20 + q.cause % 256 * 2 ^ 24))).1).setQueue q { q with unshown := false }) ∧
    ((s0.setQueue old q).readAt q.asid q.qhdr 64 .write = (s1, .moor, b) → q.state ≤ 3 →
      s.moveQueue old new = s1.setQueue q { q with state := 6, paged := some q.qhdr }))

/-- R340 to R348, R353: a published slot is consumed in order, and a wrong SEQ or a wrong LOG2SIZE puts the queue in ERROR; a LAUNCH
fails or starts with its first team; a COPY goes to a ferry engine; SEMWAIT waits until its word is reached; PASS, SEMSIGNAL and
MARKER act once every earlier packet has completed; a completed packet's record is written bytes 8 to 15 first. Then COMPLETED_SEQ passes
the packets at the queue's head whose records are written, but never one of an earlier enabling that is still to complete, and never
goes back (log entry 83); a disabled queue leaves with its last packet. A packet that ends at its start, or that held those behind
it, starts the next one's time (R349). -/
def Obligations.PacketsRun : Prop := ∀ (s s0 s1 s2 : State) (q : Queue),
  (∀ hdr b, s.queueWith q.index (fun x => x.state == 2) = some q → (s.unstarted q.packets).length ≤ 8 →
    s.readAt q.asid q.qhdr 64 .write = (s1, .ok, hdr) →
    let i := ofBytes ((hdr.drop 8).take 8)
    let next : Word := BitVec.ofNat 32 (ofBytes ((hdr.drop 0x10).take 4)) + 1
    let seq : Word := BitVec.ofNat 32 (ofBytes ((b.drop 4).take 4))
    let p : Packet := ⟨seq, b, 0, 0, 0, none, none, false, false⟩
    s1.readAt q.asid (q.ring + i % 2 ^ q.log2 * 64) 64 .read = (s2, .ok, b) →
    (ofBytes ((b.drop 0x3C).take 4) ≠ (i + 1) % 2 ^ 32 → exec (.packetConsume q.index) s = .next (s.settleQueue q.index)) ∧
    (ofBytes ((b.drop 0x3C).take 4) = (i + 1) % 2 ^ 32 →
      (badSize q hdr = true → exec (.packetConsume q.index) s = .next (s2.queueError q q 2 0 0)) ∧
      (badSize q hdr = false → seq ≠ next → exec (.packetConsume q.index) s = .next (s2.queueError q q 1 seq next)) ∧
      (badSize q hdr = false → seq = next → ∃ u, ∃ x ∈ u.queues, exec (.packetConsume q.index) s = .next u ∧ x.index = q.index ∧ x.state = 2 ∧
        x.packets = q.packets ++ [if p.check q.pre = 0 then p else { p with stage := 2, status := p.check q.pre }] ∧ u.rafts = s.rafts))) ∧
  (∀ p, s.queueWith q.index (fun x => x.state == 2) = some q → s.nextPacket q.packets = some p →
    (p.opc = 1 → s.vacated q p = true →
      (∀ st, s.tryLaunch q p = .fails s1 st → exec (.launchStart q.index) s = .next
        ((s1.setQueue q { (q.setPacket p.seq (fun x => { x with stage := 2, status := st })) with startable := s.clock }).settleQueue q.index)) ∧
      (∀ l place, s.tryLaunch q p = .starts s1 l place → s.servedBefore (s.effPrio q) q.startable = false →
        exec (.launchStart q.index) s = .next (((({ s1 with launches := s1.launches ++ [l], nextId := s1.nextId + 1 } : State).setQueue q
          { (q.setPacket p.seq (fun x => { x with stage := 1, launch := some l.id })) with startable := s.clock }).dispatchNext l place).settleQueue
            q.index))) ∧
    (∀ core, p.opc = 4 → s.copyCore q.asid (p.w 8) (p.w 0x10) = some core → s.tableUse core + 2 ≤ 1024 →
      ∃ (u : State) (o : Op), exec (.copyStart q.index) s = .next u ∧ u.ops = s.ops ++ [o] ∧ o.id = s.nextId ∧ o.core = core ∧ o.asid = q.asid ∧
        o.raft = none ∧ o.amount = p.w32 0x18 ∧ o.recs = [byteRec (p.w 8), byteRec (p.w 0x10), default] ∧ isFerry o.instr = true ∧ u.rafts = s.rafts)) ∧
  (∀ p b, s.readAt q.asid (p.w 8) 8 .read = (s1, .ok, b) →
    (s.queueWith q.index (fun x => x.state == 2) = some q → q.state = 2 → s.atKind q 2 = some p →
      (p.w 0x10 ≤ ofBytes b → exec (.semwait q.index) s = .next (s1.endPacket q p.seq 0)) ∧
      (ofBytes b < p.w 0x10 → exec (.semwait q.index) s = .next ((s1.schedWatch q.asid (p.w 8) (.semaphore q.index)).moveQueue q
        { ((q.starts p.seq s.clock).setPacket p.seq (fun x => { x with stage := 1 })) with readAt := s.clock, state := 3 })))) ∧
  (∀ p b, s.queues.filter (fun x => x.index == q.index && x.packets.any (fun y => y.opc == 2 && y.stage == 1) &&
      (s.told (.semaphore q.index) || decide (x.readAt + s.interval ≤ s.clock))) = [q] →
    q.packets.find? (fun x => x.opc == 2 && x.stage == 1) = some p →
    (s.untell (.semaphore q.index)).readAt q.asid (p.w 8) 8 .read = (s1, .ok, b) →
    (p.w 0x10 ≤ ofBytes b → q.state = 3 → exec (.semaphoreReread q.index) s =
      .next (s1.moveQueue q { q.ends p.seq 0 s1.clock with state := 1 })) ∧
    (p.w 0x10 ≤ ofBytes b → q.state ≠ 3 → exec (.semaphoreReread q.index) s = .next (s1.endPacket q p.seq 0)) ∧
    (ofBytes b < p.w 0x10 → q.state ≠ 2 → exec (.semaphoreReread q.index) s =
      .next ((s1.schedWatch q.asid (p.w 8) (.semaphore q.index)).setQueue q
        { ((q.starts p.seq s.clock).setPacket p.seq (fun x => { x with stage := 1 })) with readAt := s.clock }))) ∧
  (∀ (sq : Word) status now, let x := q.ends sq status now
    x.packets = q.packets.map (fun p => if p.seq = sq then { p with stage := 2, status := status } else p) ∧ x.state = q.state ∧
    ((∃ p ∈ q.packets, p.seq = sq ∧ (p.stage = 0 ∨ p.holds = true)) → x.startable = now) ∧
    s.endPacket q sq status = (s.setQueue q (q.ends sq status s.clock)).settleQueue q.index) ∧
  (∀ p, s.someQueue q.index (fun x => (s.atKind x 5).isSome) = (s0, some q) → s.atKind q 5 = some p →
    (s.earlierDone q p.seq = true → exec (.passPacket q.index) s = .next (s0.endPacket q p.seq 0)) ∧
    (s.earlierDone q p.seq = false → p.stage = 0 → exec (.passPacket q.index) s =
      .next ((s0.setQueue q ((q.starts p.seq s.clock).setPacket p.seq (fun x => { x with stage := 1 }))).settleQueue q.index))) ∧
  (∀ p b, s.someQueue q.index (fun x => (s.atKind x 3).isSome) = (s0, some q) → s.atKind q 3 = some p → s.earlierDone q p.seq = true →
    s0.readAt q.asid (p.w 8) 8 .write = (s1, .ok, b) →
    s1.writeAt q.asid (p.w 8) (toBytes 8 (if bit (p.w 0x18) 0 then (ofBytes b + p.w 0x10) % 2 ^ 64 else max (ofBytes b) (p.w 0x10))) true = (s2, .ok) →
    exec (.semsignal q.index) s = .next ((s2.tellWaiters q.asid (p.w 8)).endPacket q p.seq 0)) ∧
  (∀ p, s.someQueue q.index (fun x => (s.atKind x 6).isSome) = (s0, some q) → s.atKind q 6 = some p → s.earlierDone q p.seq = true →
    (p.w 8 = 0 → exec (.marker q.index) s = .next (s0.endPacket q p.seq 0)) ∧
    (p.w 8 ≠ 0 → s0.writeAt q.asid (p.w 8) (toBytes 8 (p.w 0x10)) = (s1, .ok) → exec (.marker q.index) s = .next (s1.endPacket q p.seq 0))) ∧
  (∀ p status detail, s.someQueue q.index (fun x => x.packets.any (fun y => y.seq == p.seq && s.recordDue x y)) = (s0, some q) →
    q.packets.find? (fun x => x.seq == p.seq && s.recordDue q x) = some p → s.packetDone p = some (status, detail) →
    let at_ := q.crec + p.seq.toNat % 2 ^ q.clog2 * 16
    (p.stage ≤ 2 → s0.writeAt q.asid (at_ + 8) (toBytes 4 (p.w32 0x38) ++ toBytes 4 detail.toNat) = (s1, .ok) →
      exec (.packetComplete q.index p.seq) s = .next ((({ s1 with
        launches := s1.launches.filter (fun l => some l.id != p.launch)
        ops := s1.ops.filter (fun o => !(some o.id == p.op && o.fault.isSome)) } : State).setQueue q
          (q.setPacket p.seq (fun x => { x with stage := 3, status := status, detail := detail, kept := false, barred := false }))).settleQueue q.index)) ∧
    (p.stage = 3 →
      s0.writeAt q.asid at_ (toBytes 4 p.seq.toNat ++ toBytes 2 p.status ++ toBytes 2 (if p.opc ≤ 6 then p.opc else 0)) = (s1, .ok) →
      let q1 := q.setPacket p.seq (fun x => { x with stage := 4, kept := false, barred := false })
      exec (.packetComplete q.index p.seq) s = .next ((s1.setQueue q q1).advance q1).qtSettle) ∧
    (4 ≤ p.stage → exec (.packetComplete q.index p.seq) s = .next (s0.advance q).qtSettle)) ∧
  (
    let q2 := q.retire q.packets
    (q2.packets.length = q.packets.length → s.advance q = s.settleQueue q.index) ∧
    (∀ hdr, q2.packets.length < q.packets.length → s.readAt q.asid q.qhdr 64 .write = (s1, .ok, hdr) →
      let old : Word := BitVec.ofNat 32 (ofBytes ((hdr.drop 0x14).take 4))
      let s2 := (s1.headerWrite q 0x10 ((hdr.drop 0x10).take 4 ++ toBytes 4 (s.completedSeq q old q2.done).toNat)).1
      (q.state = 5 ∧ q2.packets = [] ∧ q.unshown = false → s.advance q = { s2 with queues := s2.queues.filter (fun x => x != q) }) ∧
      (¬(q.state = 5 ∧ q2.packets = [] ∧ q.unshown = false) → s.advance q = (s2.setQueue q q2).settleQueue q.index)) ∧
    ∀ old now : Word,
      (q.state ≠ 5 → s.completedSeq q old now = if s.earlierUnder q = [] then laterSeq now old else old) ∧
      (q.state = 5 → old ≠ q.done → s.completedSeq q old now = old) ∧
      (q.state = 5 → old = q.done → (∀ x ∈ s.queues, x.state = 5 ∨ x.asid ≠ q.asid ∨ x.qhdr ≠ q.qhdr) → s.completedSeq q old now = now))

/-- R23, R402 to R407: what becomes of a cluster's clock pattern, floors, budget, headroom and reservations, and of the leases. A
refused write changes nothing. Which pattern bits firmware clears, and how many leases it revokes above PLIMIT, are its choice
(free values); that every die's patterns are cleared above PLIMIT, and what a write of CLK_PAT meanwhile does to the pattern that is
restored, is log entry 70. Within a class the oldest unit alone may be granted; the charge of a unit for which the spec gives no
cycles is free (log entry 78). A change of CLK_EFF takes effect at the next 16-slot boundary, no pulse counted before it changes, and
no step leaves a CLK_EFF without the change that is due, nor a lease that has expired (log entry 18). -/
def Obligations.ClocksAndBudgets : Prop := ∀ (s : State) (c : Nat) (x : Cluster), s.clusters[c]? = some x → c < 64 →
  let becomes (e : Instr) (y : Cluster) : Prop := ∃ u, exec e s = .next u ∧ u = { s with clusters := u.clusters } ∧
    u.clusters[c]? = some y ∧ ∀ k, k ≠ c → u.clusters[k]? = s.clusters[k]?
  let now := s.clusterCycles c
  let want : BitVec 16 := if s.leases.any (fun l => l.cluster == c && decide (now < l.expiry)) then 0xFFFF else x.pat
  (∀ v, (4 ≤ (ones v).length → becomes (.clkPatWrite c v) { x with pat := v, saved := x.saved.map (fun _ => v) }) ∧
    ((ones v).length < 4 → exec (.clkPatWrite c v) s = .next s)) ∧
  (∃ y, becomes (.clkEffChange c) y ∧ y = { x with eff := y.eff, effFrom := y.effFrom, before := y.before, passed := y.passed } ∧
    y.eff = want ∧ y.effFrom = (s.clock + 15) / 16 * 16 ∧
    (x.effFrom ≤ s.clock → x.effFrom % 16 = 0 → ∀ n, s.clock ≤ n → n ≤ y.effFrom →
      y.cycles n = x.cycles n ∧ (n < y.effFrom → y.effNow n = x.effNow n))) ∧
  (s.settleClocks = { s with leases := s.settleClocks.leases, clusters := s.settleClocks.clusters } ∧
    s.settleClocks.leases = s.leases.filter (fun l => decide (s.clusterCycles l.cluster < l.expiry)) ∧
    ∃ y, s.settleClocks.clusters[c]? = some y ∧ y.eff = want ∧ (x.eff = want → y = x) ∧
      (x.eff ≠ want → y = { x with eff := want, effFrom := (s.clock + 15) / 16 * 16, before := y.before, passed := y.passed })) ∧
  (∀ v, let good := floorForm v = true ∧ floorSum v ≤ x.total.toNat
    (good → becomes (.budFloorWrite c v) { x with floor := v }) ∧ (¬good → exec (.budFloorWrite c v) s = .next s)) ∧
  (∀ v : Word, (floorSum x.floor ≤ v.toNat → becomes (.budTotalWrite c v) { x with total := v }) ∧
    (v.toNat < floorSum x.floor → exec (.budTotalWrite c v) s = .next s)) ∧
  (x.periodEnd ≤ now → becomes (.arbiterPeriod c) { x with charged := [0, 0, 0, 0], spent := 0, periodEnd := now / 4096 * 4096 + 4096 }) ∧
  (x.periodEnd ≤ now → exec (.reservationGrant c) s = exec (.reservationGrant c) (s.inPeriod c)) ∧
  (∀ p, now < x.periodEnd → leastByKeys (fun (p : Pending) => [if x.below p.cls then 0 else 1, p.since]) ((s.classHeads c).filter x.affords) = some p →
    ∃ u, exec (.reservationGrant c) s = .next u ∧ u = { s with clusters := u.clusters, ops := u.ops, rafts := u.rafts } ∧
      (p.cls ≤ 3 ∧ ∀ y ∈ s.pendingUnits c, y.cls = p.cls → p.since ≤ y.since) ∧
      u.clusters[c]? = some { x with charged := setAt x.charged p.cls (x.charged.getD p.cls 0 + p.cycles), spent := x.spent + weight p.cls * p.cycles } ∧
      (∀ id n, p.who = .op id n → (u.op? id).map (·.resv) = (s.op? id).map (fun _ => n) ∧ u.rafts = s.rafts) ∧
      (∀ rid e, p.who = .clause rid e → u.ops = s.ops ∧
        (u.raft? rid).map (·.entry? e) = (s.raft? rid).map (fun r => (r.entry? e).map (fun en => { en with resv := en.resv + 1 })))) ∧
  (∀ rid, exec (.leaseExpiry rid) s = .next { s with
    leases := s.leases.filter (fun l => !(l.raft == rid && decide (l.expiry ≤ s.clusterCycles l.cluster))) }) ∧
  ((s.classHeads c).filter x.affords = [] → now < x.periodEnd → exec (.reservationGrant c) s = .next s) ∧
  (∀ o : Op, 1 ≤ o.openCycles ∧ o.openCycles ≤ 256) ∧
  (∀ draw, s.clock < s.windowAt + 1000 * perUs → exec (.powerWindow draw) s = .next s) ∧
  (∀ draw, s.windowAt + 1000 * perUs ≤ s.clock → ∃ u, exec (.powerWindow draw) s = .next u ∧ u.windowAt = s.clock ∧ u.mgmt = { s.mgmt with draw := draw } ∧
    (draw ≤ s.ctl.plimit.toNat → u.leases = s.leases ∧ u.hot = s.hot) ∧
    (s.ctl.plimit.toNat < draw → (∀ die, die < 8 → ∃ y ∈ u.hot, y.1 = die) ∧ (∀ y ∈ s.hot, y ∈ u.hot) ∧ ∃ n, u.leases = s.leases.take n)) ∧
  (∃ u, exec (.headroomZero c) s = .next u ∧ u.clusters[c]? = some { x with headroom := 0 } ∧ (∃ y ∈ u.hot, y.1 = c / 8) ∧ (∀ y ∈ s.hot, y ∈ u.hot) ∧
    u.leases = s.leases.filter (fun l => l.cluster / 8 != c / 8)) ∧
  ((∀ y ∈ s.hot, y.1 ≠ c / 8) → exec (.patternBitClear (c / 8)) s = .next s) ∧
  (∀ die t, s.hot.find? (fun y => y.1 == c / 8) = some (die, some t) → s.clock < t + 100 * perUs →
    exec (.patternBitClear (c / 8)) s = .next s) ∧
  (∀ die last, s.hot.find? (fun y => y.1 == c / 8) = some (die, last) → (∀ t, last = some t → t + 100 * perUs ≤ s.clock) →
    ∃ u y, exec (.patternBitClear (c / 8)) s = .next u ∧ u.hot = s.hot.map (fun z => if z.1 = c / 8 then (c / 8, some s.clock) else z) ∧
    u.clusters[c]? = some y ∧ ((ones x.pat).length ≤ 4 → y = x) ∧
    (4 < (ones x.pat).length → ∃ i, i < 16 ∧ x.pat.getLsbD i = true ∧
      y = { x with saved := some (x.saved.getD x.pat), pat := x.pat &&& ~~~(1#16 <<< i) })) ∧
  (exec (.patternRestore c 0) s = exec (.headroomZero c) s) ∧
  (∀ h : BitVec 8, h ≠ 0 → ∃ u, exec (.patternRestore c h) s = .next u ∧ u.clusters[c]? =
    some (if 10 < h.toNat then { x with headroom := h, pat := x.saved.getD x.pat, saved := none } else { x with headroom := h }))

/-- R349, R386, R401, R414: the control block's registers take the values that their ranges allow, and a refused write changes nothing;
REGISTER_WRITE reaches them by offset, with reserved bits ignored, but for those of HT_ENTRY, which it keeps (log entry 102), and starts
the commands of HT_CMD, which run with BUSY 1 until their event (log entry 24), and of QT_CMD; a load reads the registers back, and
zero where none is; a corrected error counts. (How the control registers of R386 are reached by offset is log entry 15; nothing here
rests on it.) -/
def Obligations.ControlBlockWrites : Prop := ∀ (s : State) (v : Word) (x : DWord),
  exec (.plimitWrite v) s = .next (if v.toNat ≤ 4000 then { s with ctl := { s.ctl with plimit := v } } else s) ∧
  exec (.peerRetryWrite v) s = .next (if 1 ≤ v.toNat ∧ v.toNat ≤ 1024 then { s with ctl := { s.ctl with peerRetry := v } } else s) ∧
  exec (.errCtlWrite v) s = .next (if 4 ≤ v.toNat ∧ v.toNat ≤ 16 then { s with ctl := { s.ctl with errCtl := v } } else s) ∧
  exec (.fqCtlWrite v) s = .next (if 4 ≤ v.toNat ∧ v.toNat ≤ 16 then { s with csr := { s.csr with fqCtl := v } } else s) ∧
  exec (.stowSlotsWrite v) s = .next { s with csr := { s.csr with stowSlots := BitVec.ofNat 32 (min v.toNat 4096) } } ∧
  exec (.ageParamWrite .ageInterval v) s =
    .next (if 1 ≤ v.toNat ∧ v.toNat ≤ 65535 then { s with ctl := { s.ctl with ageInterval := v } } else s) ∧
  exec (.ageParamWrite .ageCap v) s = .next (if v.toNat ≤ 127 then { s with ctl := { s.ctl with ageCap := v } } else s) ∧
  exec (.ageParamWrite .readInterval v) s =
    .next (if 1 ≤ v.toNat ∧ v.toNat ≤ 65535 then { s with ctl := { s.ctl with readInterval := v } } else s) ∧
  (∀ pa, exec (.correctedError pa) s = .next { s with ctl := { s.ctl with ceCount := s.ctl.ceCount + 1 } }) ∧
  exec (.registerWrite 0 8 x) s = .next { s with htEntry := x } ∧
  exec (.registerWrite 0x10 8 x) s = .next { s with ctl := { s.ctl with qtBase := x &&& ~~~0xFFF#64 } } ∧
  exec (.registerWrite 0x30 8 x) s = .next { s with ctl := { s.ctl with asidBase := x &&& ~~~0xFFFFF#64 } } ∧
  exec (.registerWrite 0x38 4 x) s = .next { s with ctl := { s.ctl with peerId := x.setWidth 32 &&& 0x1FFF#32 } } ∧
  exec (.registerWrite 0x40 4 x) s = exec (.plimitWrite (x.setWidth 32)) s ∧
  exec (.registerWrite 0x68 8 x) s = .next { s with ctl := { s.ctl with ceCount := x.setWidth 48 } } ∧
  (∀ c, c < 64 → exec (.registerWrite (0x40000 + 64 * c) 4 x) s = exec (.clkPatWrite c (x.setWidth 16)) s ∧
    exec (.registerWrite (0x40010 + 64 * c) 8 x) s = exec (.budFloorWrite c x) s ∧
    exec (.registerWrite (0x40008 + 64 * c) 4 x) s = .next s) ∧
  (∀ bytes, bytes = 4 ∨ bytes = 8 → (s.htBusy.isSome = true ∨ x.toNat % 4 = 0 → exec (.registerWrite 8 bytes x) s = .next s) ∧
    (s.htBusy = none → x.toNat % 4 ≠ 0 →
      let same : Prop := x.toNat % 4 = 1 ∧ htOk s.htEntry = true ∧
        ∃ old, s.home.find? (·.names (htAsid s.htEntry) (htRegion s.htEntry)) = some old ∧ old.home = htHome s.htEntry
      (same → exec (.registerWrite 8 bytes x) s = .next { s with htOp := 1, htStatus := 0 }) ∧
      (¬same → exec (.registerWrite 8 bytes x) s = .next { s with htOp := BitVec.ofNat 2 x.toNat, htBusy := some s.htEntry })) ∧
    (field x.toNat 17 16 = 1 → exec (.registerWrite 0x18 bytes x) s = exec (.qtEnable (x.setWidth 16)) s) ∧
    (field x.toNat 17 16 = 2 → exec (.registerWrite 0x18 bytes x) s = exec (.qtDisable (x.setWidth 16)) s)) ∧
  (∀ off bytes, off % bytes ≠ 0 ∨ bytes ≠ 4 ∧ bytes ≠ 8 → exec (.registerWrite off bytes x) s = .next s ∧ s.blockLoad off bytes = 0) ∧
  s.blockLoad 0 8 = s.htEntry ∧ s.blockLoad 0 4 = (s.htEntry.setWidth 32).setWidth 64 ∧ s.blockLoad 4 4 = s.htEntry >>> 32 ∧
  (s.blockLoad 8 8).getLsbD 63 = s.htBusy.isSome ∧ field (s.blockLoad 8 8).toNat 1 0 = s.htOp.toNat ∧
  field (s.blockLoad 8 8).toNat 62 60 = s.htStatus % 8 ∧ s.blockLoad 0x10 8 = s.ctl.qtBase ∧ s.blockLoad 0x18 8 = s.ctl.qtCmd ∧
  s.blockLoad 0x30 8 = s.ctl.asidBase ∧ s.blockLoad 0x38 4 = s.ctl.peerId.setWidth 64 ∧ s.blockLoad 0x40 4 = s.ctl.plimit.setWidth 64 ∧
  s.blockLoad 0x48 8 = s.ctl.errBase ∧ s.blockLoad 0x58 8 = s.ctl.errHead ∧ s.blockLoad 0x60 8 = s.ctl.errTail ∧
  s.blockLoad 0x68 8 = s.ctl.ceCount.setWidth 64 ∧ s.blockLoad 0x70 8 = 0 ∧
  ∀ c y, s.clusters[c]? = some y → c < 64 → s.blockLoad (0x40000 + 64 * c) 4 = (y.pat.setWidth 32).setWidth 64 ∧
    s.blockLoad (0x40008 + 64 * c) 4 = ((y.effNow s.clock).setWidth 32).setWidth 64 ∧ s.blockLoad (0x40010 + 64 * c) 8 = y.floor ∧
    s.blockLoad (0x40018 + 64 * c) 4 = y.total.setWidth 64 ∧ s.blockLoad (0x40020 + 64 * c) 4 = (y.headroom.setWidth 32).setWidth 64

/-- R408 to R413: a request that the management port answers: BUSY while a commit runs, then version, format and mode are checked, in
an order that is log entry 77's, and each kind does its own work; a type that is none is answered NOTNOW where the module is in the
other mode, else BADTYPE (the TYPE of that answer is a free value, log entry 16). A request answered before is answered as before, and
a frame that is not for the module is ignored. A commit runs from the request to a second event, which ends it (log entry 77).
R13, R386, R401, R408, R409, R414: MODULE_RESET leaves the registers at their reset values, the fuses and flash as they were, and
boots: the images that it accepts have their payloads at their LOAD addresses and are started at their ENTRY (that memory is else
empty, and an image outside it is placed nowhere, is log entries 76 and 4); ROLLBACK_RAISE raises a fused level at a signed command,
whose form is log entry 119; COMPUTE_DIE_RESET ends the work on its die, but for that of rafts whose context lies elsewhere, and
leaves the other dies' tile memory alone (log entry 75); an uncorrectable error ends the work that it reaches (of code 7 all, log
entry 74). -/
def Obligations.ManagementAndResets : Prop :=
  (∀ (s : State) (f : MgmtFrame),
  let b := msgBody f
  let slot := imageField b 0 4
  let off := imageField b 4 4
  let data := b.drop 8
  let stage := s.mgmt.staging.getD slot []
  let kinds : List (Nat × Nat × Bool × (MgmtFrame → Instr)) := [(1, 2, false, .attestReq), (3, 4, false, .telemReq), (5, 6, true, .recovHello),
    (7, 8, true, .recovWrite), (9, 8, true, .recovCommit), (10, 8, true, .recovReset)]
  (msgSeen f = true → f.dest = Config.macAddress ∧ f.etherType = 0x88B5) ∧
  (∀ k ∈ kinds, msgSeen f = false → s.mgmt.commit ≠ some f → exec (k.2.2.2 f) s = .next s) ∧
  (∀ k ∈ kinds, ∀ kept, msgSeen f = true → msgType f = k.1 → s.mgmt.commit ≠ some f →
    s.mgmt.kept.find? (fun x => x.1 == f.source && x.2.1 == msgSeq f) = some kept →
    exec (k.2.2.2 f) s = .next { s with mgmt := { s.mgmt with out := s.mgmt.out ++ [kept.2.2] } }) ∧
  (∀ k ∈ kinds, ∀ g, msgSeen f = true → s.repeatFor f = none → msgType f = k.1 → s.mgmt.commit = some g → g ≠ f →
    exec (k.2.2.2 f) s = .next (s.respond f k.2.1 6 [])) ∧
  (∀ k ∈ kinds, msgSeen f = true → s.repeatFor f = none → msgType f = k.1 → s.mgmt.commit = none →
    (msgVersion f ≠ 1 → exec (k.2.2.2 f) s = .next (s.respond f k.2.1 1 [])) ∧
    (msgVersion f = 1 → imageField f.message 12 4 ≠ 0 → exec (k.2.2.2 f) s = .next (s.respond f k.2.1 3 [])) ∧
    (msgVersion f = 1 → imageField f.message 12 4 = 0 → s.mgmt.recovery ≠ k.2.2.1 → exec (k.2.2.2 f) s = .next (s.respond f k.2.1 4 []))) ∧
  (msgSeen f = true → s.repeatFor f = none → badType (msgType f) = true → ∃ (n : Nat) (st : State), n < 256 ∧ st.mgmt = s.mgmt ∧ st.rafts = s.rafts ∧
    exec (.mgmtBadMessage f) s = .next (st.respond f n (if s.mgmt.commit ≠ none then 6 else if msgVersion f ≠ 1 then 1
      else if s.mgmt.recovery = true ↔ 5 ≤ msgType f ∧ msgType f ≤ 10 then 2 else 4) [])) ∧
  (msgSeen f = true → s.repeatFor f = none → s.mgmt.commit = none → msgVersion f = 1 → imageField f.message 12 4 = 0 →
    (s.mgmt.recovery = false → msgType f = 1 → b.length = 32 →
      exec (.attestReq f) s = .next (s.respond f 2 0 (s.report412 b ++ fit 64 (Config.edSign (s.report412 b))))) ∧
    (s.mgmt.recovery = false → msgType f = 3 → b = [] → exec (.telemReq f) s = .next (s.respond f 4 0 s.telemetry)) ∧
    (s.mgmt.recovery = true → msgType f = 5 → b = [] → exec (.recovHello f) s =
      .next (s.respond f 6 0 (toBytes 4 1 ++ toBytes 4 1024 ++ toBytes 4 0x10000100 ++ toBytes 4 (s.mgmt.staged.getD 0 0)))) ∧
    (s.mgmt.recovery = true → msgType f = 7 → 9 ≤ b.length → b.length ≤ 1032 → slot ≤ 1 → off + data.length ≤ 0x10000100 →
      ∃ (u : State), exec (.recovWrite f) s = .next (u.respond f 8 0 []) ∧ u.mgmt.staged = setAt s.mgmt.staged slot (max (s.mgmt.staged.getD slot 0) (off + data.length)) ∧
        (s.mgmt.staging.length = 2 → sgets (u.mgmt.staging.getD slot []) off data.length = data ∧
          ∀ a, a < off ∨ off + data.length ≤ a → sget (u.mgmt.staging.getD slot []) a = sget stage a)) ∧
    (s.mgmt.recovery = true → msgType f = 9 → b.length = 8 → slot ≤ 1 →
      exec (.recovCommit f) s = .next { s with mgmt := { s.mgmt with commit := some f } }) ∧
    (s.mgmt.recovery = true → msgType f = 10 → b = [] → ∃ u, exec (.recovReset f) s = .next u ∧ u.rafts = [] ∧ u.queues = [] ∧
      u.mgmt.out = s.mgmt.out ++ [⟨f.source, f.tag, response 8 0 (msgSeq f) []⟩] ∧ u.mgmt.flash = s.mgmt.flash)) ∧
  (s.mgmt.commit = some f →
    let s1 : State := { s with mgmt := { s.mgmt with commit := none } }
    let good : Prop := off = 256 + ofBytes (sgets stage 8 8) ∧ imageOk (sgets stage 0 off) s.mgmt.fusedFw = true
    (good → exec (.recovCommit f) s =
      .next (({ s1 with mgmt := { s1.mgmt with flash := setAt s.mgmt.flash slot (sgets stage 0 off) } } : State).respond f 8 0 [])) ∧
    (¬good → exec (.recovCommit f) s = .next (s1.respond f 8 5 [])))) ∧
  (∀ (s : State),
  (∃ u, exec .moduleReset s = .next u ∧ u.rafts = [] ∧ u.teams = [] ∧ u.queues = [] ∧ u.csr = Csrs.reset ∧ u.ctl = Ctl.reset ∧ u.mgmt.commit = none ∧
    (s.mgmt.images = [] → u.pmem = [] ∧ u.mgmt.started = []) ∧
    (∀ img first, s.mgmt.images = first ++ [img] →
      let at_ := imageField img 0x10 8
      let n := imageField img 8 8
      (∃ e, u.mgmt.started = e ++ [BitVec.ofNat 64 (imageField img 0x18 8)]) ∧
      (paOk at_ = true → paOk (at_ + n - 1) = true → sgets u.pmem at_ n = (img.drop 256).take n)) ∧
    (∀ (c : Nat), (u.clusters[c]?).map (fun (x : Cluster) => (x.pat, x.floor, x.total)) = (State.reset.clusters[c]?).map (fun (x : Cluster) => (x.pat, x.floor, x.total))) ∧
    u.mgmt.flash = s.mgmt.flash ∧ u.mgmt.fusedFw = s.mgmt.fusedFw ∧ u.mgmt.fusedLdr = s.mgmt.fusedLdr ∧
    ((∀ img ∈ s.mgmt.flash, imageOk img s.mgmt.fusedFw = false) → u.mgmt.recovery = true ∧ u.mgmt.released = false) ∧
    (∀ img, s.mgmt.flash.find? (fun x => imageOk x s.mgmt.fusedFw) = some img → u.mgmt.recovery = false ∧
      u.mgmt.loadedFw = BitVec.ofNat 32 (imageField img 4 4) ∧ (u.mgmt.released = true ↔ imageOk s.mgmt.loader s.mgmt.fusedLdr = true))) ∧
  (∀ command, Config.commandSigned command.image command.bytes = false → exec (.rollbackRaise command) s = .next s) ∧
  (∀ bytes, Config.commandSigned 0 bytes = true → ∃ u, exec (.rollbackRaise ⟨0, bytes⟩) s = .next u ∧ u.mgmt = { s.mgmt with fusedFw := u.mgmt.fusedFw } ∧
    u.mgmt.fusedFw.toNat = max s.mgmt.fusedFw.toNat s.mgmt.loadedFw.toNat) ∧
  (∀ bytes, Config.commandSigned 1 bytes = true → ∃ u, exec (.rollbackRaise ⟨1, bytes⟩) s = .next u ∧ u.mgmt = { s.mgmt with fusedLdr := u.mgmt.fusedLdr } ∧
    u.mgmt.fusedLdr.toNat = max s.mgmt.fusedLdr.toNat s.mgmt.loadedLdr.toNat) ∧
  (∀ die, die < 8 → ∃ u, exec (.computeDieReset die) s = .next u ∧ (∀ o ∈ u.ops, o.core / 32 = die → o.fault.isSome = true ∨ ∃ r, o.raft = some r ∧ u.away r = true) ∧
    (∀ q ∈ u.reqs, q.core / 32 = die → u.away q.raft = true) ∧ (∀ l ∈ u.l1, l.core / 32 ≠ die) ∧ (∀ e ∈ u.tlb, e.side ≠ die) ∧ (∀ m ∈ u.marks, m.side ≠ die) ∧
    (∀ k ∈ u.kept, k.core / 32 ≠ die) ∧ (∀ e ∈ u.exchanges, e.die ≠ die) ∧ (∀ l ∈ u.links, l.1.1 ≠ die ∧ l.1.2 ≠ die) ∧
    (∀ core a, core / 32 = die → core < 256 → a < 2 ^ 21 → u.tileGet core a 1 = [0]) ∧
    (∀ core a, core / 32 ≠ die → core < 256 → a < 2 ^ 21 → u.tileGet core a 1 = s.tileGet core a 1)) ∧
  (∀ asid line pa die, s.errWait = [] → s.exchanges = [] →
    let log2 := field s.ctl.errCtl.toNat 4 0
    ∃ u, exec (.uncorrectableError (.cleanLine asid line) pa die) s = .next u ∧
      u.l1 = s.l1.filter (fun l => !(l.asid == asid && l.line == line)) ∧
      u.lines = s.lines.filter (fun l => !(l.asid == asid && l.line == line && !l.dirty)) ∧ u.rafts = s.rafts ∧ u.tile = s.tile ∧
      (2 ^ log2 ≤ (s.ctl.errHead - s.ctl.errTail).toNat → u.errWait = [⟨pa, asid, 3, die⟩] ∧ u.pmem = s.pmem ∧ u.ctl = s.ctl) ∧
      ((s.ctl.errHead - s.ctl.errTail).toNat < 2 ^ log2 → u.errWait = [] ∧ u.ctl = { s.ctl with errHead := s.ctl.errHead + 1 } ∧
        let at_ := s.ctl.errBase.toNat + s.ctl.errHead.toNat % 2 ^ log2 * 32
        u.phys64 at_ = BitVec.ofNat 64 pa ∧ u.phys64 (at_ + 8) = BitVec.ofNat 64 (asid + 3 * 2 ^ 16 + die * 2 ^ 24))) ∧
  (∀ pa die, ∃ u, exec (.uncorrectableError .controlDie pa die) s = .next u ∧ u.rafts = [] ∧ u.teams = [] ∧ u.queues = [] ∧ u.mgmt.recovery = true ∧
    u.mgmt.released = false))

/-- R12, R392 to R394, R398 to R400: an intact flit in order is delivered, or sent on towards the die that it is for (which byte names
that die is log entry 79); any other is answered with a NAK. Every intact flit acknowledges what its ACK covers, and its NAK is heeded.
At most 64 flits stand unacknowledged, and which flits are answered with an idle one is log entry 79. A NAK makes the sender replay,
and one replay beyond the limit takes the link down, and with it the die that log entry 71 names. A frame for another module is ignored; one for this module is acknowledged
through a port of its mask. A peer's access is made in the ASID that imports it, or refused; a claim on a full queue leaves a
watch for the peer (the layout of that answer, and what a peer is answered, are log entry 23). -/
def Obligations.LinksAndPeers : Prop := ∀ (s s1 : State),
  (∀ (l : LinkDir) (f : Flit), linkExists l = true → (portAt s.links (l.source, l.dest)).down = false →
    (portAt s.links (l.dest, l.source)).down = false →
    let near := portAt s.links (l.dest, l.source)
    let left := near.sent.filter (fun x => !acked x.seq f.ack)
    ∃ u, exec (.flitReceive l f) s = .next u ∧ u = { s with links := u.links } ∧
      let p := portAt u.links (l.dest, l.source)
      (near.takes f = true → p.expect = near.expect + 1 ∧ p.replay = (near.replay || f.nak) ∧
        (2 ≤ f.kind.toNat → p.delivered = near.delivered ∧ (near.waiting = [] → f.seq.toNat % 16 ≠ 15 → p.next = near.next ∧ p.sent = left) ∧
          (near.waiting = [] → f.seq.toNat % 16 = 15 → left.length < 64 → p.next = near.next + 1 ∧
            ∃ x, p.sent = left ++ [x] ∧ p.wire = near.wire ++ [x] ∧ x.kind = 2 ∧ x.nak = false ∧ x.seq = near.next ∧ x.ack = near.expect)) ∧
        (∀ x ∈ near.sent, acked x.seq f.ack = false → x ∈ p.sent) ∧
        (f.kind = 0 → (∀ k, k < f.count.toNat → (flitRequest f k).toNat % 256 = l.dest) →
          p.delivered = near.delivered ++ (List.range f.count.toNat).map (fun k => .request (flitRequest f k))) ∧
        (f.kind = 1 → f.payload.toNat % 256 = l.dest → p.delivered = near.delivered ++ [.line (flitLine f)]) ∧
        (f.kind = 1 → f.payload.toNat % 256 ≠ l.dest → f.payload.toNat % 256 ≤ 8 →
          let on := (l.dest, nextDie l.dest (f.payload.toNat % 256))
          (portAt s.links on).down = false →
            ∃ x, (x ∈ (portAt u.links on).wire ∨ x ∈ (portAt u.links on).waiting) ∧ x.kind = 1 ∧ x.payload = f.payload)) ∧
      (near.takes f = false → p.expect = near.expect ∧ p.delivered = near.delivered ∧
        (flitIntact f = true → p.replay = (near.replay || f.nak) ∧ (∀ x ∈ left, x ∈ p.sent) ∧
          (left.length < 64 → ∃ x ∈ p.wire, x.kind = 3 ∧ x.nak = true ∧ x.seq = near.next ∧ x.ack = near.expect - 1)) ∧
        (flitIntact f = false → p.replay = near.replay ∧
          (64 ≤ near.sent.length → p = near) ∧
          (near.sent.length < 64 → p.next = near.next + 1 ∧ ∃ x, p.sent = near.sent ++ [x] ∧ p.wire = near.wire ++ [x] ∧
            x.kind = 3 ∧ x.nak = true ∧ x.seq = near.next ∧ x.ack = near.expect - 1)))) ∧
  (∀ (p : Port) (f : Flit) vc, p.sent.length ≤ 64 → (p.receive f vc).sent.length ≤ 64 ∧ (p.send f).sent.length ≤ 64) ∧
  (∀ f : Flit, ∀ p : Port, p.takes f = (flitFormOk f && f.crc == flitSum f && f.seq == p.expect)) ∧
  (∀ (l : LinkDir), linkExists l = true → (portAt s.links (l.source, l.dest)).replay = true → (portAt s.links (l.source, l.dest)).down = false →
    let p := portAt s.links (l.source, l.dest)
    (p.sent = [] → ∃ u, exec (.flitReplay l) s = .next u ∧ u = { s with links := u.links } ∧
      portAt u.links (l.source, l.dest) = { p with replay := false }) ∧
    (p.sent ≠ [] → p.fails < 32 → ∃ u, exec (.flitReplay l) s = .next u ∧ u = { s with links := u.links } ∧
      portAt u.links (l.source, l.dest) = { p with replay := false, fails := p.fails + 1, wire := p.wire ++ p.sent }) ∧
    (p.sent ≠ [] → 32 ≤ p.fails → ∃ u, exec (.flitReplay l) s = .next u ∧ (portAt u.links (l.source, l.dest)).down = true ∧
      (if l.source < 8 then l.source else l.dest) ∈ u.down)) ∧
  (∀ (p : PeerFrame), (p.dest ≠ field s.ctl.peerId.toNat 12 0 → exec (.peerFrame p) s = .next s) ∧
    (∀ f, p.dest = field s.ctl.peerId.toNat 12 0 → p.source < 8192 → p.port < 16 → p.flits = [f] →
      let near := portAt s.peerPorts (p.source, f.vc.toNat)
      near.down = false → near.replay = false → f.nak = false → near.takes f = true →
      ∃ u, exec (.peerFrame p) s = .next u ∧ u = { s with peerPorts := u.peerPorts, frames := u.frames, freeCtr := u.freeCtr } ∧
        (portAt u.peerPorts (p.source, f.vc.toNat)).expect = near.expect + 1 ∧
        (near.wire = [] → near.waiting = [] → (2 ≤ f.kind.toNat → f.seq.toNat % 16 ≠ 15 → u.frames = s.frames) ∧
          (f.kind.toNat < 2 → near.sent.length < 64 → s.portsTo p.source ≠ [] → ∃ g x, u.frames = s.frames ++ [g] ∧ g.dest = p.source ∧
            g.port ∈ s.portsTo p.source ∧ g.flits = [x] ∧ x.kind = 2 ∧ x.ack = near.expect)))) ∧
  (∀ module srcAsid,
    let answered (o : Host.Outcome State Fault Refusal) (t : State) (status : Nat) (bytes : List Byte) : Prop :=
      ∃ u, o = .next u ∧ u = { t with
        peerReplies := t.peerReplies ++ [⟨module, srcAsid, status, bytes⟩], peerPorts := u.peerPorts, frames := u.frames, freeCtr := u.freeCtr }
    (∀ req, s.imported module srcAsid = none → answered (exec (.peerAccess module srcAsid req) s) s 1 []) ∧
    (∀ asid, s.imported module srcAsid = some asid →
      (∀ (va : DWord) n b, canonical va.toNat = true → canonical (va.toNat + n - 1) = true → s.readAt asid va.toNat n .read = (s1, .ok, b) →
        answered (exec (.peerAccess module srcAsid (.read va n)) s) s1 0 b) ∧
      (∀ (va : DWord) b, canonical va.toNat = true → canonical (va.toNat + b.length - 1) = true → s.writeAt asid va.toNat b = (s1, .ok) →
        answered (exec (.peerAccess module srcAsid (.write va b)) s) s1 0 []) ∧
      (∀ qhdr q hdr, s.queueAt asid (BitVec.toNat (w := 64) qhdr) = some q → s.readAt asid q.qhdr 64 .write = (s1, .ok, hdr) →
        (∀ i n, claimStep hdr = some (i, n) → answered (exec (.peerAccess module srcAsid (.claim qhdr)) s)
          (s1.writeAt asid q.qhdr (toBytes 8 (i + 1)) true).1 0 (toBytes 8 i ++ toBytes 8 q.ring ++ toBytes 8 q.log2)) ∧
        (claimStep hdr = none → answered (exec (.peerAccess module srcAsid (.claim qhdr)) s)
          (s1.watchFor asid q.qhdr (.peer module srcAsid)) 2 []))))

/-- R150: AND, OR, XOR and ANDN write a AND b, a OR b, a XOR b and a AND NOT b to D in each enabled lane, over 32 bits, or over
64 under W, and change nothing else; a non-zero FN raises ILLOP (cause 1). -/
def Obligations.LogicOperations : Prop := ∀ (s : State) (c : Ctx) (f : V3),
  let n := if f.w then 64 else 32
  let x (l : Nat) := BitVec.ofNat n (if f.w then c.src64 s f.a f.xa f.k l else c.src s f.a f.xa f.k l)
  let y (l : Nat) := BitVec.ofNat n (if f.w then c.src64 s f.b f.xb f.k l else c.src s f.b f.xb f.k l)
  let write (v : BitVec n) := if f.w then words2 v.toNat else words1 v.toNat
  (Issues s c (.and f) → WritesLanes s c (.and f) f.d (fun l => write (x l &&& y l))) ∧
  (Issues s c (.or f) → WritesLanes s c (.or f) f.d (fun l => write (x l ||| y l))) ∧
  (Issues s c (.xor f) → WritesLanes s c (.xor f) f.d (fun l => write (x l ^^^ y l))) ∧
  (Issues s c (.andn f) → WritesLanes s c (.andn f) f.d (fun l => write (x l &&& ~~~(y l)))) ∧
  (s.ctx = some c → f.fn ≠ 0 → ∀ i ∈ [Instr.and f, .or f, .xor f, .andn f], Traps s c i 1 c.active 0 0)

/-- R161: FCLASS writes D with exactly one bit set, by the class of A: sign, exponent and mantissa of a 32-bit float. -/
def Obligations.ClassesOfNumbers : Prop := ∀ (s : State) (c : Ctx) (f : V3), Issues s c (.fclass f) →
  f.fn = 0 ∧
  WritesLanes s c (.fclass f) f.d (fun l =>
    let x : Word := BitVec.ofNat 32 (srcA f s c l)
    let e := x.extractLsb' 23 8
    let m := x.extractLsb' 0 23
    let k : Nat :=
      if e = 255 then (if m = 0 then (if x.msb then 0 else 7) else if x.getLsbD 22 then 9 else 8)
      else if e = 0 then (if m = 0 then (if x.msb then 3 else 4) else if x.msb then 2 else 5)
      else if x.msb then 1 else 6
    [1#32 <<< k])

/-- R14, R54, R55, R65: one step, where the agenda names an event, is that event, and where it names an instruction form it is a
turn of whatever the machine issues; with nothing on the agenda and a clause being issued it is the instruction that the word
of its next slot decodes to, run on the same state a tick later (log entries 1, 2), unless the clause first waits for a
reservation (R404); a word of an unassigned OP traps with ILLOP
(cause 1), any other that is no instruction with PRIV (cause 3) where its OP is of the SYS group and the team in user mode, and
else with ILLOP. A word placed by withFetchWord is the one that runs. After that a step puts flits on the die links, marks the
sub-rafts that it lets start, whose ages begin, or holds, ends the single steps that have come to a wait, ends the leases that have
expired, and has every CLK_EFF that is to be another change at the next 16-slot boundary (R402, R406; log entries 18, 19, 79). -/
def Obligations.StepRunsTheDecodedInstruction : Prop := ∀ (s : State),
  let ends (s : State) (o : Host.Outcome State Fault Refusal) : Host.Outcome State Fault Refusal := match o with
    | .next t => .next (t.carry s).readied.settleSteps.settleClocks
    | o => o
  s.tick = { s with clock := s.tick.clock } ∧ s.clock < s.tick.clock ∧
  (∀ t : State, t.carry s = { t with links := (t.carry s).links, asks := [] } ∧ t.readied = { t with rafts := t.readied.rafts } ∧ onlyAges t t.readied ∧
    ((∀ x ∈ t.teams, x.stepping = none) → t.settleSteps = t) ∧
    t.settleClocks = { t with leases := t.leases.filter t.leaseRuns, clusters := t.settleClocks.clusters } ∧
    (t.settleClocks.clusters.length = t.clusters.length) ∧
    ∀ k x, t.clusters[k]? = some x → t.settleClocks.clusters[k]? = some (if x.eff = t.wantEff k then x else x.repattern t.clock (t.wantEff k))) ∧
  (∀ i rest, s.agenda = i :: rest → encode i = none → Sys2Proof.Machine.step s = ends s (exec i { s.tick with agenda := rest })) ∧
  (∀ i rest, s.agenda = i :: rest → encode i ≠ none →
    Sys2Proof.Machine.step s = ends s ({ s.tick with agenda := rest } : State).turn) ∧
  (∀ (c : Ctx), s.agenda = [] → s.ctx = some c → s.tick.ctx = some c ∧
    (c.en.resv < c.en.needs c.r.width → Sys2Proof.Machine.step s = ends s (.next (s.tick.holdAt c.r.id c.e .slot))) ∧
    (c.en.needs c.r.width ≤ c.en.resv →
      (∀ i, decode c.word = .ok i → Sys2Proof.Machine.step s = ends s (exec i s.tick)) ∧
      (decode c.word = .error .unassignedOp → Sys2Proof.Machine.step s = ends s (.next (s.tick.trapAt c 1 c.active 0 0))) ∧
      (∀ e, decode c.word = .error e → e ≠ .unassignedOp → Sys2Proof.Machine.step s =
        ends s (.next (s.tick.trapAt c (if 0xE0 ≤ c.word.toNat % 256 ∧ c.t.supv = false then 3 else 1) c.active 0 0))))) ∧
  (s.agenda = [] → s.ctx = none → s.running ≠ [] → Sys2Proof.Machine.step s = ends s (.next { s.tick with running := s.running.drop 1 })) ∧
  (s.agenda = [] → s.running = [] →
    (∃ i ∈ s.tick.moves, Sys2Proof.Machine.step s = ends s (exec i s.tick)) ∨ Sys2Proof.Machine.step s = ends s (.next s.tick)) ∧
  (∀ (c : Ctx), s.ctx = some c ↔ ∃ rid rest r t en cl w, s.running = (rid, c.e) :: rest ∧ s.raft? rid = some r ∧
    s.team? r.team = some t ∧ r.entry? c.e = some en ∧ en.clause = some cl ∧ cl.words[en.slot]? = some w ∧
    c = ⟨r, t, c.e, en, cl, w, cl.hdr.getLsbD (36 + en.slot), en.narrowed⟩) ∧
  (∀ w i, decode (BitVec.ofNat 64 w) = .ok i → (∀ r ∈ s.rafts, r.id < s.nextId) → (∀ t ∈ s.teams, t.id < s.nextId) →
    Sys2Proof.Machine.step (s.withFetchWord 64 w) = ends (s.withFetchWord 64 w) (exec i (s.withFetchWord 64 w).tick))

/-- R55, R62 to R64, R278, R279, R292, R383 to R385, R395, R396, R406: words written out from the spec's encodings decode to the instructions
they stand for: `PBLK p2, 3, 0b101`, `MIGRATE s4:5`, `MIGRATE.home`, `LEASE s5, 100000`, `LATHE.axpy.fp32 s8, s12`, `TRAPI 0x2A`,
`CSRR s5, 0x002`, `TLBINV.hold s4:5, s6` and `DBGSTEP s44, s16`; a zero word is no instruction. -/
def Obligations.WordsDecode : Prop := decode 0x0000_0005_3C40_0277#64 = .ok (.pblk ⟨0, 5, 0, 482, 0, 2⟩) ∧
  decode 0x0000_0000_3080_00CF#64 = .ok (.migrate ⟨0, 0, 0, 388, 0, 0⟩) ∧
  decode 0x0000_0000_0000_01CF#64 = .ok (.migrateHome ⟨0, 0, 0, 0, 0, 1⟩) ∧
  decode 0x0186_A000_0018_50D4#64 = .ok (.lease ⟨100000, 0, 0, 0, 389, 0⟩) ∧
  decode 0x0000_0063_3100_03B8#64 = .ok (.lathe ⟨0, 0, 0, 396, 392, 0, 3⟩) ∧
  decode 0x0000_2A00_0000_00D2#64 = .ok (.trapi ⟨0x2A, 0, 0, 0, 0, 0⟩) ∧
  decode 0x0000_0200_0018_50E0#64 = .ok (.csrr ⟨2, 0, 0, 0, 389, 0⟩) ∧
  decode 0x0000_0000_3098_61E8#64 = .ok (.tlbinvHold ⟨0, 0, 0, 388, 390, 1⟩) ∧
  decode 0x0000_0000_321A_C0E4#64 = .ok (.dbgstep ⟨0, 0, 0, 400, 428, 0⟩) ∧
  decode 0#64 = .error .unassignedOp

/-- R55, R58 to R66: decoding and encoding agree: a well-formed instruction of any form, with every value that its fields take, is
what its word decodes to; whatever a word decodes to is well formed and encodes to that word; and a word that decodes to none is
the word of no well-formed instruction. -/
def Obligations.DecodeAndEncodeAgree : Prop := (∀ i w, WellFormed i = true → encode i = some w → decode w = .ok i) ∧
  (∀ w i, decode w = .ok i → WellFormed i = true ∧ encode i = some w) ∧
  (∀ w e, decode w = .error e → ∀ i, WellFormed i = true → encode i ≠ some w)

/-- R5, R90, R180, R295: every step keeps every memory of the machine in its canonical form: physical memory, tile memory, the
full/empty bits and the slots of every exchange. -/
def Obligations.StepKeepsMemoryCanonical : Prop := ∀ (s t : State), s.memOk = true →
  Sys2Proof.Machine.step s = .next t → t.memOk = true

/-- R103, R105: every step keeps the rafts' names distinct and given out, so that no two rafts are ever confused, and every raft's split
table at its four entries. The names are the model's own, no part of the spec's state (log entry 1). -/
def Obligations.StepKeepsNames : Prop := ∀ (s t : State), s.named → Sys2Proof.Machine.step s = .next t → t.named

/-- R386, R401, R403, R408: the machine after reset: the control registers and the control block at the values that the spec
states, every cluster with its pattern, floors and budget, no queue, team, raft, request or operation, no home entry; its memory
is in canonical form and its names are sound. That it stands after boot's step 4, with the application cores released and recovery
off, is the model's choice (log entries 7 and 17). HEADROOM, the full/empty bits and the contents of memory are the model's
choices too (log entries 4 and 6) and are not part of this. -/
def Obligations.ResetLeavesTheStatedValues : Prop := let s := State.reset
  s.memOk = true ∧ s.named ∧ s.running = [] ∧ s.rafts = [] ∧ s.teams = [] ∧ s.launches = [] ∧ s.reqs = [] ∧ s.ops = [] ∧ s.queues = [] ∧
  s.home = [] ∧ s.mgmt.released = true ∧ s.mgmt.recovery = false ∧
  s.csr.moorLimit = 65536 ∧ s.csr.stowDelay = 4096 ∧ s.csr.stowSlots = 0 ∧ s.csr.fqCtl = 4 ∧ s.csr.srseed = 0 ∧
  (∀ core num, num ∈ [0x003, 0x004, 0x006, 0x008, 0x009, 0x010, 0x011, 0x012, 0x013, 0x014, 0x100, 0x180, 0x181, 0x182, 0x183, 0x184,
    0x185, 0x186, 0x187, 0x188] → (s.csrGet core num).map (·.2.1) = some 0) ∧
  s.ctl.ageInterval = 100 ∧ s.ctl.ageCap = 96 ∧ s.ctl.readInterval = 64 ∧ s.ctl.peerRetry = 64 ∧ s.ctl.plimit = 4000 ∧
  s.ctl.errCtl = 4 ∧ s.ctl.qtBase = 0 ∧ s.ctl.asidBase = 0 ∧ s.ctl.errHead = 0 ∧ s.ctl.errTail = 0 ∧ s.ctl.ceCount = 0 ∧
  s.clusters.length = 64 ∧ (∀ x ∈ s.clusters, x.pat = 0xFEFE ∧ x.eff = 0xFEFE ∧ x.total = 28672 ∧
    x.floor.extractLsb' 0 16 = 2048#16 ∧ x.floor.extractLsb' 16 16 = 1024#16 ∧ x.floor.extractLsb' 32 16 = 1024#16 ∧
    x.floor.extractLsb' 48 16 = 512#16)
end

