-- ==== Sys2Proof/Laws/Sparse.lean ====
section
/-!
SUPPORT. Sparse maps: what a read gives after a write, that every operation keeps the canonical form, and that two maps
in that form with the same values are the same list.
-/

namespace Sys2Proof.Machine

variable {n : Nat}

/-! ### Reads after writes -/

theorem sget_sdel_same (m : Sparse n) (i : Nat) : sget (sdel m i) i = 0 := by
  induction m with
  | nil => rfl
  | cons e m ih => by_cases h : e.1 = i <;> simp_all [sdel, sget]

theorem sget_sdel_other (m : Sparse n) {i j : Nat} (h : j ≠ i) : sget (sdel m i) j = sget m j := by
  induction m with
  | nil => rfl
  | cons e m ih => by_cases he : e.1 = i <;> by_cases hj : e.1 = j <;> simp_all [sdel, sget]

theorem sget_sins_same (m : Sparse n) (i : Nat) (x : BitVec n) (h : ∀ e ∈ m, e.1 ≠ i) : sget (sins m i x) i = x := by
  induction m with
  | nil => simp [sins, sget]
  | cons e m ih => grind [sins, sget]

theorem sget_sins_other (m : Sparse n) {i j : Nat} (x : BitVec n) (h : j ≠ i) : sget (sins m i x) j = sget m j := by
  induction m with
  | nil => simp [sins, sget, Ne.symm h]
  | cons e m ih => grind [sins, sget]

theorem sdel_keys (m : Sparse n) (i : Nat) : ∀ e ∈ sdel m i, e.1 ≠ i := by simp [sdel]

@[simp] theorem sget_sset_same (m : Sparse n) (i : Nat) (x : BitVec n) : sget (sset m i x) i = x := by
  unfold sset
  split
  · rename_i h; rw [sget_sdel_same, h]
  · exact sget_sins_same _ _ _ (sdel_keys m i)

@[simp] theorem sget_sset_other (m : Sparse n) {i j : Nat} (x : BitVec n) (h : j ≠ i) : sget (sset m i x) j = sget m j := by
  unfold sset
  split
  · exact sget_sdel_other m h
  · rw [sget_sins_other _ _ h, sget_sdel_other m h]

theorem sget_sset (m : Sparse n) (i j : Nat) (x : BitVec n) : sget (sset m i x) j = if j = i then x else sget m j := by
  by_cases h : j = i
  · subst h; simp
  · simp [h]

/-- A read outside a run that was written. -/
theorem sget_ssets_out (xs : List (BitVec n)) : ∀ (m : Sparse n) (lo j : Nat), j < lo ∨ lo + xs.length ≤ j →
    sget (ssets m lo xs) j = sget m j := by
  induction xs with
  | nil => intros; rfl
  | cons x xs ih =>
    intro m lo j h
    simp only [List.length_cons] at h
    rw [ssets, ih _ _ _ (by omega), sget_sset_other _ _ (by omega)]

/-- A read inside a run that was written. -/
theorem sget_ssets_in (xs : List (BitVec n)) : ∀ (m : Sparse n) (lo j : Nat), lo ≤ j → (h : j - lo < xs.length) →
    sget (ssets m lo xs) j = xs[j - lo] := by
  induction xs with
  | nil => intro m lo j _ h; simp at h
  | cons x xs ih =>
    intro m lo j hl h
    rw [ssets]
    by_cases e : j = lo
    · subst e; rw [sget_ssets_out _ _ _ _ (by omega)]; simp
    · simp only [List.length_cons] at h
      rw [ih _ _ _ (by omega) (by omega)]
      have : j - lo = (j - (lo + 1)) + 1 := by omega
      simp [this]

/-! ### The canonical form -/

theorem sparseFrom_mono {m : Sparse n} {lo lo' : Nat} (h : sparseFrom lo m) (hl : lo' ≤ lo) : sparseFrom lo' m := by
  cases m with
  | nil => rfl
  | cons e m =>
    simp only [sparseFrom, Bool.and_eq_true, decide_eq_true_eq] at *
    exact ⟨⟨by omega, h.1.2⟩, h.2⟩

theorem sparseFrom_filter {m : Sparse n} (p : Nat × BitVec n → Bool) : ∀ {lo : Nat}, sparseFrom lo m → sparseFrom lo (m.filter p) := by
  induction m with
  | nil => intro lo _; rfl
  | cons e m ih =>
    intro lo h
    simp only [sparseFrom, Bool.and_eq_true, decide_eq_true_eq] at h
    simp only [List.filter_cons]
    split
    · simp only [sparseFrom, Bool.and_eq_true, decide_eq_true_eq]; exact ⟨h.1, ih h.2⟩
    · exact sparseFrom_mono (ih h.2) (by omega)

theorem sparseFrom_sins {m : Sparse n} {i : Nat} {x : BitVec n} (hx : x ≠ 0) (hk : ∀ e ∈ m, e.1 ≠ i) :
    ∀ {lo : Nat}, lo ≤ i → sparseFrom lo m → sparseFrom lo (sins m i x) := by
  induction m with
  | nil => intro lo hl _; simpa [sins, sparseFrom, hl] using hx
  | cons e m ih =>
    intro lo hl h
    simp only [sparseFrom, Bool.and_eq_true, decide_eq_true_eq] at h
    have hne : e.1 ≠ i := hk e (by simp)
    simp only [sins]
    split
    · rename_i hlt
      simp only [sparseFrom, Bool.and_eq_true, decide_eq_true_eq]
      exact ⟨⟨hl, hx⟩, ⟨by omega, h.1.2⟩, h.2⟩
    · simp only [sparseFrom, Bool.and_eq_true, decide_eq_true_eq]
      exact ⟨h.1, ih (fun e he => hk e (by simp [he])) (by omega) h.2⟩

theorem filter_wf {m : Sparse n} (p : Nat × BitVec n → Bool) (h : Sparse.wf m) : Sparse.wf (m.filter p) := sparseFrom_filter p h
theorem sdel_wf {m : Sparse n} (i : Nat) (h : Sparse.wf m) : Sparse.wf (sdel m i) := filter_wf _ h
theorem sclear_wf {m : Sparse n} (lo c : Nat) (h : Sparse.wf m) : Sparse.wf (sclear m lo c) := filter_wf _ h

theorem sset_wf {m : Sparse n} (i : Nat) (x : BitVec n) (h : Sparse.wf m) : Sparse.wf (sset m i x) := by
  unfold sset
  split
  · exact sdel_wf i h
  · rename_i hx; exact sparseFrom_sins hx (sdel_keys m i) (Nat.zero_le _) (sdel_wf i h)

theorem ssets_wf (xs : List (BitVec n)) : ∀ {m : Sparse n} (lo : Nat), Sparse.wf m → Sparse.wf (ssets m lo xs) := by
  induction xs with
  | nil => intro m lo h; exact h
  | cons x xs ih => intro m lo h; exact ih _ (sset_wf lo x h)

/-- Below its first key a map in canonical form reads as 0. -/
theorem sget_below {m : Sparse n} {lo i : Nat} (h : sparseFrom lo m) (hi : i < lo) : sget m i = 0 := by
  induction m generalizing lo with
  | nil => rfl
  | cons e m ih =>
    simp only [sparseFrom, Bool.and_eq_true, decide_eq_true_eq] at h
    have : e.1 ≠ i := by omega
    simp only [sget, this, if_false]
    exact ih h.2 (by omega)

/-- Two maps in canonical form with the same values are the same list. -/
theorem sparse_ext {m m' : Sparse n} : ∀ {lo : Nat}, sparseFrom lo m → sparseFrom lo m' → (∀ i, sget m i = sget m' i) → m = m' := by
  induction m generalizing m' with
  | nil =>
    intro lo _ h' e
    cases m' with
    | nil => rfl
    | cons x m' =>
      simp only [sparseFrom, Bool.and_eq_true, decide_eq_true_eq] at h'
      have := e x.1
      simp only [sget, if_true] at this
      exact absurd this.symm h'.1.2
  | cons x m ih =>
    intro lo h h' e
    simp only [sparseFrom, Bool.and_eq_true, decide_eq_true_eq] at h
    cases m' with
    | nil => have := e x.1; simp only [sget, if_true] at this; exact absurd this h.1.2
    | cons y m' =>
      simp only [sparseFrom, Bool.and_eq_true, decide_eq_true_eq] at h'
      have hxy : x.1 = y.1 := by
        have hx := e x.1
        have hy := e y.1
        simp only [sget, if_true] at hx hy
        by_cases hlt : x.1 < y.1
        · have : y.1 ≠ x.1 := by omega
          simp only [this, if_false] at hx
          rw [sget_below h'.2 (by omega)] at hx
          exact absurd hx h.1.2
        · by_cases hgt : y.1 < x.1
          · have : x.1 ≠ y.1 := by omega
            simp only [this, if_false] at hy
            rw [sget_below h.2 (by omega)] at hy
            exact absurd hy.symm h'.1.2
          · omega
      have hv : x.2 = y.2 := by have := e x.1; simpa [sget, hxy] using this
      have : m = m' := by
        refine ih h.2 (by rw [hxy]; exact h'.2) (fun i => ?_)
        by_cases hi : i < x.1 + 1
        · rw [sget_below h.2 hi, sget_below h'.2 (by omega)]
        · have := e i
          have h1 : x.1 ≠ i := by omega
          have h2 : y.1 ≠ i := by omega
          simpa [sget, h1, h2] using this
      rw [this, Prod.ext hxy hv]

end Sys2Proof.Machine
end

