-- ==== Sys2Proof/Laws/State.lean ====
section
/-!
SUPPORT. What the small updates of a state change: one lemma for each field that an update reads back, and rafts,
entries and teams looked up after they have been changed.
-/

namespace Sys2Proof.Machine

open Sys2Proof

/-! ### An update of the rafts or of the running list leaves every other field -/

theorem onlyRafts_refl (s : State) : onlyRafts s s := rfl
theorem onlyRafts_trans {s t u : State} (h : onlyRafts s t) (g : onlyRafts t u) : onlyRafts s u := by
  unfold onlyRafts at *; rw [g, h]

@[simp] theorem onlyRafts_setRaft (s : State) (r : Raft) : onlyRafts s (s.setRaft r) := rfl
@[simp] theorem onlyRafts_mapRaft (s : State) (id : Nat) (f : Raft → Raft) : onlyRafts s (s.mapRaft id f) := rfl
@[simp] theorem onlyRafts_mapEntry (s : State) (id e : Nat) (f : Entry → Entry) : onlyRafts s (s.mapEntry id e f) := rfl
@[simp] theorem onlyRafts_unrun (s : State) (id e : Nat) : onlyRafts s (s.unrun id e) := rfl
@[simp] theorem onlyRafts_stepStreams (s : State) (id : Nat) (ks : List Nat) : onlyRafts s (s.stepStreams id ks) := rfl

@[simp] theorem unrun_rafts (s : State) (id e : Nat) : (s.unrun id e).rafts = s.rafts := rfl
@[simp] theorem setRaft_running (s : State) (r : Raft) : (s.setRaft r).running = s.running := rfl
@[simp] theorem mapRaft_running (s : State) (id : Nat) (f : Raft → Raft) : (s.mapRaft id f).running = s.running := rfl
@[simp] theorem mapRaft_clock (s : State) (id : Nat) (f : Raft → Raft) : (s.mapRaft id f).clock = s.clock := rfl
@[simp] theorem stepStreams_clock (s : State) (id : Nat) (ks : List Nat) : (s.stepStreams id ks).clock = s.clock := rfl
@[simp] theorem unrun_raft? (s : State) (id e k : Nat) : (s.unrun id e).raft? k = s.raft? k := rfl
@[simp] theorem tick_agenda (s : State) (a : List Instr) : ({ s with agenda := a } : State).agenda = a := rfl

/-! ### Rafts looked up after a change -/

theorem raft?_id {s : State} {id : Nat} {r : Raft} (h : s.raft? id = some r) : r.id = id := by
  have := List.find?_some h; simpa using this

theorem find_map_same {rs : List Raft} {id : Nat} {f : Raft → Raft} (hf : ∀ x, x.id = id → (f x).id = id) {r : Raft}
    (h : rs.find? (fun x => x.id == id) = some r) :
    (rs.map (fun x => if x.id = id then f x else x)).find? (fun x => x.id == id) = some (f r) := by
  induction rs with
  | nil => simp at h
  | cons x rs ih =>
    by_cases hx : x.id = id
    · simp only [List.find?_cons, hx, beq_self_eq_true] at h
      simp only [List.map_cons, hx, if_true, List.find?_cons, hf x hx, beq_self_eq_true]
      injection h with h; rw [h]
    · have hx' : (x.id == id) = false := by simpa using hx
      simp only [List.find?_cons, hx'] at h
      simp only [List.map_cons, hx, if_false, List.find?_cons, hx']
      exact ih h

theorem find_map_other {rs : List Raft} {id k : Nat} {f : Raft → Raft} (hf : ∀ x, x.id = id → (f x).id = id) (hk : k ≠ id) :
    (rs.map (fun x => if x.id = id then f x else x)).find? (fun x => x.id == k) = rs.find? (fun x => x.id == k) := by
  induction rs with
  | nil => rfl
  | cons x rs ih =>
    by_cases hx : x.id = id
    · have h1 : ((f x).id == k) = false := by rw [hf x hx]; simpa using (Ne.symm hk)
      have h2 : (x.id == k) = false := by rw [hx]; simpa using (Ne.symm hk)
      simp only [List.map_cons, hx, if_true, List.find?_cons, h1]
      rw [ih]; rw [hx] at h2; simp [h2]
    · simp only [List.map_cons, hx, if_false, List.find?_cons, ih]

theorem raft?_mapRaft_same {s : State} {id : Nat} {f : Raft → Raft} {r : Raft} (hf : ∀ x, x.id = id → (f x).id = id)
    (h : s.raft? id = some r) : (s.mapRaft id f).raft? id = some (f r) := find_map_same hf h
theorem raft?_mapRaft_other {s : State} {id k : Nat} {f : Raft → Raft} (hf : ∀ x, x.id = id → (f x).id = id) (hk : k ≠ id) :
    (s.mapRaft id f).raft? k = s.raft? k := find_map_other hf hk
theorem raft?_setRaft_same {s : State} {r x : Raft} (h : s.raft? r.id = some x) : (s.setRaft r).raft? r.id = some r :=
  find_map_same (f := fun _ => r) (fun _ _ => rfl) h
theorem raft?_setRaft_other {s : State} {r : Raft} {k : Nat} (hk : k ≠ r.id) : (s.setRaft r).raft? k = s.raft? k :=
  find_map_other (f := fun _ => r) (fun _ _ => rfl) hk

/-! ### Entries -/

theorem getD_set_same {α : Type} (xs : List (Option α)) (e : Nat) (x : Option α) (h : e < xs.length) :
    ((xs.set e x)[e]?).getD none = x := by simp [h]
theorem entry?_setEntry_same {r : Raft} {e : Nat} {y : Entry} (x : Option Entry) (h : r.entry? e = some y) :
    (r.setEntry e x).entry? e = x := by
  have hl : e < r.split.length := by
    simp only [Raft.entry?] at h
    by_cases hl : e < r.split.length
    · exact hl
    · simp [List.getElem?_eq_none (Nat.le_of_not_lt hl)] at h
  simp [Raft.entry?, Raft.setEntry, setAt, hl]
theorem entry?_setEntry_other {r : Raft} {e k : Nat} (x : Option Entry) (h : k ≠ e) : (r.setEntry e x).entry? k = r.entry? k := by
  simp [Raft.entry?, Raft.setEntry, setAt, List.getElem?_set_ne (Ne.symm h)]

/-! ### The issuing context -/

/-- What the context of the sub-raft at the head of `running` is made of. -/
theorem ctx_parts {s : State} {c : Ctx} (h : s.ctx = some c) :
    s.raft? c.r.id = some c.r ∧ s.team? c.r.team = some c.t ∧ c.r.entry? c.e = some c.en ∧ c.en.clause = some c.cl ∧
    c.cl.words[c.en.slot]? = some c.word ∧ c.uni = c.cl.hdr.getLsbD (36 + c.en.slot) ∧ c.active = c.en.narrowed ∧
    ∃ rest, s.running = (c.r.id, c.e) :: rest := by
  unfold State.ctx at h
  split at h
  · simp at h
  · rename_i rid e rest hrun
    split at h
    · simp at h
    · rename_i r hr
      split at h
      · rename_i t en ht hen
        split at h
        · simp at h
        · rename_i cl hcl
          split at h
          · simp at h
          · rename_i w hw
            injection h with h; subst h
            have hid := raft?_id hr
            subst hid
            exact ⟨hr, ht, hen, hcl, hw, rfl, rfl, rest, hrun⟩
      · simp at h

/-! ### What a step adds around its move -/

/-- A state that differs in its link ends alone. -/
def linksOnly (s t : State) : Prop := t = { s with links := t.links }
theorem linksOnly_trans {s t u : State} (h : linksOnly s t) (g : linksOnly t u) : linksOnly s u := by
  unfold linksOnly at *; rw [g, h]
theorem sendTo_links (s : State) (here dest : Nat) (f : Flit) : linksOnly s (s.sendTo here dest f) := by
  unfold State.sendTo
  split <;> rfl
theorem asks_links (s t : State) (h : linksOnly s t) : linksOnly { s with asks := [] } { t with asks := [] } := by
  unfold linksOnly at *; rw [h]
theorem foldl_links {α : Type} {f : State → α → State} (hf : ∀ s x, linksOnly s (f s x)) :
    ∀ (xs : List α) (s : State), linksOnly s (xs.foldl f s)
  | [], _ => rfl
  | x :: xs, s => linksOnly_trans (hf s x) (foldl_links hf xs (f s x))
/-- What a step puts on the links changes nothing but the link ends; what its move has asked of homes is forgotten. -/
theorem carry_links (s before : State) : linksOnly { s with asks := [] } (s.carry before) := by
  unfold State.carry
  exact asks_links _ _ (foldl_links (fun s _ => sendTo_links s _ _ _) _ _)
@[simp] theorem carry_rafts (s b : State) : (s.carry b).rafts = s.rafts := by rw [carry_links s b]
@[simp] theorem carry_teams (s b : State) : (s.carry b).teams = s.teams := by rw [carry_links s b]
@[simp] theorem carry_reqs (s b : State) : (s.carry b).reqs = s.reqs := by rw [carry_links s b]
@[simp] theorem carry_ops (s b : State) : (s.carry b).ops = s.ops := by rw [carry_links s b]
@[simp] theorem carry_running (s b : State) : (s.carry b).running = s.running := by rw [carry_links s b]
@[simp] theorem carry_agenda (s b : State) : (s.carry b).agenda = s.agenda := by rw [carry_links s b]
@[simp] theorem carry_clock (s b : State) : (s.carry b).clock = s.clock := by rw [carry_links s b]
@[simp] theorem carry_pmem (s b : State) : (s.carry b).pmem = s.pmem := by rw [carry_links s b]
@[simp] theorem carry_tile (s b : State) : (s.carry b).tile = s.tile := by rw [carry_links s b]
@[simp] theorem carry_asks (s b : State) : (s.carry b).asks = [] := rfl
@[simp] theorem carry_empty (s b : State) : (s.carry b).empty = s.empty := by rw [carry_links s b]
@[simp] theorem carry_exchanges (s b : State) : (s.carry b).exchanges = s.exchanges := by rw [carry_links s b]
@[simp] theorem carry_lines (s b : State) : (s.carry b).lines = s.lines := by rw [carry_links s b]
/-- The ages that a step starts change nothing but the rafts. -/
theorem readied_rafts (s : State) : onlyRafts s s.readied := rfl
/-- Where no team single-steps, no step has to be ended. -/
theorem settleSteps_of_none {s : State} (h : ∀ t ∈ s.teams, t.stepping = none) : s.settleSteps = s := by
  unfold State.settleSteps
  generalize s.teams = ts at h
  induction ts with
  | nil => rfl
  | cons t ts ih =>
    rw [List.foldl_cons, h t (List.mem_cons_self ..)]
    exact ih (fun x hx => h x (List.mem_cons_of_mem _ hx))

end Sys2Proof.Machine
end

