-- ==== Sys2Proof/Laws/Issue.lean ====
section
/-!
SUPPORT. The issue of an instruction: what an instruction that issues answers, what the end of its slot changes, and
what the writes of results to registers leave.
-/

namespace Sys2Proof.Machine

open Sys2Proof

/-! ### The end of a slot -/

theorem settleStop_going {s : State} {rid : Nat} {r : Raft} (h : s.raft? rid = some r) (hs : r.stopping = none) :
    s.settleStop rid = s := by
  unfold State.settleStop; simp [h, hs]

/-- A raft that keeps its registers and everything but its place. -/
def keeps (r q : Raft) : Prop := q = { r with split := q.split, spindle := q.spindle }

theorem keeps_refl (r : Raft) : keeps r r := rfl
theorem keeps_trans {r q p : Raft} (h : keeps r q) (g : keeps q p) : keeps r p := by unfold keeps at *; rw [g, h]
theorem keeps_setEntry (r : Raft) (e : Nat) (x : Option Entry) : keeps r (r.setEntry e x) := rfl
theorem keeps_endClause (r : Raft) (e : Nat) (tg : Option DWord) (now : Nat) : keeps r (r.endClause e tg now) := by
  unfold Raft.endClause
  repeat' (first | rfl | (dsimp only; split) | split)

/-- The end of a slot of a raft that no stop has reached: its registers and all else of it but its place are the same,
and so is everything else. -/
theorem passSlot_keeps {s : State} {rid e : Nat} {fl : Flow} {issued : Bool} {r : Raft} (h : s.raft? rid = some r) (hs : r.stopping = none) :
    onlyRaft s (s.passSlot rid e fl issued) rid ∧ ∃ q, (s.passSlot rid e fl issued).raft? rid = some q ∧ keeps r q := by
  have hid := raft?_id h
  have hskid : ({ r with skid := if r.stopping.isSome && issued then r.skid + 1 else r.skid } : Raft) = r := by
    rw [show (if r.stopping.isSome && issued then r.skid + 1 else r.skid) = r.skid by simp [hs]]
  -- every path sets the raft to one that keeps everything but its place
  have key : ∀ q : Raft, keeps r q → ∀ run, let t := ({ (s.setRaft q) with running := run } : State)
      onlyRaft s (t.settleStop rid) rid ∧ ∃ q', (t.settleStop rid).raft? rid = some q' ∧ keeps r q' := by
    intro q hq run
    have hqid : q.id = rid := by rw [hq]; exact hid
    have hqs : q.stopping = none := by rw [hq]; exact hs
    have hl : ({ (s.setRaft q) with running := run } : State).raft? rid = some q := by
      have := raft?_setRaft_same (s := s) (r := q) (x := r) (by rw [hqid]; exact h)
      rw [hqid] at this; exact this
    simp only
    rw [settleStop_going hl hqs]
    refine ⟨⟨rfl, fun k hk => ?_⟩, q, hl, hq⟩
    have := raft?_setRaft_other (s := s) (r := q) (k := k) (by rw [hqid]; exact hk)
    exact this
  have key2 : ∀ q : Raft, keeps r q → onlyRaft s (s.setRaft q) rid ∧ ∃ q', (s.setRaft q).raft? rid = some q' ∧ keeps r q' := by
    intro q hq
    have hqid : q.id = rid := by rw [hq]; exact hid
    refine ⟨⟨rfl, fun k hk => raft?_setRaft_other (by rw [hqid]; exact hk)⟩, q, ?_, hq⟩
    have := raft?_setRaft_same (s := s) (r := q) (x := r) (by rw [hqid]; exact h)
    rw [hqid] at this; exact this
  unfold State.passSlot
  simp only [h, hskid]
  split
  · exact key r (keeps_refl r) _
  · split
    · exact key r (keeps_refl r) _
    · split
      · exact key r (keeps_refl r) _
      · exact key _ (keeps_endClause _ _ _ _) _
      · split
        · exact key2 _ (keeps_setEntry _ _ _)
        · exact key _ (keeps_endClause _ _ _ _) _
      · split
        · exact key _ (keeps_trans (keeps_setEntry _ _ _) (keeps_setEntry _ _ _)) _
        · exact key _ (keeps_trans (keeps_endClause _ _ _ _) (keeps_setEntry _ _ _)) _

/-! ### An instruction that issues -/

/-- An instruction that issues and takes effect answers the state its meaning gives, with its slot passed. -/
theorem issue_done {s s1 : State} {c : Ctx} {i : Instr} {body : State → Ctx → Res} {fl : Flow} (h : Issues s c i)
    (hb : body (s.stepStreams c.r.id (c.streamsRead i)) c = .done s1 fl) : issue i s body = .next (s1.passSlot c.r.id c.e fl) := by
  simp [issue, State.issueWith, h.ctx, h.legal, h.free, hb]

theorem stepStream_id (r : Raft) (k : Nat) : (r.stepStream k).id = r.id := by
  unfold Raft.stepStream; split <;> rfl
theorem foldl_stepStream_id (ks : List Nat) (r : Raft) : (ks.foldl Raft.stepStream r).id = r.id := by
  induction ks generalizing r with
  | nil => rfl
  | cons k ks ih => rw [List.foldl_cons, ih, stepStream_id]

theorem raft?_stepStreams {s : State} {c : Ctx} (h : s.ctx = some c) (i : Instr) :
    (s.stepStreams c.r.id (c.streamsRead i)).raft? c.r.id = some (c.stepped i) :=
  raft?_mapRaft_same (fun x hx => by rw [foldl_stepStream_id]; exact hx) (ctx_parts h).1
theorem raft?_stepStreams_other (s : State) (id : Nat) (ks : List Nat) {k : Nat} (hk : k ≠ id) :
    (s.stepStreams id ks).raft? k = s.raft? k :=
  raft?_mapRaft_other (fun x hx => by rw [foldl_stepStream_id]; exact hx) hk

/-- A source reads the same after the streams have advanced: registers come from the context. -/
@[simp] theorem readReg_stepStreams (s : State) (id : Nat) (ks : List Nat) (r : Raft) (t : Team) (n : RegNum) (l : Nat) :
    (s.stepStreams id ks).readReg r t n l = s.readReg r t n l := rfl
@[simp] theorem src_stepStreams (s : State) (id : Nat) (ks : List Nat) (c : Ctx) (n : RegNum) (x : BitVec 3) (k : BitVec 6) (l : Nat) :
    c.src (s.stepStreams id ks) n x k l = c.src s n x k l := rfl
@[simp] theorem src64_stepStreams (s : State) (id : Nat) (ks : List Nat) (c : Ctx) (n : RegNum) (x : BitVec 3) (k : BitVec 6) (l : Nat) :
    c.src64 (s.stepStreams id ks) n x k l = c.src64 s n x k l := rfl

/-- What the streams' advance leaves of a raft. -/
theorem stepStream_same (r : Raft) (k : Nat) : r.stepStream k = { r with s := (r.stepStream k).s, streams := (r.stepStream k).streams } := by
  unfold Raft.stepStream; split <;> rfl
theorem foldl_stepStream_same (ks : List Nat) : ∀ r : Raft, ks.foldl Raft.stepStream r =
    { r with s := (ks.foldl Raft.stepStream r).s, streams := (ks.foldl Raft.stepStream r).streams } := by
  induction ks with
  | nil => intro r; rfl
  | cons k ks ih => intro r; rw [List.foldl_cons, ih, stepStream_same]
theorem stepped_same (c : Ctx) (i : Instr) : c.stepped i = { c.r with s := (c.stepped i).s, streams := (c.stepped i).streams } :=
  foldl_stepStream_same _ _

theorem stepStream_sreg {r : Raft} {k j : Nat} (h : j ≠ 60 + k) : (r.stepStream k).sreg j = r.sreg j := by
  unfold Raft.stepStream
  split
  · rfl
  · simp [Raft.sreg, sget_sset_other _ _ h]
theorem foldl_stepStream_sreg {j : Nat} : ∀ (ks : List Nat) (r : Raft), (∀ k ∈ ks, j ≠ 60 + k) →
    (ks.foldl Raft.stepStream r).sreg j = r.sreg j := by
  intro ks
  induction ks with
  | nil => intros; rfl
  | cons k ks ih =>
    intro r h
    rw [List.foldl_cons, ih _ (fun x hx => h x (by simp [hx])), stepStream_sreg (h k (by simp))]

/-- An instruction that writes no register: all that its meaning does to anything but its raft's place leads to `s1`. -/
theorem leads_of {s s1 : State} {c : Ctx} {i : Instr} {body : State → Ctx → Res} {s' : State} {fl : Flow}
    (h : Issues s c i) (he : exec i s = issue i s body)
    (hb : body (s.stepStreams c.r.id (c.streamsRead i)) c = .done s' fl)
    (hr : s'.rafts = (s.stepStreams c.r.id (c.streamsRead i)).rafts)
    (hs : s' = { s1 with rafts := s'.rafts, running := s'.running }) : Leads s s1 c i := by
  have hr' : s'.raft? c.r.id = some (c.stepped i) := by
    have := raft?_stepStreams h.ctx i; unfold State.raft? at *; rw [hr]; exact this
  have hsame := stepped_same c i
  have hst : (c.stepped i).stopping = none := by rw [hsame]; exact h.going
  obtain ⟨⟨ho1, ho2⟩, q, hq, hk⟩ := passSlot_keeps (e := c.e) (fl := fl) hr' hst
  refine ⟨_, q, by rw [he, issue_done h hb], ?_, fun k hk' => ?_, hq, ?_⟩
  · rw [ho1, hs]
  · rw [ho2 k hk']
    have := raft?_stepStreams_other s c.r.id (c.streamsRead i) hk'
    unfold State.raft? at *; rw [hr]; exact this
  · refine ⟨?_, ?_, ?_, fun k hks => ?_⟩
    · unfold sameRaft; rw [hk, hsame]
    · rw [hk, hsame]
    · rw [hk, hsame]
    · have : q.sreg k = (c.stepped i).sreg k := by rw [hk]; rfl
      rw [this]; exact foldl_stepStream_sreg _ _ hks

/-! ### Writes of results -/

theorem vreg_setV (r : Raft) (reg lane : Nat) (x : Word) (reg' lane' : Nat) (h : lane < 64) (h' : lane' < 64) :
    (r.setV reg lane x).vreg reg' lane' = if reg' = reg ∧ lane' = lane ∧ reg < r.count then x else r.vreg reg' lane' := by
  unfold Raft.setV
  split
  · rename_i hc
    simp only [Raft.vreg, sget_sset, vKey]
    by_cases e : reg' = reg ∧ lane' = lane
    · simp [e.1, e.2, hc]
    · have : ¬(64 * reg' + lane' = 64 * reg + lane) := by omega
      simp only [this, if_false]
      have : ¬(reg' = reg ∧ lane' = lane ∧ reg < r.count) := fun h => e ⟨h.1, h.2.1⟩
      simp [this]
  · rename_i hc; simp [hc]

theorem setV_same (r : Raft) (reg lane : Nat) (x : Word) : r.setV reg lane x = { r with v := (r.setV reg lane x).v } := by
  unfold Raft.setV; split <;> rfl

theorem kind_vec {r : RegNum} : Kind.of r = .vec ↔ r.toNat < 384 := by
  unfold Kind.of; grind
theorem kind_scl {r : RegNum} : Kind.of r = .scl ↔ 384 ≤ r.toNat ∧ r.toNat < 448 := by
  unfold Kind.of; grind
theorem reg_succ {r : RegNum} (h : r.toNat < 511) : (r + 1).toNat = r.toNat + 1 := by
  simp [BitVec.toNat_add]; omega

/-- A group written to v registers below the count: those registers of the lane hold it, and nothing else changes. -/
theorem setGroup_vec (xs : List Word) : ∀ (r : Raft) (first : RegNum) (lane : Nat), lane < 64 →
    first.toNat + xs.length ≤ r.count → first.toNat + xs.length ≤ 384 →
    r.setGroup first lane xs = { r with v := (r.setGroup first lane xs).v } ∧
    ∀ reg l, l < 64 → (r.setGroup first lane xs).vreg reg l =
      if l = lane ∧ first.toNat ≤ reg then (xs[reg - first.toNat]?).getD (r.vreg reg l) else r.vreg reg l := by
  induction xs with
  | nil => intro r first lane _ _ _; exact ⟨rfl, fun reg l _ => by simp [Raft.setGroup]⟩
  | cons x xs ih =>
    intro r first lane hl hc hn
    simp only [List.length_cons] at hc hn
    have hk : Kind.of first = .vec := kind_vec.2 (by omega)
    have hstep : r.setGroup first lane (x :: xs) = (r.setV first.toNat lane x).setGroup (first + 1) lane xs := by
      rw [Raft.setGroup]; simp [hk]
    have hs := setV_same r first.toNat lane x
    have hcount : (r.setV first.toNat lane x).count = r.count := by rw [hs]
    have hsucc := reg_succ (r := first) (by omega)
    obtain ⟨h1, h2⟩ := ih (r.setV first.toNat lane x) (first + 1) lane hl (by omega) (by omega)
    rw [hstep]
    refine ⟨?_, fun reg l hl' => ?_⟩
    · rw [h1]; rw [hs]
    · rw [h2 reg l hl', vreg_setV _ _ _ _ _ _ hl hl', hsucc]
      by_cases e : l = lane
      · rcases Nat.lt_trichotomy reg first.toNat with e1 | e1 | e1
        · rw [if_neg (by omega), if_neg (by omega), if_neg (by omega)]
        · subst e1
          rw [if_neg (by omega), if_pos ⟨rfl, e, by omega⟩, if_pos ⟨e, Nat.le_refl _⟩, Nat.sub_self, List.getElem?_cons_zero, Option.getD_some]
        · have h4 : reg - first.toNat = (reg - (first.toNat + 1)) + 1 := by omega
          rw [if_pos ⟨e, by omega⟩, if_neg (by omega), if_pos ⟨e, by omega⟩, h4, List.getElem?_cons_succ]
      · rw [if_neg (fun h => e h.1), if_neg (fun h => e h.2.1), if_neg (fun h => e h.1)]

theorem setGroup_zero (xs : List Word) (r : Raft) {first : RegNum} (lane : Nat) (h : Kind.of first = .zero) :
    r.setGroup first lane xs = r := by
  cases xs <;> simp [Raft.setGroup, h]

theorem sreg_setS (r : Raft) (k j : Nat) (x : Word) : (r.setS k x).sreg j = if j = k then x else r.sreg j := by
  simp [Raft.setS, Raft.sreg, sget_sset]

/-- A group written to s registers: they hold it, a stream register among them is unbound, nothing else changes. -/
theorem setGroup_scl (xs : List Word) : ∀ (r : Raft) (first : RegNum) (lane : Nat), 384 ≤ first.toNat →
    first.toNat + xs.length ≤ 448 →
    r.setGroup first lane xs = { r with s := (r.setGroup first lane xs).s, streams := (r.setGroup first lane xs).streams } ∧
    ∀ k, (r.setGroup first lane xs).sreg k =
      if first.toNat - 384 ≤ k then (xs[k - (first.toNat - 384)]?).getD (r.sreg k) else r.sreg k := by
  induction xs with
  | nil => intro r first lane _ _; exact ⟨rfl, fun k => by simp [Raft.setGroup]⟩
  | cons x xs ih =>
    intro r first lane h0 hn
    simp only [List.length_cons] at hn
    have hk : Kind.of first = .scl := kind_scl.2 (by omega)
    have hstep : r.setGroup first lane (x :: xs) = (r.setS (first.toNat - 384) x).setGroup (first + 1) lane xs := by
      rw [Raft.setGroup]; simp [hk]
    have hsucc := reg_succ (r := first) (by omega)
    obtain ⟨h1, h2⟩ := ih (r.setS (first.toNat - 384) x) (first + 1) lane (by omega) (by omega)
    rw [hstep]
    refine ⟨?_, fun k => ?_⟩
    · rw [h1]; rfl
    · rw [h2 k, sreg_setS, hsucc, show first.toNat + 1 - 384 = (first.toNat - 384) + 1 by omega]
      generalize first.toNat - 384 = m
      rcases Nat.lt_trichotomy k m with e1 | e1 | e1
      · rw [if_neg (by omega), if_neg (by omega), if_neg (by omega)]
      · rw [e1, if_neg (by omega), if_pos rfl, if_pos (Nat.le_refl _), Nat.sub_self, List.getElem?_cons_zero, Option.getD_some]
      · have h4 : k - m = (k - (m + 1)) + 1 := by omega
        rw [if_pos (by omega), if_neg (by omega), if_pos (by omega), h4, List.getElem?_cons_succ]

/-- A group written in several lanes. -/
theorem setLanes_vec (ls : List Nat) : ∀ (r : Raft) (first : RegNum) (val : Nat → List Word) (n : Nat),
    (∀ l ∈ ls, l < 64 ∧ (val l).length = n) → first.toNat + n ≤ r.count → first.toNat + n ≤ 384 →
    r.setLanes first val ls = { r with v := (r.setLanes first val ls).v } ∧
    ∀ reg l, l < 64 → (r.setLanes first val ls).vreg reg l =
      if l ∈ ls ∧ first.toNat ≤ reg then ((val l)[reg - first.toNat]?).getD (r.vreg reg l) else r.vreg reg l := by
  induction ls with
  | nil => intro r first val n _ _ _; exact ⟨rfl, fun reg l _ => by simp [Raft.setLanes]⟩
  | cons x ls ih =>
    intro r first val n h hc hn
    have hx := h x (by simp)
    obtain ⟨g1, g2⟩ := setGroup_vec (val x) r first x hx.1 (by omega) (by omega)
    have hcount : (r.setGroup first x (val x)).count = r.count := by rw [g1]
    obtain ⟨h1, h2⟩ := ih (r.setGroup first x (val x)) first val n (fun l hl => h l (by simp [hl])) (by omega) hn
    simp only [Raft.setLanes]
    refine ⟨by rw [h1]; rw [g1], fun reg l hl => ?_⟩
    rw [h2 reg l hl, g2 reg l hl]
    by_cases e : l = x
    · subst e
      by_cases e2 : first.toNat ≤ reg
      · by_cases e3 : l ∈ ls
        · simp [e2, e3]
          cases (val l)[reg - first.toNat]? <;> simp
        · simp [e2, e3]
      · simp [e2]
    · simp [e]

theorem setLanes_zero (ls : List Nat) (val : Nat → List Word) {first : RegNum} (h : Kind.of first = .zero) (r : Raft) :
    r.setLanes first val ls = r := by
  induction ls generalizing r with
  | nil => rfl
  | cons x ls ih => simp [Raft.setLanes, setGroup_zero _ _ _ h, ih]

theorem mem_lanesOf {w l : Nat} {m : LaneMask} : l ∈ lanesOf w m ↔ l < w ∧ m.getLsbD l = true := by
  simp [lanesOf]
theorem lanes_lt {w l : Nat} {m : LaneMask} (h : l ∈ lanesOf w m) : l < 64 := by
  have := (mem_lanesOf.1 h).2
  by_cases hl : l < 64
  · exact hl
  · rw [BitVec.getLsbD_of_ge m l (by omega)] at this; simp at this

end Sys2Proof.Machine
end

