-- ==== Sys2Proof/Laws/Memory.lean ====
section
/-!
SUPPORT. The memory side: what every operation on virtual memory may change, and that it keeps the canonical form of
every memory; reads of physical memory after writes.
-/

namespace Sys2Proof.Machine

open Sys2Proof

/-- An operation of the memory side: it changes nothing else, and keeps the canonical form. -/
structure Side (s t : State) : Prop where
  frame : memSide s t
  ok : s.memOk = true → t.memOk = true

theorem Side.refl (s : State) : Side s s := ⟨rfl, id⟩
theorem Side.trans {s t u : State} (h : Side s t) (g : Side t u) : Side s u :=
  ⟨by unfold memSide; rw [g.frame, h.frame], fun k => g.ok (h.ok k)⟩
/-- A change of lines, translations, marks, counters, watches and notices alone. -/
theorem Side.light {s t : State} (h : t = { s with
    lines := t.lines, tlb := t.tlb, marks := t.marks, ringWait := t.ringWait, walks := t.walks
    bankCtr := t.bankCtr, watches := t.watches, notices := t.notices, asks := t.asks, nextId := t.nextId }) : Side s t :=
  ⟨by unfold memSide; rw [h], fun k => by rw [h]; exact k⟩

theorem memOk_iff {s : State} : s.memOk = true ↔ Sparse.wf s.pmem = true ∧ Sparse.wf s.tile = true ∧ Sparse.wf s.empty = true ∧
    ∀ e ∈ s.exchanges, Sparse.wf e.slotN = true ∧ Sparse.wf e.slotF = true := by
  simp [State.memOk, and_assoc]

theorem setFrameByte_side (s : State) (pa : Nat) (b : Byte) : Side s (s.setFrameByte pa b) := by
  unfold State.setFrameByte
  split
  · refine ⟨rfl, fun k => ?_⟩
    rw [memOk_iff] at *
    exact ⟨sset_wf _ _ k.1, k.2⟩
  · rename_i die far off _
    refine ⟨rfl, fun k => ?_⟩
    rw [memOk_iff] at *
    refine ⟨k.1, k.2.1, k.2.2.1, fun e he => ?_⟩
    simp only [List.mem_map] at he
    obtain ⟨x, hx, rfl⟩ := he
    have := k.2.2.2 x hx
    split
    · cases far <;> simp only [if_true, Bool.false_eq_true, if_false]
      · exact ⟨sset_wf _ _ this.1, this.2⟩
      · exact ⟨this.1, sset_wf _ _ this.2⟩
    · exact this

theorem physPut_side (bs : List Byte) : ∀ (s : State) (pa : Nat), Side s (s.physPut pa bs) := by
  induction bs with
  | nil => intro s pa; exact Side.refl s
  | cons b bs ih => intro s pa; exact (setFrameByte_side s pa b).trans (ih _ _)
theorem setPhys64_side (s : State) (pa : Nat) (x : DWord) : Side s (s.setPhys64 pa x) := physPut_side _ _ _
theorem bump_side (s : State) (asid va c n : Nat) : Side s (s.bump asid va c n) := Side.light rfl
theorem trimTlb_side (s : State) (side : Nat) : Side s (s.trimTlb side) := by
  unfold State.trimTlb
  dsimp only
  split
  · exact Side.refl s
  · exact Side.light rfl
theorem installWalk_side (s : State) (asid va : Nat) (acc : Acc) (r : WalkResult) : Side s (s.installWalk asid va acc r) := by
  unfold State.installWalk
  dsimp only
  split
  · exact (Side.light rfl).trans (trimTlb_side _ _)
  · split
    · exact Side.light rfl
    · exact (Side.light rfl).trans (trimTlb_side _ _)
  · exact Side.light rfl
theorem walkPage_side (s : State) (asid va : Nat) (acc : Acc) : Side s (s.walkPage asid va acc) := installWalk_side _ _ _ _ _
theorem askWalk_side (s : State) (asid va : Nat) (acc : Acc) : Side s (s.askWalk asid va acc) := by
  unfold State.askWalk
  split
  · exact Side.refl s
  · exact Side.light rfl
theorem setAD_side {s t : State} {e : TlbEntry} {bits : DWord} (h : s.setAD e bits = some t) : Side s t := by
  unfold State.setAD at h
  dsimp only at h
  split at h
  · injection h with h
    split at h
    · rw [← h]; exact Side.refl s
    · rw [← h]; exact setPhys64_side _ _ _
  · simp at h
theorem setAD_getD_side (s : State) (e : TlbEntry) (bits : DWord) : Side s ((s.setAD e bits).getD s) := by
  cases h : s.setAD e bits with
  | none => exact Side.refl s
  | some t => exact setAD_side h
theorem touchPte_side (s : State) (asid va : Nat) (bits : DWord) : Side s (s.touchPte asid va bits).1 := by
  unfold State.touchPte
  split
  · exact Side.refl s
  · split
    · rename_i h; exact setAD_side h
    · split
      · exact setAD_getD_side _ _ _
      · exact Side.refl s
theorem fire_side (s : State) (asid line : Nat) : Side s (s.fire asid line) := Side.light rfl

theorem evict_side (s : State) (l : L2Line) : Side s (s.evict l) := by
  unfold State.evict
  have h1 : Side s { s with lines := dropLine s.lines l.asid l.line } := Side.light rfl
  dsimp only
  split
  · exact h1
  · have h2 := (h1.trans (bump_side _ l.asid (128 * l.line) 2 1)).trans (touchPte_side _ l.asid (128 * l.line) 0x80#64)
    split
    · rename_i h; rw [h] at h2; exact h2.trans (physPut_side _ _ _)
    · rename_i h; rw [h] at h2; exact h2

theorem makeRoom_side (asid line need tags : Nat) (count : Bool) : ∀ (fuel : Nat) (s : State),
    Side s (State.makeRoom asid line need tags count fuel s) := by
  intro fuel
  induction fuel with
  | zero => intro s; exact Side.refl s
  | succ n ih =>
    intro s
    simp only [State.makeRoom]
    split
    · split
      · exact Side.refl s
      · rename_i l _ _
        have h := evict_side s l
        split
        · exact (h.trans (bump_side _ _ _ _ _)).trans (ih _)
        · exact h.trans (ih _)
    · exact Side.refl s

theorem fillLine_side (s : State) (e : TlbEntry) (asid va : Nat) (pfm asked : Bool) : Side s (s.fillLine e asid va pfm asked) := by
  unfold State.fillLine
  refine Side.trans ?_ (bump_side _ _ _ _ _)
  exact Side.trans (makeRoom_side _ _ _ _ _ _ s) (Side.light rfl)

theorem useEntry_side {s t : State} {asid va : Nat} {acc : Acc} {e : TlbEntry} {asked : Bool} {v : Verdict}
    (h : s.useEntry asid va acc e asked = some (t, v)) : Side s t := by
  unfold State.useEntry at h
  split at h
  · injection h with h; injection h with h _; rw [← h]; exact Side.refl s
  · dsimp only at h
    split at h
    · simp at h
    · rename_i hs
      injection h with h; injection h with h _
      rw [← h]
      split
      · exact setAD_side hs
      · exact (setAD_side hs).trans (fillLine_side _ _ _ _ _ _)
theorem useEntry_getD_side (s : State) (asid va : Nat) (acc : Acc) (e : TlbEntry) (v : Verdict) :
    Side s ((s.useEntry asid va acc e).getD (s, v)).1 := by
  cases h : s.useEntry asid va acc e with
  | none => exact Side.refl s
  | some r => exact useEntry_side (v := r.2) (by rw [h]; rfl)

theorem hitLine_side (s : State) (asid va : Nat) (l : L2Line) (again : Bool) : Side s (s.hitLine asid va l again) := by
  unfold State.hitLine
  dsimp only
  have h1 : Side s { s with lines := dropLine s.lines l.asid l.line ++ [{ l with pfm := false, asked := false }] } := Side.light rfl
  have h2 := h1.trans (bump_side _ asid va (hitCounter l.data) 1)
  split
  · split
    · exact h1.trans (touchPte_side _ _ _ _)
    · exact h2.trans (touchPte_side _ _ _ _)
  · split
    · exact h1
    · exact h2

theorem missAt_side (s : State) (asid va : Nat) (acc : Acc) : Side s (s.missAt asid va acc).1 := by
  unfold State.missAt
  split
  · exact askWalk_side _ _ _ _
  · dsimp only
    split <;> exact walkPage_side _ _ _ _
theorem entryAt_side (s : State) (asid va : Nat) (acc : Acc) : Side s (s.entryAt asid va acc).1 := by
  unfold State.entryAt
  split
  · exact Side.refl s
  · split
    · exact Side.refl s
    · exact missAt_side _ _ _ _
/-- What a home reports of an access changes translations and marks alone. -/
theorem probe_side (s : State) (asid va : Nat) (acc : Acc) : Side s (s.probe asid va acc).1 := by
  unfold State.probe
  split
  · exact Side.refl s
  · split
    · exact Side.refl s
    · have h := entryAt_side s asid va acc
      split
      · rename_i h1; rw [h1] at h; exact h
      · rename_i h1; rw [h1] at h; exact h
/-- What an access meets at its home. -/
theorem reach_side (s : State) (asid va : Nat) (acc : Acc) (again : Bool) : Side s (s.reach asid va acc again).1 := by
  unfold State.reach
  split
  · exact Side.refl s
  · split
    · split
      · exact Side.refl s
      · exact hitLine_side _ _ _ _ _
    · have h := entryAt_side s asid va acc
      split
      · rename_i h1; rw [h1] at h; exact h
      · rename_i s1 _ e h1
        rw [h1] at h
        split
        · rename_i h2; exact h.trans (useEntry_side (v := _) h2)
        · have h3 := missAt_side s1 asid va acc
          split
          · rename_i h4; rw [h4] at h3; exact h.trans h3
          · rename_i h4; rw [h4] at h3; exact (h.trans h3).trans (useEntry_getD_side _ _ _ _ _ _)

theorem asking_side (s : State) (asid va : Nat) (acc : Acc) (again : Bool) : Side s (s.asking asid va acc again) := by
  unfold State.asking
  split
  · exact Side.refl s
  · exact Side.light rfl
/-- One access made ready at its home. -/
theorem ensure_side (s : State) (asid va : Nat) (acc : Acc) (again : Bool) : Side s (s.ensure asid va acc again).1 := by
  have h := reach_side s asid va acc again
  unfold State.ensure
  split
  · rename_i h1; rw [h1] at h; exact h.trans (asking_side _ _ _ _ _)
  · exact h

theorem homePut_side (s : State) (asid va : Nat) (bytes : List Byte) : Side s (s.homePut asid va bytes) := by
  unfold State.homePut
  cases s.l2At asid va with
  | some l =>
    dsimp only
    refine Side.trans ?_ (fire_side _ _ _)
    have h := makeRoom_side asid l.line (sectorsOf (overlay l.data (va57 va % 128) bytes)) 1 true 24 s
    revert h
    generalize State.makeRoom asid l.line (sectorsOf (overlay l.data (va57 va % 128) bytes)) 1 true 24 s = m
    exact fun h => h.trans (Side.light rfl)
  | none =>
    cases s.entryFor asid va with
    | none => exact Side.refl s
    | some e =>
      dsimp only
      exact (physPut_side bytes s (e.pa va)).trans (fire_side _ asid (va57 va / 128))

theorem ensureAll_side (asid : Nat) (acc : Acc) (again : Bool) : ∀ (ps : List (Nat × Nat)) (s : State),
    Side s (State.ensureAll asid acc again ps s).1 := by
  intro ps
  induction ps with
  | nil => intro s; exact Side.refl s
  | cons p ps ih =>
    intro s
    simp only [State.ensureAll]
    have h := ensure_side s asid p.1 acc again
    split
    · rename_i h1; rw [h1] at h; exact h.trans (ih _)
    · exact h

theorem writeLines_side (asid : Nat) : ∀ (ps : List (Nat × List Byte)) (s : State), Side s (State.writeLines asid ps s) := by
  intro ps
  induction ps with
  | nil => intro s; exact Side.refl s
  | cons p ps ih => intro s; exact ((ensure_side s asid p.1 .write true).trans (homePut_side _ _ _ _)).trans (ih _)

theorem readAt_side (s : State) (asid va n : Nat) (acc : Acc) (again : Bool) : Side s (s.readAt asid va n acc again).1 := by
  unfold State.readAt
  have h := ensureAll_side asid acc again (linePieces va n) s
  split
  · rename_i h1; rw [h1] at h; exact h
  · rename_i h1; rw [h1] at h; exact h
theorem writeAt_side (s : State) (asid va : Nat) (bytes : List Byte) (again : Bool) : Side s (s.writeAt asid va bytes again).1 := by
  unfold State.writeAt
  have h := ensureAll_side asid .write again (linePieces va bytes.length) s
  split
  · rename_i h1; rw [h1] at h; exact h.trans (writeLines_side _ _ _)
  · exact h

/-! ### Tile memory -/

theorem tilePut_ok {s : State} (core off : Nat) (bytes : List Byte) (h : s.memOk = true) : (s.tilePut core off bytes).memOk = true := by
  unfold State.tilePut
  split
  · rw [memOk_iff] at *; exact ⟨h.1, ssets_wf _ _ h.2.1, h.2.2⟩
  · exact (physPut_side _ _ _).ok h
theorem setFull_ok {s : State} (core line : Nat) (full : Bool) (h : s.memOk = true) : (s.setFull core line full).memOk = true := by
  unfold State.setFull
  split
  · rw [memOk_iff] at *; exact ⟨h.1, h.2.1, sset_wf _ _ h.2.2.1, h.2.2.2⟩
  · exact (setFrameByte_side _ _ _).ok h

/-! ### Physical memory outside an exchange -/

theorem frameByte_setFrameByte {s : State} (h : s.exchanges = []) (pa x : Nat) (b : Byte) :
    (s.setFrameByte pa b).frameByte x = if x = pa then b else s.frameByte x := by
  simp [State.setFrameByte, State.frameByte, State.frameAt, h, sget_sset]
theorem setFrameByte_exchanges {s : State} (h : s.exchanges = []) (pa : Nat) (b : Byte) : (s.setFrameByte pa b).exchanges = [] := by
  simp [State.setFrameByte, State.frameAt, h]

/-- A run of bytes written outside an exchange: those bytes, and no others. -/
theorem frameByte_physPut (bs : List Byte) : ∀ {s : State} (pa x : Nat), s.exchanges = [] →
    (s.physPut pa bs).frameByte x = if pa ≤ x then (bs[x - pa]?).getD (s.frameByte x) else s.frameByte x := by
  induction bs with
  | nil => intro s pa x _; simp [State.physPut]
  | cons b bs ih =>
    intro s pa x h
    rw [State.physPut, ih _ _ (setFrameByte_exchanges h pa b), frameByte_setFrameByte h]
    rcases Nat.lt_trichotomy x pa with e | e | e
    · rw [if_neg (by omega), if_neg (by omega), if_neg (by omega)]
    · rw [if_neg (by omega), if_pos e, if_pos (by omega), e, Nat.sub_self, List.getElem?_cons_zero, Option.getD_some]
    · rw [if_pos (by omega), if_neg (by omega), if_pos (by omega), show x - pa = (x - (pa + 1)) + 1 by omega, List.getElem?_cons_succ]

/-! ### What a step adds around its move -/

/-- The flits and the ages that a step adds leave the memories as they are. -/
theorem memOk_carry (s b : State) : (s.carry b).memOk = s.memOk := by simp [State.memOk]
theorem memOk_readied (s : State) : s.readied.memOk = s.memOk := rfl

end Sys2Proof.Machine
end

