-- ==== Sys2Proof/Laws/LoadStore.lean ====
section
/-!
SUPPORT. The load-store unit: an access that nothing keeps back becomes one request.
-/

namespace Sys2Proof.Machine

open Sys2Proof

/-- Whether a way is clear hangs on the links alone, and whether a request may set out on the homes as well. -/
theorem pathClear_congr {s t : State} (h : t.links = s.links) (n : Nat) : ∀ here dest, t.pathClear here dest n = s.pathClear here dest n := by
  induction n with
  | zero => intro _ _; rfl
  | succ n ih => intro here dest; simp only [State.pathClear, h, ih]
theorem sendable_congr {s t : State} (h : t.links = s.links) (hh : t.home = s.home) (q : Req) : t.sendable q = s.sendable q := by
  have e : t.wayClear = s.wayClear := by funext a b; exact pathClear_congr h 4 a b
  simp only [State.sendable, State.farDies, State.homeOf, e, hh]

/-- An access that nothing keeps back: its request is in flight, and nothing else has changed. -/
theorem access_done {s : State} {c : Ctx} {f : MF} {kind : ReqKind} {write : Bool} {dest : Option Dest} {data : Nat → List Byte} {accs : List LaneAcc}
    (h : Admitted s c f write accs (c.request s f kind dest data accs)) :
    c.access s f kind write dest data accs = .done (s.withReq (c.request s f kind dest data accs)) .next := by
  unfold Ctx.access
  rw [h.checks]; dsimp only
  rw [h.unwatched]; dsimp only
  split
  · rename_i g; exact absurd rfl h.some
  · unfold Ctx.launchReq
    have hrel : (if (c.request s f kind dest data accs).rel then worst (State.releaseWork { s with nextId := s.nextId + 1 } c.r.id (c.request s f kind dest data accs).mask) else Block.free) = .free := by
      split
      · rename_i g; exact h.released g
      · rfl
    rw [hrel]
    dsimp only [Block.orElse]
    rw [if_neg, if_neg]
    · rfl
    · have h1 := h.entries
      simp only [Bool.or_eq_true, Bool.and_eq_true, decide_eq_true_eq, not_or, not_and, Nat.not_lt, Nat.not_le, beq_iff_eq, List.any_eq_true,
        not_exists]
      refine ⟨⟨⟨⟨h1, h.loads⟩, h.stores⟩, ?_⟩, ?_⟩
      · intro hk p hp
        split
        · rename_i k hs
          simp only [decide_eq_true_eq, Nat.not_le]
          exact h.table hk p hp k hs
        · simp
      · simpa using (sendable_congr (t := { s with nextId := s.nextId + 1 }) rfl rfl _).trans h.ways
    · have := h.replay
      simp only [Bool.and_eq_true, decide_eq_true_eq, not_and]
      intro g
      obtain h2 | h2 := this
      · exact absurd (show 64 ≤ s.replayEntries c.r.id + s.replayComing c.r.id from g) (by omega)
      · exact Bool.eq_false_iff.mp h2

end Sys2Proof.Machine
end

