-- ==== Sys2Proof/Laws/Vector.lean ====
section
/-!
SUPPORT. The shapes of vector instructions: an instruction that issues writes what its shape says, once for all of them.
-/

namespace Sys2Proof.Machine

open Sys2Proof

/-! ### What the checks of an instruction that issues say of its operands -/

theorem legal_parts {c : Ctx} {i : Instr} (h : c.refuse i = none) : WellFormed i = true ∧ c.checks i = true := by
  unfold Ctx.refuse at h
  split at h
  · simp at h
  · split at h
    · rename_i g; simpa using g
    · simp at h

theorem legal_opd {c : Ctx} {i : Instr} (h : c.refuse i = none) {o : Opd} (ho : o ∈ opds i) :
    o.ok = true ∧ (Kind.of o.first = .vec → (c.reg o.first).toNat + o.n ≤ c.r.count ∧ (c.reg o.first).toNat + o.n ≤ 384) := by
  obtain ⟨hw, hc⟩ := legal_parts h
  simp only [WellFormed, encodingOk, Bool.and_eq_true, List.all_eq_true] at hw
  simp only [Ctx.checks, Bool.and_eq_true, List.all_eq_true] at hc
  refine ⟨hw.2 o ho, fun hk => ?_⟩
  have := hc.1.1.1.1 o ho
  simp only [hk, bne_self_eq_false, Bool.false_or, decide_eq_true_eq] at this
  omega

theorem ok_scl {o : Opd} (h : o.ok = true) (hk : Kind.of o.first = .scl) : 384 ≤ o.first.toNat ∧ o.first.toNat + o.n ≤ 448 := by
  simp only [Opd.ok, hk, Bool.and_eq_true, decide_eq_true_eq] at h
  exact ⟨(kind_scl.1 hk).1, h.2.2⟩

theorem reg_other {c : Ctx} {d : RegNum} (h : Kind.of d ≠ .vec) : c.reg d = d := by
  unfold Ctx.reg; split
  · rfl
  · simp [h]

theorem mem_lanes_lt {c : Ctx} {l : Nat} (h : l ∈ c.lanes) : l < 64 := lanes_lt h

/-! ### Results -/

/-- A raft after a change that keeps all but registers, then the end of the slot. -/
theorem answers_of {s s1 : State} {c : Ctx} {i : Instr} {body : State → Ctx → Res} {fl : Flow} {q : Raft} {p : Raft → Prop}
    (h : Issues s c i) (he : exec i s = issue i s body)
    (hb : body (s.stepStreams c.r.id (c.streamsRead i)) c = .done s1 fl)
    (ho : onlyRaft s s1 c.r.id) (hq : s1.raft? c.r.id = some q)
    (hsame : q = { c.r with v := q.v, s := q.s, p := q.p, streams := q.streams })
    (hp : ∀ q', keeps q q' → p q') : Answers s c i p := by
  have hst : q.stopping = none := by rw [hsame]; exact h.going
  obtain ⟨⟨ho1, ho2⟩, q', hq', hk⟩ := passSlot_keeps (e := c.e) (fl := fl) hq hst
  refine ⟨_, q', by rw [he, issue_done h hb], ⟨onlyRafts_trans ho.1 ho1, fun k hk' => by rw [ho2 k hk', ho.2 k hk']⟩, hq', ?_, hp q' hk⟩
  unfold sameRaft; rw [hk, hsame]

theorem stepStreams_only (s : State) (c : Ctx) (i : Instr) : onlyRaft s (s.stepStreams c.r.id (c.streamsRead i)) c.r.id :=
  ⟨rfl, fun _ hk => raft?_stepStreams_other s _ _ hk⟩

theorem mapRaft_only {s : State} {id : Nat} {f : Raft → Raft} (hf : ∀ x, x.id = id → (f x).id = id) : onlyRaft s (s.mapRaft id f) id :=
  ⟨rfl, fun _ hk => raft?_mapRaft_other hf hk⟩
theorem onlyRaft_trans {s t u : State} {id : Nat} (h : onlyRaft s t id) (g : onlyRaft t u id) : onlyRaft s u id :=
  ⟨onlyRafts_trans h.1 g.1, fun k hk => by rw [g.2 k hk, h.2 k hk]⟩

/-- The id of a raft is kept by every write of registers. -/
theorem setGroup_id (xs : List Word) : ∀ (r : Raft) (d : RegNum) (l : Nat), (r.setGroup d l xs).id = r.id := by
  induction xs with
  | nil => intros; rfl
  | cons x xs ih =>
    intro r d l
    simp only [Raft.setGroup]
    have h1 : (match Kind.of d with
      | .vec => r.setV d.toNat l x
      | .scl => r.setS (d.toNat - 384) x
      | _ => r).id = r.id := by
      split
      · rw [setV_same]
      · rfl
      · rfl
    split
    · exact h1
    · rw [ih]; exact h1
theorem setLanes_id (ls : List Nat) (val : Nat → List Word) (d : RegNum) : ∀ r : Raft, (r.setLanes d val ls).id = r.id := by
  induction ls with
  | nil => intro r; rfl
  | cons l ls ih => intro r; rw [Raft.setLanes, ih, setGroup_id]

/-- An instruction that writes the same group in lanes: the register part of its answer. -/
theorem written_vec {c : Ctx} {i : Instr} {d : RegNum} {vals : Nat → List Word} {once : Option (List Word)} {n : Nat} {q : Raft}
    (hk : Kind.of d = .vec) (hn : ∀ l ∈ c.lanes, (vals l).length = n)
    (hc : (c.reg d).toNat + n ≤ c.r.count) (h384 : (c.reg d).toNat + n ≤ 384)
    (hq : keeps ((c.stepped i).setLanes (c.reg d) vals c.lanes) q) : Written c i d vals once q := by
  have hstep := stepped_same c i
  have hcount : (c.stepped i).count = c.r.count := by rw [hstep]
  obtain ⟨h1, h2⟩ := setLanes_vec c.lanes (c.stepped i) (c.reg d) vals n (fun l hl => ⟨mem_lanes_lt hl, hn l hl⟩) (by omega) h384
  have hv : ∀ reg l, q.vreg reg l = ((c.stepped i).setLanes (c.reg d) vals c.lanes).vreg reg l := by
    intro reg l; rw [hq]; rfl
  have hsv : ∀ reg l, (c.stepped i).vreg reg l = c.r.vreg reg l := by intro reg l; rw [hstep]; rfl
  refine ⟨fun _ l hl j hj => ?_, fun hs => (nomatch hk.symm.trans hs), fun reg l hl hno => ?_, fun k _ hks => ?_, ?_⟩
  · rw [hv, h2 _ _ (mem_lanes_lt hl), if_pos ⟨hl, by omega⟩, Nat.add_sub_cancel_left]
    rw [List.getElem?_eq_getElem hj]; rfl
  · rw [hv, h2 _ _ hl]
    split
    · rename_i g
      have : ¬(reg - (c.reg d).toNat < (vals l).length) := fun hlt => hno ⟨hk, g.1, g.2, by omega⟩
      rw [List.getElem?_eq_none (by omega), hsv]; rfl
    · exact hsv reg l
  · have : q.sreg k = (c.stepped i).sreg k := by rw [hq, h1]; rfl
    rw [this]; exact foldl_stepStream_sreg _ _ hks
  · rw [hq, h1, hstep]

theorem written_scl {c : Ctx} {i : Instr} {d : RegNum} {vals : Nat → List Word} {xs : List Word} {lane : Nat} {q : Raft}
    (hk : Kind.of d = .scl) (h448 : d.toNat + xs.length ≤ 448)
    (hq : keeps ((c.stepped i).setGroup d lane xs) q) : Written c i d vals (some xs) q := by
  have hstep := stepped_same c i
  obtain ⟨h1, h2⟩ := setGroup_scl xs (c.stepped i) d lane (kind_scl.1 hk).1 h448
  have hs : ∀ k, q.sreg k = ((c.stepped i).setGroup d lane xs).sreg k := by intro k; rw [hq]; rfl
  refine ⟨fun hv => (nomatch hk.symm.trans hv), fun _ ys hy j hj => ?_, fun reg l _ _ => ?_, fun k hno hks => ?_, ?_⟩
  · injection hy with hy; subst hy
    rw [hs, h2, if_pos (by omega), Nat.add_sub_cancel_left, List.getElem?_eq_getElem hj]; rfl
  · rw [hq, h1, hstep]; rfl
  · rw [hs, h2]
    have hb : (c.stepped i).sreg k = c.r.sreg k := foldl_stepStream_sreg _ _ hks
    split
    · rename_i g
      have : ¬(k - (d.toNat - 384) < xs.length) := fun hlt => hno ⟨hk, g, by simp; omega⟩
      rw [List.getElem?_eq_none (by omega), hb]; rfl
    · exact hb
  · rw [hq, h1, hstep]

theorem written_none {c : Ctx} {i : Instr} {d : RegNum} {vals : Nat → List Word} {once : Option (List Word)} {q : Raft}
    (hv : Kind.of d = .vec → c.lanes = []) (hs : Kind.of d = .scl → once = none)
    (hq : keeps (c.stepped i) q) : Written c i d vals once q := by
  have hstep := stepped_same c i
  refine ⟨fun hk l hl => (by rw [hv hk] at hl; simp at hl), fun hk xs hx => (nomatch (hs hk).symm.trans hx), fun reg l _ _ => ?_,
    fun k _ hks => ?_, ?_⟩
  · rw [hq, hstep]; rfl
  · have : q.sreg k = (c.stepped i).sreg k := by rw [hq]; rfl
    rw [this]; exact foldl_stepStream_sreg _ _ hks
  · rw [hq, hstep]

/-- The results that `put` writes. -/
theorem put_answers {s : State} {c : Ctx} {i : Instr} {d : RegNum} {val : Nat → List Word} {body : State → Ctx → Res}
    (h : Issues s c i) (he : exec i s = issue i s body)
    (hb : body (s.stepStreams c.r.id (c.streamsRead i)) c = .done (c.put (s.stepStreams c.r.id (c.streamsRead i)) d val) .next)
    {o : Opd} (ho : o ∈ opds i) (hd : o.first = d) (hn : ∀ l, (val l).length = o.n)
    (hk : Kind.of d = .vec ∨ Kind.of d = .scl ∨ Kind.of d = .zero) : WritesLanes s c i d val := by
  subst hd
  obtain ⟨hok, hfit⟩ := legal_opd h.legal ho
  have hr := raft?_stepStreams h.ctx i
  have hsame := stepped_same c i
  cases hl : c.lanes with
  | nil =>
    have hput : c.put (s.stepStreams c.r.id (c.streamsRead i)) o.first val = s.stepStreams c.r.id (c.streamsRead i) := by
      simp [Ctx.put, hl]
    rw [hput] at hb
    refine answers_of h he hb (stepStreams_only s c i) hr (by rw [hsame]) (fun q hq => ?_)
    exact written_none (fun _ => hl) (fun _ => by simp [hl]) hq
  | cons l ls =>
    have hvl : ∀ x, c.valueLane x = if c.uni then l else x := by intro x; simp [Ctx.valueLane, hl]
    let g : Raft → Raft := fun r => if Kind.of o.first = .scl then r.setGroup o.first l (val l)
      else r.setLanes (c.reg o.first) (if c.uni then fun _ => val l else val) (l :: ls)
    have hput : c.put (s.stepStreams c.r.id (c.streamsRead i)) o.first val =
        (s.stepStreams c.r.id (c.streamsRead i)).mapRaft c.r.id g := by simp [Ctx.put, hl, g]
    have hgid : ∀ x : Raft, x.id = c.r.id → (g x).id = c.r.id := by
      intro x hx; simp only [g]; split
      · rw [setGroup_id]; exact hx
      · rw [setLanes_id]; exact hx
    rw [hput] at hb
    have hvals : (if c.uni then fun _ => val l else val) = fun x => val (c.valueLane x) := by
      funext x; rw [hvl]; split <;> rfl
    rcases hk with hk | hk | hk
    · have hfit := hfit hk
      have hg : g (c.stepped i) = (c.stepped i).setLanes (c.reg o.first) (fun x => val (c.valueLane x)) c.lanes := by
        simp only [g, hk, hvals, hl]; simp
      have hcount : (c.stepped i).count = c.r.count := by rw [hsame]
      have h1 := (setLanes_vec c.lanes (c.stepped i) (c.reg o.first) (fun x => val (c.valueLane x)) o.n
        (fun l hl => ⟨mem_lanes_lt hl, hn _⟩) (by omega) hfit.2).1
      refine answers_of h he hb (onlyRaft_trans (stepStreams_only s c i) (mapRaft_only hgid)) (raft?_mapRaft_same hgid hr) ?_
        (fun q hq => ?_)
      · rw [hg, h1]; rw [hsame]
      · rw [hg] at hq; exact written_vec hk (fun l _ => hn _) hfit.1 hfit.2 hq
    · have hfit := ok_scl hok hk
      have hg : g (c.stepped i) = (c.stepped i).setGroup o.first l (val l) := by simp [g, hk]
      have h1 := (setGroup_scl (val l) (c.stepped i) o.first l (kind_scl.1 hk).1 (by rw [hn]; exact hfit.2)).1
      refine answers_of h he hb (onlyRaft_trans (stepStreams_only s c i) (mapRaft_only hgid)) (raft?_mapRaft_same hgid hr) ?_
        (fun q hq => ?_)
      · rw [hg, h1]; rw [hsame]
      · rw [hg] at hq
        have : (c.lanes.head?).map val = some (val l) := by simp [hl]
        rw [this]; exact written_scl hk (by rw [hn]; exact hfit.2) hq
    · have hnv : Kind.of o.first ≠ .vec := by rw [hk]; exact nofun
      have hns : Kind.of o.first ≠ .scl := by rw [hk]; exact nofun
      have hg : g (c.stepped i) = c.stepped i := by
        simp only [g, hns, if_false]; rw [reg_other hnv]; exact setLanes_zero _ _ hk _
      refine answers_of h he hb (onlyRaft_trans (stepStreams_only s c i) (mapRaft_only hgid)) (raft?_mapRaft_same hgid hr) ?_
        (fun q hq => ?_)
      · rw [hg]; rw [hsame]
      · rw [hg] at hq; exact written_none (fun g => absurd g hnv) (fun g => absurd g hns) hq

/-- An instruction that writes each enabled lane's value to D. -/
theorem laneWrite_writes {s : State} {c : Ctx} {i : Instr} {d : RegNum} {val : State → Ctx → Nat → List Word}
    (h : Issues s c i) (he : exec i s = laneWrite i s d val)
    (hv : val (s.stepStreams c.r.id (c.streamsRead i)) c = val s c)
    {o : Opd} (ho : o ∈ opds i) (hd : o.first = d) (hn : ∀ l, (val s c l).length = o.n)
    (hk : Kind.of d = .vec ∨ Kind.of d = .scl ∨ Kind.of d = .zero) : WritesLanes s c i d (val s c) :=
  put_answers h he (by simp only [hv]) ho hd hn hk

/-- The kinds of a destination operand. -/
theorem dst_kind {c : Ctx} {i : Instr} (h : c.refuse i = none) {fl : Fld} {r : RegNum} {n : Nat} (ho : Opd.dst fl r n ∈ opds i) :
    Kind.of r = .vec ∨ Kind.of r = .scl ∨ Kind.of r = .zero := by
  have := (legal_opd h ho).1
  simp only [Opd.ok, Opd.dst, Bool.and_eq_true, List.contains_iff_mem] at this
  simpa using this.1

/-- A format V3 instruction that writes D: the one lemma for its whole family. -/
theorem writes_of_laneWrite {s : State} {c : Ctx} {i : Instr} {d : RegNum} {val : State → Ctx → Nat → List Word} {n : Nat}
    (h : Issues s c i) (he : exec i s = laneWrite i s d val) (ho : Opd.dst .d d n ∈ opds i)
    (hn : ∀ l, (val s c l).length = n) (hv : val (s.stepStreams c.r.id (c.streamsRead i)) c = val s c := by rfl) :
    WritesLanes s c i d (val s c) :=
  laneWrite_writes h he hv ho rfl hn (dst_kind h.legal ho)

/-- Predicate registers after a write of one of them. -/
theorem preg_setP (r : Raft) (k : Nat) (lanes val : LaneMask) (k' l : Nat) : ((r.setP k lanes val).preg k').getLsbD l =
    if k' = k ∧ l < 64 ∧ lanes.getLsbD l = true then val.getLsbD l else (r.preg k').getLsbD l := by
  simp only [Raft.setP, Raft.preg, sget_sset]
  by_cases h : k' = k
  · subst h
    by_cases hl : l < 64
    · rw [if_pos rfl, BitVec.getLsbD_or, BitVec.getLsbD_and, BitVec.getLsbD_and, BitVec.getLsbD_not]
      cases hm : lanes.getLsbD l <;> simp [hl]
    · simp [hl, BitVec.getLsbD_of_ge _ l (Nat.le_of_not_lt hl)]
  · simp [h]

theorem getLsbD_foldl_maskOf (ls : List Nat) : ∀ (m : LaneMask) (l : Nat), l < 64 →
    (ls.foldl (fun m x => m ||| (1#64 <<< x)) m).getLsbD l = (m.getLsbD l || ls.contains l) := by
  induction ls with
  | nil => simp
  | cons x ls ih =>
    intro m l hl
    rw [List.foldl_cons, ih _ l hl]
    have : (1#64 <<< x).getLsbD l = decide (l = x) := by
      rw [BitVec.getLsbD_shiftLeft]
      by_cases h : l = x
      · subst h; simp [hl]
      · by_cases h2 : l < x
        · simp [h, h2]
        · have : l - x ≠ 0 := by omega
          simp [h, this]
    rw [BitVec.getLsbD_or, this, List.contains_cons, Bool.or_assoc]
    rfl
theorem getLsbD_maskOf (ls : List Nat) {l : Nat} (hl : l < 64) : (maskOf ls).getLsbD l = ls.contains l := by
  unfold maskOf; rw [getLsbD_foldl_maskOf ls 0 l hl]; simp

/-- An instruction that writes a predicate in each enabled lane. -/
theorem putP_answers {s : State} {c : Ctx} {i : Instr} {d : RegNum} {val : Nat → Bool} {body : State → Ctx → Res}
    (h : Issues s c i) (he : exec i s = issue i s body)
    (hb : body (s.stepStreams c.r.id (c.streamsRead i)) c = .done (c.putP (s.stepStreams c.r.id (c.streamsRead i)) d val) .next) :
    WritesPred s c i d val := by
  have hr := raft?_stepStreams h.ctx i
  have hsame := stepped_same c i
  have hsreg : ∀ q, keeps (c.stepped i) q → ∀ k, (∀ j ∈ c.streamsRead i, k ≠ 60 + j) → q.sreg k = c.r.sreg k := by
    intro q hq k hk
    have : q.sreg k = (c.stepped i).sreg k := by rw [hq]; rfl
    rw [this]; exact foldl_stepStream_sreg _ _ hk
  cases hl : c.lanes with
  | nil =>
    have hput : c.putP (s.stepStreams c.r.id (c.streamsRead i)) d val = s.stepStreams c.r.id (c.streamsRead i) := by
      simp [Ctx.putP, hl]
    rw [hput] at hb
    refine answers_of h he hb (stepStreams_only s c i) hr (by rw [hsame]) (fun q hq => ?_)
    refine ⟨fun l hx => by rw [hl] at hx; simp at hx, fun k l _ _ => ?_, ?_, hsreg q hq⟩
    · rw [hq, hsame]; rfl
    · rw [hq, hsame]
  | cons x xs =>
    let bits : LaneMask := if c.uni then (if val x then c.active else 0) else maskOf ((x :: xs).filter val)
    have hput : c.putP (s.stepStreams c.r.id (c.streamsRead i)) d val =
        (s.stepStreams c.r.id (c.streamsRead i)).mapRaft c.r.id (fun r => r.setP (d.toNat - 480) (maskOf (x :: xs)) bits) := by
      simp [Ctx.putP, hl, bits]
    rw [hput] at hb
    have hid : ∀ y : Raft, y.id = c.r.id → (y.setP (d.toNat - 480) (maskOf (x :: xs)) bits).id = c.r.id := fun y hy => hy
    refine answers_of h he hb (onlyRaft_trans (stepStreams_only s c i) (mapRaft_only hid)) (raft?_mapRaft_same hid hr) ?_ (fun q hq => ?_)
    · show _ = _; rw [hsame]; rfl
    · have hp : ∀ k l, (q.preg k).getLsbD l =
          if k = d.toNat - 480 ∧ l < 64 ∧ (maskOf c.lanes).getLsbD l = true then bits.getLsbD l else (c.r.preg k).getLsbD l := by
        intro k l
        have : q.preg k = ((c.stepped i).setP (d.toNat - 480) (maskOf (x :: xs)) bits).preg k := by rw [hq]; rfl
        rw [this, preg_setP, hl]
        have : (c.stepped i).preg k = c.r.preg k := by rw [hsame]; rfl
        rw [this]
      have hmem : ∀ l, l < 64 → ((maskOf c.lanes).getLsbD l = true ↔ l ∈ c.lanes) := by
        intro l hl'; rw [getLsbD_maskOf _ hl']; simp
      refine ⟨fun l hlm => ?_, fun k l hl' hno => ?_, ?_, fun k hk => ?_⟩
      · have h64 := mem_lanes_lt hlm
        rw [hp, if_pos ⟨rfl, h64, (hmem l h64).2 hlm⟩]
        simp only [bits, Ctx.valueLane, hl, List.head?_cons, Option.getD_some]
        split
        · cases val x
          · simp
          · simpa using (mem_lanesOf.1 hlm).2
        · rw [getLsbD_maskOf _ h64]
          rw [hl] at hlm
          cases hv : val l
          · simp [List.contains_eq_mem, List.mem_filter, hv]
          · simp [List.contains_eq_mem, List.mem_filter, hv]; simpa using hlm
      · rw [hp, if_neg]
        rintro ⟨h1, _, h3⟩
        exact hno ⟨h1, (hmem l hl').1 h3⟩
      · rw [hq, show ((c.stepped i).setP (d.toNat - 480) (maskOf (x :: xs)) bits).v = (c.stepped i).v from rfl, hsame]
      · have : q.sreg k = (c.stepped i).sreg k := by rw [hq]; rfl
        rw [this]; exact foldl_stepStream_sreg _ _ hk

theorem lanePred_writes {s : State} {c : Ctx} {i : Instr} {d : RegNum} {val : State → Ctx → Nat → Bool} (h : Issues s c i)
    (he : exec i s = lanePred i s d val) (hv : val (s.stepStreams c.r.id (c.streamsRead i)) c = val s c := by rfl) :
    WritesPred s c i d (val s c) := putP_answers h he (by simp only [hv])

/-- A collective result. -/
theorem collWrite_writes {s : State} {c : Ctx} {i : Instr} {d : RegNum} {val : State → Ctx → List Word}
    (h : Issues s c i) (he : exec i s = collWrite i s d val)
    {o : Opd} (ho : o ∈ opds i) (hd : o.first = d) (hn : (val s c).length = o.n)
    (hk : Kind.of d = .vec ∨ Kind.of d = .scl ∨ Kind.of d = .zero)
    (hv : val (s.stepStreams c.r.id (c.streamsRead i)) c = val s c := by rfl) : WritesOnce s c i d (val s c) := by
  subst hd
  obtain ⟨hok, hfit⟩ := legal_opd h.legal ho
  have hr := raft?_stepStreams h.ctx i
  have hsame := stepped_same c i
  let g : Raft → Raft := fun r => if Kind.of o.first = .scl then r.setGroup o.first 0 (val s c)
    else r.setLanes (c.reg o.first) (fun _ => val s c) c.lanes
  have hgid : ∀ x : Raft, x.id = c.r.id → (g x).id = c.r.id := by
    intro x hx; simp only [g]; split
    · rw [setGroup_id]; exact hx
    · rw [setLanes_id]; exact hx
  have hb : (fun s1 c => Res.done (s1.mapRaft c.r.id (fun r =>
      if Kind.of o.first = .scl then r.setGroup o.first 0 (val s1 c) else r.setLanes (c.reg o.first) (fun _ => val s1 c) c.lanes)) .next)
      (s.stepStreams c.r.id (c.streamsRead i)) c = .done ((s.stepStreams c.r.id (c.streamsRead i)).mapRaft c.r.id g) .next := by
    simp only [hv, g]
  have hcount : (c.stepped i).count = c.r.count := by rw [hsame]
  refine answers_of h he hb (onlyRaft_trans (stepStreams_only s c i) (mapRaft_only hgid)) (raft?_mapRaft_same hgid hr) ?_ (fun q hq => ?_)
  · rcases hk with hk | hk | hk
    · have hfit := hfit hk
      have h1 := (setLanes_vec c.lanes (c.stepped i) (c.reg o.first) (fun _ => val s c) o.n
        (fun l hl => ⟨mem_lanes_lt hl, hn⟩) (by omega) hfit.2).1
      have hg : g (c.stepped i) = (c.stepped i).setLanes (c.reg o.first) (fun _ => val s c) c.lanes := by simp [g, hk]
      rw [hg, h1]; rw [hsame]
    · have hfit := ok_scl hok hk
      have h1 := (setGroup_scl (val s c) (c.stepped i) o.first 0 (kind_scl.1 hk).1 (by rw [hn]; exact hfit.2)).1
      have hg : g (c.stepped i) = (c.stepped i).setGroup o.first 0 (val s c) := by simp [g, hk]
      rw [hg, h1]; rw [hsame]
    · have hg : g (c.stepped i) = c.stepped i := by
        simp only [g, hk]; rw [reg_other (by rw [hk]; exact nofun)]; exact setLanes_zero _ _ hk _
      rw [hg]; rw [hsame]
  · rcases hk with hk | hk | hk
    · have hg : g (c.stepped i) = (c.stepped i).setLanes (c.reg o.first) (fun _ => val s c) c.lanes := by simp [g, hk]
      rw [hg] at hq
      exact written_vec (vals := fun _ => val s c) hk (fun _ _ => hn) (hfit hk).1 (hfit hk).2 hq
    · have hg : g (c.stepped i) = (c.stepped i).setGroup o.first 0 (val s c) := by simp [g, hk]
      rw [hg] at hq
      exact written_scl hk (by rw [hn]; exact (ok_scl hok hk).2) hq
    · have hnv : Kind.of o.first ≠ .vec := by rw [hk]; exact nofun
      have hns : Kind.of o.first ≠ .scl := by rw [hk]; exact nofun
      have hg : g (c.stepped i) = c.stepped i := by
        simp only [g, hns, if_false]; rw [reg_other hnv]; exact setLanes_zero _ _ hk _
      rw [hg] at hq; exact written_none (fun g => absurd g hnv) (fun g => absurd g hns) hq

@[simp] theorem words1_length (x : Nat) : (words1 x).length = 1 := rfl
@[simp] theorem words2_length (x : Nat) : (words2 x).length = 2 := rfl
@[simp] theorem wordsW_length (w : Bool) (x : Nat) : (wordsW w x).length = wn w := by cases w <;> rfl

end Sys2Proof.Machine
end

