-- ==== Sys2Proof/Tests/Slice0.lean ====
section
/-!
SUPPORT. Tests: the checks of WellFormed, words written out bit by bit from the spec's encodings, worked examples of
the spec, and for every statement a state and operands that meet the hypotheses of each of its clauses.
-/

namespace Sys2Proof.Tests

-- One proof at a time: a check that runs many at once asks for a thread's memory each.
set_option Elab.async false

open Sys2Proof Sys2Proof.Machine

/-! ### Small states -/

/-- The word of an instruction. -/
def wordOf (i : Instr) : DWord := (encode i).getD 0
/-- A supervisor raft of 16 lanes on core 0 that is issuing the instruction, after reset. -/
def here (i : Instr) : State := State.reset.withClause (probeClause (wordOf i))
/-- The same with a clause of several words, of which the first issues. -/
def hereIn (ws : List DWord) : State := State.reset.withClause { (probeClause (ws.headD 0)) with words := ws }
/-- The same with every raft, team and so on changed. -/
def raftsBy (s : State) (f : Raft → Raft) : State := { s with rafts := s.rafts.map f }
def teamsBy (s : State) (f : Team → Team) : State := { s with teams := s.teams.map f }
def kernelBy (s : State) (f : Kernel → Kernel) : State := teamsBy s (fun t => { t with kernel := f t.kernel })
/-- An s register, a v register of one lane, and a predicate with a value. -/
def withS (k : Nat) (x : Word) (s : State) : State := raftsBy s (fun r => { r with s := sset r.s k x })
def withV (k l : Nat) (x : Word) (s : State) : State := raftsBy s (fun r => { r with v := sset r.v (64 * k + l) x })
def withP (k : Nat) (m : LaneMask) (s : State) : State := raftsBy s (fun r => { r with p := sset r.p k m })
/-- A zero line of ASID 0 in L2, which every access may use. -/
def withLine (va : Nat) (s : State) : State :=
  { s with lines := s.lines ++ [⟨0, va / 128, List.replicate 128 0, false, true, true, true, false, false, []⟩] }

/-- The instruction issues in the state, and its context passes a test. -/
def meets (s : State) (i : Instr) (p : Ctx → Bool) : Bool := match s.ctx with
  | none => false
  | some c => decide (c.refuse i = none) && decide (s.interlock c (opds i) = .free) && decide (c.r.stopping = none) && p c

theorem meets_spec {s : State} {i : Instr} {p : Ctx → Bool} (h : meets s i p = true) : ∃ c, Issues s c i ∧ p c = true := by
  unfold meets at h
  split at h
  · contradiction
  · rename_i c hc
    simp only [Bool.and_eq_true, decide_eq_true_eq] at h
    exact ⟨c, ⟨hc, h.1.1.1, h.1.1.2, h.1.2⟩, h.2⟩

/-- Every instruction of a list issues in its own small state. -/
def allIssue (is : List Instr) : Bool := is.all (fun i => meets (here i) i (fun _ => true))

theorem allIssue_spec {is : List Instr} (h : allIssue is = true) : ∀ i ∈ is, ∃ c, Issues (here i) c i := by
  intro i hi
  have := List.all_eq_true.mp h i hi
  obtain ⟨c, hc, _⟩ := meets_spec this
  exact ⟨c, hc⟩

/-- Fields of the formats in the order D, A, B, C, FN, with every other field zero. -/
def v3 (d a b c fn : Nat) (w : Bool := false) : V3 :=
  ⟨w, 0, 0, 0, 0, BitVec.ofNat 9 c, BitVec.ofNat 9 b, BitVec.ofNat 9 a, BitVec.ofNat 9 d, BitVec.ofNat 4 fn⟩
def vi (d a imm fn : Nat) : VI := ⟨BitVec.ofNat 32 imm, 0, BitVec.ofNat 9 a, BitVec.ofNat 9 d, BitVec.ofNat 4 fn⟩
def mf (d a b fn : Nat) (off : Nat := 0) (ord scope brec : Nat := 0) : MF :=
  ⟨BitVec.ofNat 12 off, BitVec.ofNat 2 ord, BitVec.ofNat 3 scope, BitVec.ofNat 8 brec, BitVec.ofNat 9 b, BitVec.ofNat 9 a, BitVec.ofNat 9 d,
    BitVec.ofNat 4 fn⟩
def af (d a b c fn : Nat) (imm : Nat := 0) : AF :=
  ⟨0, BitVec.ofNat 8 imm, BitVec.ofNat 9 c, BitVec.ofNat 9 b, BitVec.ofNat 9 a, BitVec.ofNat 9 d, BitVec.ofNat 4 fn⟩
def cf (d a fn off : Nat) (jid : Nat := 0) : CF :=
  ⟨BitVec.ofNat 24 off, 0, BitVec.ofNat 8 jid, BitVec.ofNat 9 a, BitVec.ofNat 9 d, BitVec.ofNat 4 fn⟩

/-- The rafts' names and split tables are sound. -/
def namedB (s : State) : Bool := decide ((s.rafts.map (·.id)).Nodup) && s.rafts.all (fun r => decide (r.id < s.nextId ∧ r.split.length = 4))
theorem namedB_spec {s : State} (h : namedB s = true) : s.named := by
  simp only [namedB, Bool.and_eq_true, decide_eq_true_eq, List.all_eq_true] at h
  exact h

/-- An access that nothing keeps back. -/
def admits (s : State) (c : Ctx) (_f : MF) (write : Bool) (accs : List LaneAcc) (q : Req) : Bool :=
  decide (accs ≠ []) && decide (firstFail accs = none) && decide (s.watchMatch c.t write (accs.flatMap (·.parts)) = none) &&
  (!q.rel || decide (worst (s.releaseWork c.r.id q.mask) = .free)) && (decide (s.replayEntries c.r.id + s.replayComing c.r.id < 64) || !q.parts.any s.partAbsent) &&
  decide (s.entriesUsed q.core + q.entries ≤ 2048) &&
  decide (s.counter c.r.id 4 < 65535) && decide (s.counter c.r.id 5 < 65535) &&
  q.parts.all (fun p => match p.space with
    | .tile k => decide (s.tableUse k < 1024)
    | _ => true) && s.sendable q

theorem admits_spec {s : State} {c : Ctx} {f : MF} {write : Bool} {accs : List LaneAcc} {q : Req}
    (h : admits s c f write accs q = true) : Admitted s c f write accs q := by
  simp only [admits, Bool.and_eq_true, Bool.or_eq_true, Bool.not_eq_true', decide_eq_true_eq] at h
  obtain ⟨⟨⟨⟨⟨⟨⟨⟨⟨h1, h2⟩, h3⟩, h4⟩, h5⟩, h6⟩, h7⟩, h8⟩, h9⟩, h10⟩ := h
  refine ⟨h1, h2, h3, fun hr => h4.resolve_left (by simp [hr]), h5, h6, fun _ => h7, fun _ => h8, fun _ p hp k hk => ?_, h10⟩
  have := List.all_eq_true.mp h9 p hp
  simpa [hk] using this

/-! ### Witnesses: vector instructions -/

theorem witness_IntegerArithmetic : allIssue
    [.iadd (v3 1 2 3 0 0), .isub (v3 1 2 3 0 0), .imul (v3 1 2 3 0 0), .imad (v3 1 2 3 4 0), .imin (v3 1 2 3 0 0), .imax (v3 1 2 3 0 0),
     .iabs (v3 1 2 0 0 0), .dot4 (v3 1 2 3 4 0), .iaddi (vi 1 2 7 0)] = true := by decide +kernel
theorem witness_BitwiseAndMoves : allIssue
    [.shl (v3 1 2 3 0 0), .shr (v3 1 2 3 0 0), .sar (v3 1 2 3 0 0), .rotl (v3 1 2 3 0 0), .popc (v3 1 2 0 0 0), .clz (v3 1 2 0 0 0),
     .brev (v3 1 2 0 0 0), .bfe (v3 1 2 3 0 0), .bfi (v3 1 2 3 4 0), .sel (v3 1 2 3 480 0), .mov (v3 1 2 0 0 0), .andi (vi 1 2 7 0),
     .ori (vi 1 2 7 0), .xori (vi 1 2 7 0), .shi (vi 1 2 7 0), .movi (vi 1 0 7 0)] = true := by decide +kernel
theorem witness_LogicOperations : allIssue [.and (v3 1 2 3 0 0), .or (v3 1 2 3 0 0), .xor (v3 1 2 3 0 0), .andn (v3 2 4 6 0 0 true)] = true ∧
    ((here (.and (v3 1 2 3 0 1))).ctx.isSome = true ∧ (v3 1 2 3 0 1).fn ≠ 0) := by decide +kernel
theorem witness_ClassesOfNumbers : allIssue [.fclass (v3 1 2 0 0 0)] = true := by decide +kernel
theorem witness_SinglePrecision : allIssue
    [.fadd (v3 1 2 3 0 0), .fsub (v3 1 2 3 0 0), .fmul (v3 1 2 3 0 0), .ffma (v3 1 2 3 4 0), .fmin (v3 1 2 3 0 0), .fmax (v3 1 2 3 0 0),
     .frcp (v3 1 2 0 0 0), .frsq (v3 1 2 0 0 0), .fexp2 (v3 1 2 0 0 0), .flog2 (v3 1 2 0 0 0), .fsin (v3 1 2 0 0 0), .fcos (v3 1 2 0 0 0),
     .fsqrt (v3 1 2 0 0 0), .fdiv (v3 1 2 3 0 3)] = true := by decide +kernel
theorem witness_PackedAndDouble : allIssue
    [.hadd2 (v3 1 2 3 0 0), .hmul2 (v3 1 2 3 0 1), .hfma2 (v3 1 2 3 4 0), .hmin2 (v3 1 2 3 0 0), .hmax2 (v3 1 2 3 0 1),
     .dadd (v3 2 4 6 0 0 true), .dmul (v3 2 4 6 0 0 true), .dfma (v3 2 4 6 8 0 true), .fdot2h (v3 1 2 3 4 0)] = true := by decide +kernel
theorem witness_PredicateResults : allIssue
    [.icmp (v3 480 2 3 0 5), .icmpi (vi 481 2 7 0), .fcmp (v3 480 2 3 0 0), .vote (v3 482 480 0 0 0), .plop (v3 480 481 482 0 2)] = true ∧
    meets (hereIn [wordOf (.pblk ⟨0, 5, 0, 482, 0, 2⟩), 0xC0, 0xC0, 0xC0]) (.pblk ⟨0, 5, 0, 482, 0, 2⟩) (fun _ => true) = true ∧ Kind.of (v3 482 480 0 0 0).d = .pred ∧ (v3 480 481 482 0 2).fn ≠ 9 := by decide +kernel
theorem witness_CrossLaneAndConvertResults : allIssue
    [.shfl (v3 1 2 3 0 0), .scan (v3 1 2 0 0 0), .plop (v3 1 481 0 0 9), .lane (v3 1 480 0 0 3), .vote (v3 386 480 0 0 2), .redux (v3 386 2 0 0 0),
     .lane (v3 386 480 0 0 0), .cvt (v3 1 2 0 0 1)] = true ∧ Kind.of (v3 386 480 0 0 2).d ≠ .pred ∧ (v3 386 480 0 0 0).fn ≠ 3 := by decide +kernel
theorem witness_ElementArithmetic : (8 = 8 ∨ 8 = 16 ∨ 8 = 32 ∨ (8 : Nat) = 64) ∧ 3 < max 1 (32 / 8) ∧ ¬4 < max 1 (32 / 8) ∧ 0 < max 1 (32 / 64) := by
  decide
theorem witness_ShiftsAndCompares : (0 : Nat) < 16 ∧ field (13#4).toNat 2 0 ≤ 5 ∧ field (5#4).toNat 2 0 ≤ 5 := by decide

/-! ### Witnesses: memory instructions -/

/-- A load or store of a form whose access nothing keeps back. -/
def loadHere (i : Instr) (f : MF) (form : MemForm) (tweak : State → State := id) : Bool :=
  let s := tweak (here i)
  meets s i (fun c =>
    let accs := c.accLanes.map (c.formAcc s f form false)
    admits s c f false accs (c.request s f (.load (memSize f.fn) (field f.fn.toNat 2 0 == 4 || field f.fn.toNat 2 0 == 5))
      (some (c.dest f.d (memRegs f.fn))) (fun _ => []) accs))
def storeHere (i : Instr) (f : MF) (form : MemForm) (tweak : State → State := id) : Bool :=
  let s := tweak (here i)
  meets s i (fun c =>
    let accs := c.accLanes.map (c.formAcc s f form true)
    admits s c f true accs (c.request s f .store none (fun l => (c.regBytes s f.d (memRegs f.fn) l).take (memSize f.fn)) accs))
/-- The raft's team as member 0 of a ring set that has started. -/
def ringed (s : State) : State := teamsBy (kernelBy s (fun k => { k with ring := true })) (fun t => { t with group := some 0 })

/-- The same with member 1 of the group on core 1. -/
def ringedPair (s : State) : State :=
  let s1 := ringed s
  { s1 with teams := s1.teams.flatMap (fun t => [t, { t with id := 99, cores := [1], member := 1 }]) }

theorem witness_LoadsAndStoresIssue :
    loadHere (.ld (mf 1 448 448 2)) (mf 1 448 448 2) .virt = true ∧ loadHere (.ldt (mf 1 448 448 4)) (mf 1 448 448 4) .own = true ∧
    loadHere (.ldx (mf 1 448 448 2)) (mf 1 448 448 2) .member ringed = true ∧
    storeHere (.st (mf 1 448 448 2)) (mf 1 448 448 2) .virt = true ∧ storeHere (.stt (mf 2 448 448 3)) (mf 2 448 448 3) .own = true ∧
    storeHere (.stx (mf 1 448 448 2)) (mf 1 448 448 2) .member ringed = true := by decide +kernel

/-- A record: 16 × 1 × 1 elements of a format, the same in registers, from an offset of the core's own tile memory. -/
def recordBytes (fmt base : Nat) : List Byte := toBytes 40 (base + 2 ^ 64 * ((0x20 + fmt) * 2 ^ 56 + 2 ^ 24 + 16) + 2 ^ 192 * (2 ^ 8 + fmt))
/-- The raft's kernel with three records in its table, which lies at address 0: FP32 at 0 and at 0x1000, and INT32 at 0x2000. -/
def withRecord (s : State) : State :=
  let s1 := kernelBy (withLine 0 s) (fun k => { k with brecBase := 0, brecCount := 3 })
  { s1 with lines := s1.lines.map (fun l => { l with
    data := recordBytes 0 0 ++ recordBytes 0 0x1000 ++ recordBytes 7 0x2000 ++ List.replicate 8 0 }) }

/-- LDB or STB whose record is read, fits and is kept back by nothing. -/
def elemHere (i : Instr) (f : MF) (load : Bool) : Bool :=
  let s := withRecord (here i)
  meets s i (fun c =>
    decide (c.accLanes ≠ [] ∧ f.brec.toNat < c.t.kernel.brecCount) &&
    (match (s.stepStreams c.r.id (c.streamsRead i)).recordBytes c.t c.r.here f.brec.toNat with
     | (s1, v, b) =>
       let r := Rec.parse b
       let accs := c.accLanes.map (c.elemAcc s1 f r load)
       decide (v = .ok) && Rec.sound false b && !isMx r.fmt && c.elemFits f r load && decide (s1.interlock c [elemOpd f r load] = .free) &&
         admits s1 c f (!load) accs (if load then c.request s1 f (.loadRec r (field f.fn.toNat 2 0) (f.fn.getLsbD 3)) (some (c.dest f.d (elemRegs r))) (fun _ => []) accs
           else c.request s1 f .store none (c.elemBytes s1 f r (elemRegs r)) accs)))
theorem witness_RecordAccessesIssue :
    elemHere (.ldb (mf 1 448 448 0)) (mf 1 448 448 0) true = true ∧ elemHere (.stb (mf 1 448 448 0)) (mf 1 448 448 0) false = true := by
  decide +kernel

theorem witness_AtomicsAndRingStoresIssue :
    (let f := mf 1 448 448 0; let s := here (.atom f)
     meets s (.atom f) (fun c => let n := atomWidth f.fn.toNat; let accs := c.accLanes.map (c.rmwAcc s f n (decide (f.fn.toNat < 13)))
       admits s c f true accs (c.request s f (.atom f.fn.toNat) (some (c.dest f.d (n / 4))) (c.regBytes s f.d (n / 4)) accs))) = true ∧
    (let f := mf 4 448 448 1; let s := here (.cas f)
     meets s (.cas f) (fun c => let n := if f.fn = 1 then 8 else 4; let accs := c.accLanes.map (c.rmwAcc s f n (f.fn != 2))
       admits s c f true accs (c.request s f (.cas n) (some (c.dest f.d (n / 4))) (c.regBytes s f.d (n / 2)) accs))) = true ∧
    (let f := mf 8 448 448 0; let s := here (.cas128 f)
     meets s (.cas128 f) (fun c => let accs := c.accLanes.map (c.rmwAcc s f 16 true)
       admits s c f true accs (c.request s f (.cas 16) (some (c.dest f.d 4)) (c.regBytes s f.d 8) accs))) = true ∧
    (let f := mf 0 448 448 0; let s := here (.setfe f)
     meets s (.setfe f) (fun c => let accs := c.accLanes.map (c.setfeAcc s f)
       admits s c f true accs (c.request s f (.setfe (f.fn.getLsbD 0)) none (fun _ => []) accs))) = true ∧
    (let f := mf 1 448 448 1; let s := ringedPair (here (.rrot f))
     meets s (.rrot f) (fun c => let accs := c.accLanes.map (c.rrotAcc s f)
       c.t.kernel.ring && admits s c f true accs (c.request s f .rrot none (c.regBytes s f.d 1) accs))) = true := by decide +kernel

theorem witness_CacheControl :
    (let f := mf 0 0 0 0 0 3 2 0xFF; let s := here (.fence f)
     meets s (.fence f) (fun c => decide (worst (s.releaseWork c.r.id f.brec) = .free) && s.reqs.isEmpty && (s.acquireWork c.r.id).isEmpty)) = true ∧
    allIssue [.ftag (mf 0 0 0 0 1)] = true ∧
    (let f := mf 0 448 448 1 1; meets (here (.ftag f)) (.ftag f) (fun c => decide (f.fn = 1) && canonical (c.sval64 f.a).toNat && decide (c.sval f.b = 0))) = true ∧
    (let f := mf 0 448 448 2 7; meets (here (.ftag f)) (.ftag f) (fun c => decide (f.fn = 2) && decide ((c.sval f.a).toNat + (c.sval f.b).toNat ≤ c.t.tileBytes) && decide (c.r.landed = none))) = true ∧
    (let f := mf 0 448 0 3 1; let s := withRecord (here (.ftag f))
     meets s (.ftag f) (fun c => decide (f.fn = 3) && decide ((c.sval f.a).toNat < c.t.kernel.brecCount) &&
       (match (s.stepStreams c.r.id (c.streamsRead (.ftag f))).recordBytes c.t c.r.here (c.sval f.a).toNat with
        | (_, v, b) => decide (v = .ok) && Rec.sound false b))) = true ∧
    allIssue [.pref (mf 0 448 448 0), .invl1 (mf 0 384 386 0), .invl1 (mf 0 0 0 1)] = true := by decide +kernel

/-! ### Witnesses: control flow, waits and loops -/

/-- The sub-raft's mask, where other lanes live on. -/
def withMask (m : LaneMask) (s : State) : State :=
  raftsBy s (fun r => { r with split := r.split.map (fun x => x.map (fun en => { en with mask := m })) })
def withJoin (j : JoinRec) (s : State) : State := raftsBy s (fun r => { r with joins := [j] })
/-- What JOIN, and EXIT, leave of a raft before merges and pops. -/
def parkedBy (c : Ctx) (f : CF) : Raft := { c.r with
  split := c.r.split.set c.e none
  joins := c.r.joins.map (fun k => if k.jid = f.jid then
    { k with cont := some c.cl.nextPc, expect := k.expect ||| c.en.mask, arrived := k.arrived ||| c.en.mask } else k) }
def endedBy (c : Ctx) : Raft := { c.r with
  split := c.r.split.set c.e none, live := c.r.live &&& ~~~c.en.mask
  joins := c.r.joins.map (fun j => { j with expect := j.expect &&& ~~~c.en.mask }) }
/-- The two halves of a target pair. -/
def withPair (k : Nat) (x : Nat) (s : State) : State := withS (k + 1) (BitVec.ofNat 32 (x / 2 ^ 32)) (withS k (BitVec.ofNat 32 x) s)
def targetIs (aligned canon : Bool) (f : CF) (c : Ctx) : Bool :=
  decide (decide ((c.sval64 f.a).toNat % 8 = 0) = aligned) && decide (canonical (c.sval64 f.a).toNat = canon)

theorem witness_UniformTransfers :
    allIssue [.nop (cf 0 0 0 0), .jmp (cf 0 0 0 0xFFFFFF), .call (cf 2 0 0 4), .call (cf 392 0 0 4), .call (cf 448 0 0 4)] = true ∧
    meets (here (.bru (cf 0 480 0 4))) (.bru (cf 0 480 0 4)) (fun c => c.lanes.all (fun l => !c.pred 480 l)) = true ∧
    meets (withP 0 0xFFFF (here (.bru (cf 0 480 1 4)))) (.bru (cf 0 480 1 4)) (fun c => !c.lanes.isEmpty && c.lanes.all (fun l => c.pred 480 l)) = true ∧
    meets (here (.bru (cf 0 388 0 4))) (.bru (cf 0 388 0 4)) (fun c => c.sval 388 != 0) = true ∧
    (let f := cf 0 392 0 0; meets (here (.jmpi f)) (.jmpi f) (targetIs true true f)) = true ∧
    (let f := cf 0 392 0 0; meets (here (.ret f)) (.ret f) (targetIs true true f)) = true ∧
    (let f := cf 2 392 1 0; meets (here (.callInd f)) (.callInd f) (targetIs true true f)) = true ∧
    (let f := cf 0 392 0 0; meets (withPair 8 4 (here (.jmpi f))) (.jmpi f) (targetIs false true f)) = true ∧
    (let f := cf 0 392 0 0; meets (withPair 8 (2 ^ 56) (here (.jmpi f))) (.jmpi f) (targetIs true false f)) = true ∧
    (let f := cf 0 392 0 0; meets (withPair 8 4 (here (.ret f))) (.ret f) (targetIs false true f)) = true ∧
    (let f := cf 0 392 0 0; meets (withPair 8 (2 ^ 56) (here (.ret f))) (.ret f) (targetIs true false f)) = true ∧
    meets (withP 0 1 (here (.bru (cf 0 480 0 4)))) (.bru (cf 0 480 0 4)) (fun c =>
      c.lanes.contains 0 && c.lanes.contains 15 && c.pred 480 0 && !c.pred 480 15) = true := by decide +kernel

theorem witness_DivergentTransfers :
    let f := cf 0 480 0 4 7
    let brd (p : LaneMask) (q : Ctx → Bool) (tweak : State → State) : Bool :=
      meets (tweak (withP 0 p (here (.brd f)))) (.brd f) (fun c =>
        decide (c.en.slot + 1 = c.cl.words.length) && decide (c.r.spindle = none) && decide (c.en.mask &&& c.r.preg 0 = p) && q c)
    let full := fun s => raftsBy s (fun r => { r with split := r.split.map (fun x => some (x.getD (Entry.at 0 0 0))) })
    let g := cf 0 2 1 0 7
    let five (tweak : State → State) (p : Ctx → Nat → Bool) : Bool :=
      let s := tweak ((List.range 4).foldl (fun s l => withV 2 (l + 1) (BitVec.ofNat 32 (8 * (l + 1))) s) (here (.jmpiDiv g)))
      meets s (.jmpiDiv g) (fun c =>
        match targetGroups (lanesOf c.r.width c.en.mask) (fun l => BitVec.ofNat 64 (c.src64 s 2 0 0 l)) with
        | _ :: rest => p c rest.length
        | [] => false)
    brd 0 (fun _ => true) id = true ∧ brd 0xFFFF (fun c => decide (c.en.mask = 0xFFFF)) id = true ∧
    brd 1 (fun c => !c.r.splitOverflow 7 1 && decide (c.r.freeEntry ≠ none)) id = true ∧
    brd 1 (fun c => !c.r.splitOverflow 7 1 && decide (c.r.freeEntry = none)) full = true ∧
    brd 1 (fun c => c.r.splitOverflow 7 1) (fun s => raftsBy (full s) (fun r => { r with stack := List.replicate 32 ⟨0, 0, 0⟩ })) = true ∧
    meets (here (.jmpiDiv g)) (.jmpiDiv g) (fun c => (lanesOf c.r.width c.en.mask).all (fun l => c.src64 (here (.jmpiDiv g)) 2 0 0 l == 0)) = true ∧
    (let s := withV 2 0 8 (here (.jmpiDiv g))
     meets s (.jmpiDiv g) (fun c =>
       match targetGroups (lanesOf c.r.width c.en.mask) (fun l => BitVec.ofNat 64 (c.src64 s 2 0 0 l)) with
       | _ :: rest => decide (rest.length = 1) && !c.r.splitOverflow 7 rest.length
       | [] => false)) = true ∧
    namedB (here (.jmpiDiv g)) = true ∧
    -- five targets find three free entries, so one group is pushed; on a full stack the split overflows
    five id (fun c n => decide (n = 4) && !c.r.splitOverflow 7 4) = true ∧
    five (fun s => raftsBy (full s) (fun r => { r with stack := List.replicate 30 ⟨0, 0, 0⟩ })) (fun c n => c.r.splitOverflow 7 n) = true ∧
    -- a target that is not a multiple of 8, and one that is not canonical
    meets (withV 2 3 4 (here (.jmpiDiv g))) (.jmpiDiv g) (fun c => decide ((lanesOf c.r.width c.en.mask).filter (fun l =>
      c.src64 (withV 2 3 4 (here (.jmpiDiv g))) 2 0 0 l % 8 != 0) = [3])) = true ∧
    meets (withV 3 3 0x1000000 (here (.jmpiDiv g))) (.jmpiDiv g) (fun c => decide ((lanesOf c.r.width c.en.mask).filter (fun l =>
      !canonical (c.src64 (withV 3 3 0x1000000 (here (.jmpiDiv g))) 2 0 0 l)) = [3])) = true ∧
    -- each way to overflow, and none
    meets (raftsBy (here (.brd f)) (fun r => { r with joins := List.replicate 8 ⟨1, 0, 0, none⟩ })) (.brd f) (fun c => c.r.splitOverflow 7 1) = true ∧
    meets (raftsBy (here (.brd f)) (fun r => { r with stack := List.replicate 33 ⟨0, 0, 0⟩ })) (.brd f) (fun c => c.r.splitOverflow 7 1) = true := by
  decide +kernel

theorem witness_LanesJoinAndExit :
    let f := cf 0 0 0 0 1
    let e := cf 0 0 0 0
    let joins (j : JoinRec) (m : LaneMask) (p : Ctx → Bool) : Bool :=
      meets (withMask m (withJoin j (here (.join f)))) (.join f) (fun c => decide (c.r.joins.find? (fun j => j.jid == f.jid) = some j) && p c)
    allIssue [.join f] = true ∧
    joins ⟨1, 0xFFFF, 0, none⟩ 0xFFFF (fun c => !((parkedBy c f).settle 0).deadlocked) = true ∧
    joins ⟨1, 0xFFFF, 0, none⟩ 0xFF (fun c => ((parkedBy c f).settle 0).deadlocked) = true ∧
    joins ⟨1, 0xFFFF, 0, some 8⟩ 0xFFFF (fun c => decide (8 ≠ c.cl.nextPc)) = true ∧
    meets (here (.exit e)) (.exit e) (fun c => !((endedBy c).settle 0).deadlocked && decide (((endedBy c).settle 0).live = 0)) = true ∧
    meets (withMask 0xFF (here (.exit e))) (.exit e) (fun c => ((endedBy c).settle 0).deadlocked) = true := by decide +kernel

theorem witness_CompletionAndMemoryWaits :
    let w := cf 392 394 0 2
    let mem (f : CF) (holds : Bool) : Bool :=
      let s := withLine 0 (here (.waitmem f))
      meets s (.waitmem f) (fun c => match (s.stepStreams c.r.id (c.streamsRead (.waitmem f))).readAt c.t.asid (c.sval64 f.a).toNat 4 .read with
        | (_, v, bytes) => decide (v = .ok) && decide (waitCond (field f.fn.toNat 1 0) (ofBytes bytes) (c.sval f.d).toNat = holds) &&
            canonical (c.sval64 f.a).toNat && decide (s.waitmemBlock c.r c.t.asid (c.sval64 f.a).toNat 4 = .free))
    (let f := cf 0 0 0 0x3F; meets (here (.waitc f)) (.waitc f) (fun c => (List.range 6).all (fun k => ((here (.waitc f)).counterWork c.r.id k).isEmpty))) = true ∧
    (let f := cf 0 0 0 0x13F; meets (here (.waitc f)) (.waitc f) (fun c =>
      decide (total (((List.range 6).filter (fun k => f.off.getLsbD k)).map ((here (.waitc f)).counter c.r.id)) ≤ field f.off.toNat 23 8))) = true ∧
    (let f := cf 0 392 0 0; let s := withS 8 0xFFFFFFFF (here (.waitb f))
     meets s (.waitb f) (fun c => decide (2 ^ 31 ≤ (c.sval f.a - c.r.batchCount).toNat) && (s.batchOps c.r.id (c.sval f.a)).isEmpty)) = true ∧
    (let f := cf 0 392 0 0; meets (here (.waitb f)) (.waitb f) (fun c => decide ((c.sval f.a - c.r.batchCount).toNat < 2 ^ 31))) = true ∧
    (let f := cf 0 0 1 0; let s := here (.waitbKeep f); meets s (.waitbKeep f) (fun c => decide ((s.openBatches c.r).length ≤ 0) && (s.closedOps c.r).isEmpty)) = true ∧
    (let f := cf 392 0 0 0; let s := here (.batch (af 392 0 0 0 0))
     meets s (.batch (af 392 0 0 0 0)) (fun c => decide ((s.openBatches c.r).length < 16) && decide (f.d = 392))) = true ∧
    mem w false = true ∧ mem (cf 386 394 0 2) true = true := by decide +kernel

/-- A request that reads 64 bytes at an address. -/
def aReqAt (va : Nat) : Req :=
  { id := 3, raft := 2, core := 0, kind := .arrive 0 none, acq := false, rel := true, scope := 0, mask := 0, lanes := 1, dest := none
    parts := [⟨0, .virt 0, va, 64, 0, none⟩], data := [], got := [], tags := 0, tagLanes := [], binds := [], missed := [], twin := none
    born := 0, early := false, checked := false, replay := false, fault := none, pc := 0, slot := 0, instr := 0 }
theorem witness_BarriersSendArrivals :
    let ok (s : State) (f : CF) (c : Ctx) : Bool := c.r.converged && canonical (c.sval64 f.a).toNat && decide ((c.sval64 f.a).toNat % 64 = 0) &&
      decide (worst (s.releaseWork c.r.id 0xFF) = .free) && decide (s.counter c.r.id 4 < 65535)
    let sent (s : State) (va : Nat) (c : Ctx) : Bool := s.sendable { aReqAt va with core := c.r.here }
    -- a link on the way to die 1 is backed up
    let backed (s : State) : State := { s with home := [⟨0, 0, 1⟩], links := [((0, 1), { Port.fresh with waiting := [ackFlit 0] })] }
    (let f := cf 0 392 0 1; meets (here (.barSync f)) (.barSync f) (fun c => ok (here (.barSync f)) f c && sent (here (.barSync f)) 0 c)) = true ∧
    (let f := cf 396 392 1 4; meets (here (.barArrive f)) (.barArrive f) (fun c => ok (here (.barArrive f)) f c && sent (here (.barArrive f)) 0 c)) = true ∧
    (let f := cf 0 392 0 1; let s := backed (here (.barSync f)); meets s (.barSync f) (fun c => ok s f c && !sent s 0 c)) = true ∧
    (let f := cf 396 392 1 4; let s := backed (here (.barArrive f)); meets s (.barArrive f) (fun c => ok s f c && !sent s 0 c)) = true := by
  decide +kernel

theorem witness_LoopsAndStreams :
    let captures (s : State) (i : Instr) (f : CF) (c : Ctx) : Bool :=
      decide (c.r.spindle = none) && decide (f.d.toNat + f.jid.toNat ≤ c.r.count) &&
      (match State.capture c.t.asid (field f.off.toNat 2 0 + 1) c.cl.nextPc (s.stepStreams c.r.id (c.streamsRead i)) with
       | (_, .body (_ :: _)) => true
       | _ => false)
    let walk : Walk := ⟨0, 1, 1, 1, 0, 0, 0, 1, 0, 0, 0, false, false, false⟩
    (let f := cf 0 388 0 0; let s := withLine 0 (here (.loop f)); meets s (.loop f) (fun c => captures s (.loop f) f c && c.sval f.a != 0)) = true ∧
    (let f := cf 0 392 0 0; let s := withLine 0 (here (.loop f)); meets s (.loop f) (fun c => captures s (.loop f) f c && c.sval f.a == 0)) = true ∧
    (let f := cf 0 0 1 0; let s := raftsBy (withLine 0 (here (.loopUntil f))) (fun r => { r with streams := [some walk, none, none, none] })
     meets s (.loopUntil f) (fun c => captures s (.loopUntil f) f c && decide (c.r.streams[field f.off.toNat 9 8]? = some (some walk)))) = true ∧
    (let f := cf 0 392 0 0; meets (withS 15 1 (withS 9 1 (here (.strm f)))) (.strm f) (fun c => decide (c.swords f.a 8 = [0, 1, 0, 0, 0, 0, 0, 1]))) = true ∧
    (let f := cf 0 392 3 0; meets (withS 15 3 (withS 13 1 (withS 11 1 (withS 9 1 (here (.strm f)))))) (.strm f) (fun c =>
      decide (c.swords f.a 8 = [0, 1, 0, 1, 0, 1, 0, 3]))) = true ∧
    allIssue [.strmOff (cf 0 0 4 0), .strmOff (cf 0 0 7 0)] = true := by decide +kernel

theorem witness_ReorderQuotaAndYield :
    (let f := cf 0 10 0 2; let s := here (.reorder f); meets s (.reorder f) (fun c => c.r.converged && s.reqs.isEmpty && s.ops.isEmpty)) = true ∧
    (let quota (n : Nat) (had : Nat) (p : Nat → Ctx → Bool) : Bool :=
       let f := cf 0 0 0 n
       let s := raftsBy (here (.quota f)) (fun r => { r with count := had })
       meets s (.quota f) (fun c => decide (c.r.landed = none) && decide (1 ≤ n ∧ n ≤ 384) &&
         decide (n + ((s.poolRafts c.r).length - 1) ≤ c.t.pool c.r) && p n c)
     quota 384 384 (fun n c => n == c.r.count) && quota 1 384 (fun n c => decide (n < c.r.count)) && quota 200 100 (fun n c => decide (c.r.count < n))) = true ∧
    allIssue [.yield (cf 0 0 0 0), .yield (cf 0 0 0 5)] = true := by decide +kernel

/-! ### Witnesses: system instructions, traps and debugging -/

/-- The policy of supervisor teams of ASID 0, in its trap table entry at physical address 0. -/
def withPolicy (p : Nat) (s : State) : State := { s with pmem := sset s.pmem 24 (BitVec.ofNat 8 (4 * p)) }
/-- A second team on core 1, whose only raft is the first one's copy as changed; s8:9 of the first names it. -/
def withTarget (tref : Nat) (f : Raft → Raft) (g : Team → Team) (s : State) : State :=
  let s1 := withPair 8 tref s
  { s1 with
    nextId := 100
    teams := s1.teams ++ s1.teams.map (fun t => g { t with id := 50, cores := [1] })
    rafts := s1.rafts ++ s1.rafts.map (fun r => f { r with id := 51, team := 50, core := 1 }) }
def targeted (i : Instr) (policy : Nat) (tref : Nat := 2 ^ 48) (f : Raft → Raft := id) (g : Team → Team := id) : State :=
  withPolicy policy (withTarget tref f g (here i))
def halted (r : Raft) : Raft := { r with halted := true }
/-- A debug instruction that no shared check turns away up to the target's policy. -/
def targetsB (s : State) (c : Ctx) (f : CF) (t : Team) (r : Raft) : Bool :=
  decide (s.myDebug c = none) && decide (worst (s.releaseWork c.r.id 0xFF) = .free) && decide ((c.swords f.a 8).getD 3 0 = 0) &&
  decide ((c.swords f.a 8).getD 6 0 = 0) && decide ((c.swords f.a 8).getD 7 0 = 0) && decide (s.trefTarget (c.sval64 f.a).toNat = some (t, r)) &&
  s.debugs.all (fun d => d.team != t.id || d.status.isSome)
theorem targetsB_spec {s : State} {c : Ctx} {f : CF} {t : Team} {r : Raft} (h : targetsB s c f t r = true) : Targets s c f t r := by
  simp only [targetsB, Bool.and_eq_true, decide_eq_true_eq, List.all_eq_true, Bool.or_eq_true, bne_iff_ne, ne_eq] at h
  obtain ⟨⟨⟨⟨⟨⟨h1, h2⟩, h3⟩, h4⟩, h5⟩, h6⟩, h7⟩ := h
  exact ⟨h1, h2, h3, h4, h5, h6, fun d hd ht => (h7 d hd).resolve_left (by simp [ht])⟩
/-- The instruction issues on a target that passes a test. -/
def debugs (s : State) (i : Instr) (f : CF) (p : Ctx → Team → Raft → Bool) : Bool :=
  namedB s && meets s i (fun c => match s.trefTarget (c.sval64 f.a).toNat with
    | some (t, r) => targetsB s c f t r && p c t r
    | none => false)
def dbgF : CF := cf 400 392 0 0

theorem witness_SystemInstructionsArePrivileged :
    (teamsBy (here (.csrr (cf 0 0 0 0))) (fun t => { t with supv := false })).ctx.map (fun c => c.t.supv) = some false := by decide +kernel

theorem witness_ControlRegisters :
    let get (i : Instr) (f : CF) (p : Option (Bool × Nat × Bool) → Bool) : Bool :=
      meets (here i) i (fun c => p ((here i).csrGet (c.csrCore f) (field f.off.toNat 11 0)))
    (let f := cf 389 0 0 2; get (.csrr f) f (fun x => decide (x.map (·.1) = some (f.fn.getLsbD 0)))) = true ∧
    (let f := cf 388 0 1 2; get (.csrr f) f (fun x => decide (x.map (·.1) = some false))) = true ∧
    (let f := cf 0 392 1 9; get (.csrw f) f (fun x => decide (x.map (fun y => (y.1, y.2.2)) = some (f.fn.getLsbD 0, true)))) = true ∧
    (let f := cf 0 392 1 8; get (.csrw f) f (fun x => decide (x.map (·.2.2) = some false))) = true ∧
    (let f := cf 0 392 0 9; get (.csrw f) f (fun x => decide (x.map (·.1) = some true))) = true ∧
    (let f := cf 389 0 0 0xA; get (.csrr f) f (fun x => x.isNone)) = true ∧
    (let f := cf 0 392 0 0xA; get (.csrw f) f (fun x => x.isNone)) = true := by decide +kernel

theorem witness_SoftwareTraps :
    let ok (i : Instr) (policy : Nat) (p : Nat → Bool) : Bool :=
      let s := withPolicy policy (here i)
      namedB s && meets s i (fun c => decide (c.r.spindle = none ∧ c.t.dying = none ∧ c.r.subs = [(c.e, c.en)] ∧ c.r.joins = [] ∧ c.r.stack = [] ∧
        c.r.halted = false ∧ s.arriving c.r.id = false ∧ ∀ x ∈ s.running, x.1 = c.r.id → x.2 = c.e) && p (s.policyOf c.t))
    -- a sub-raft may issue beside another's spindle
    let beside (i : Instr) : Bool :=
      let s := raftsBy (withPolicy 2 (here i)) (fun r => { r with spindle := some { (⟨3, [], 0, 0, 0, none, 1, 0, 0⟩ : Spindle) with owner := 3 } })
      meets s i (fun c => decide (c.r.spindle.map (·.owner) = some 3 ∧ c.e ≠ 3))
    beside (.trapi (cf 0 0 0 5)) = true ∧ beside (.bkpt (cf 0 0 0 5)) = true ∧
    ok (.trapi (cf 0 0 0 5)) 0 (fun _ => true) = true ∧ ok (.bkpt (cf 0 0 0 0)) 1 (fun p => p == 1) = true ∧
    ok (.bkpt (cf 0 0 0 0)) 2 (fun p => p == 2) = true := by decide +kernel

theorem witness_TrapsStopTheTeam :
    let s (p : Nat) := withPolicy p (here (.nop (cf 0 0 0 0)))
    let ok (p : Nat) : Bool := namedB (s p) && (match (s p).ctx with
      | some c => decide ((s p).raft? c.r.id = some c.r ∧ (s p).team? c.r.team = some c.t ∧ (s p).policyOf c.t = p ∧ c.t.dying = none ∧
          c.t.stepping = none ∧ c.r.subs = [(c.e, c.en)] ∧ c.r.joins = [] ∧ c.r.stack = [] ∧ c.r.halted = false ∧ c.r.stopping = none ∧ (s p).arriving c.r.id = false ∧ (s p).arriving c.r.id = false ∧
          ∀ x ∈ (s p).running, x.1 = c.r.id → some c.e = some x.2)
      | none => false)
    let ring := withLine 0 State.reset
    let bad : State := { State.reset with pmem := sset [] 25 1 }
    ok 0 = true ∧ ok 1 = true ∧ ok 2 = true ∧ ring.exchanges = [] ∧ (ring.postTrapRecord 0 (List.replicate 64 0)).2 = some 0 ∧
    (bad.postTrapRecord 0 (List.replicate 64 0)).2 = none ∧ (bad.trapEntry 0).sound = false := by decide +kernel

theorem witness_DebugOperations :
    let any (f : CF) (tweak : State → State) (policy : Nat) (g : Team → Team) (p : State → Ctx → Bool) : Bool :=
      ([Instr.dbghalt f, .dbgstep f, .dbgres f, .dbgrd f, .dbgwr f, .kill f]).all (fun i =>
        let s := tweak (targeted i policy (2 ^ 48) id g)
        meets s i (fun c => decide (s.myDebug c = none) && decide (worst (s.releaseWork c.r.id 0xFF) = .free) && p s c))
    let none_ (s : State) (c : Ctx) : Bool := (s.trefTarget (c.sval64 392).toNat).isNone
    let named (s : State) (c : Ctx) (p : Team → Bool) : Bool := match s.trefTarget (c.sval64 392).toNat with
      | some (t, _) => p t
      | none => false
    any dbgF (withS 11 1) 2 id (fun _ c => decide ((c.swords 392 8).getD 3 0 ≠ 0)) = true ∧
    any dbgF (withPair 8 (2 ^ 62)) 2 id none_ = true ∧
    any dbgF (fun s => { s with debugs := [⟨7, 0, 0, 50, none, none⟩] }) 2 id (fun s c => named s c (fun t =>
      s.debugs.any (fun d => d.team == t.id && d.status.isNone))) = true ∧
    any dbgF id 2 (fun t => { t with stowed := some ⟨[0], 1⟩ }) (fun s c => named s c (fun t => t.stowed.isSome)) = true ∧
    any dbgF id 0 id (fun s c => named s c (fun t => s.policyOf t == 0)) = true ∧
    debugs (targeted (.dbghalt dbgF) 2) (.dbghalt dbgF) dbgF (fun c t r => decide (t.stowed = none ∧ t.dying = none) &&
      (targeted (.dbghalt dbgF) 2).policyOf t == 2 && decide ((targeted (.dbghalt dbgF) 2).team? t.id = some t) && !(c.sval64 392).getLsbD 63 && r.id == 51) = true ∧
    debugs (targeted (.dbghalt dbgF) 2 (2 ^ 48 + 2 ^ 63)) (.dbghalt dbgF) dbgF (fun c t _ => (c.sval64 392).getLsbD 63 && decide (t.dying = none)) = true ∧
    (let s := targeted (.dbgstep dbgF) 2 (2 ^ 48) halted
     debugs s (.dbgstep dbgF) dbgF (fun c t r => s.teamHalted t && s.policyOf t == 2 && r.id != c.r.id &&
       decide (r.subs.head?.map (·.2.wait) = some .none) && decide (t.stowed = none))) = true ∧
    debugs (targeted (.kill dbgF) 0) (.kill dbgF) dbgF (fun _ t _ => decide ((targeted (.kill dbgF) 0).team? t.id = some t)) = true ∧
    ([Instr.dbghalt dbgF, .dbgstep dbgF, .kill dbgF]).all (fun i =>
      let s : State := { (targeted i 2) with debugs := [⟨2, 0, 0, 50, none, some 0⟩] }
      meets s i (fun c => decide (s.myDebug c = some ⟨2, 0, 0, 50, none, some 0⟩))) = true := by decide +kernel

theorem witness_ResumeAndInspect :
    let on (i : Instr) (tref : Nat) (f : Raft → Raft) (tweak : State → State) (p : State → Ctx → Team → Raft → Bool) : Bool :=
      let s := tweak (targeted i 2 tref f)
      debugs s i dbgF (fun c t r => decide (t.stowed = none) && s.policyOf t == 2 && p s c t r)
    on (.dbgres dbgF) (2 ^ 48) halted id (fun _ c _ r => r.id != c.r.id && !(c.sval64 392).getLsbD 63 && r.halted) = true ∧
    on (.dbgres dbgF) (2 ^ 48 + 2 ^ 63) halted id (fun s c t _ => (c.sval64 392).getLsbD 63 && s.teamHalted t && c.t.id != t.id) = true ∧
    on (.dbgres dbgF) (2 ^ 48) id id (fun s c t r => !s.targetHalted (c.sval64 392).toNat t r) = true ∧
    on (.dbgrd dbgF) (2 ^ 48) halted id (fun s c t r => r.halted && (s.selRead t r (c.sval 394).toNat).isSome) = true ∧
    on (.dbgrd dbgF) (2 ^ 48) id (withS 10 0x40000000) (fun s c t r => !r.halted && (s.selRead t r (c.sval 394).toNat).isSome) = true ∧
    on (.dbgwr dbgF) (2 ^ 48) halted id (fun s c t r => r.halted && (s.selWrite t r (c.sval 394).toNat (c.sval64 396)).isSome) = true ∧
    on (.dbgrd dbgF) (2 ^ 48) id id (fun _ c _ r => decide ((c.sval 394).toNat / 2 ^ 28 < 4) && !r.halted) = true ∧
    on (.dbgwr dbgF) (2 ^ 48) id id (fun _ c _ r => decide ((c.sval 394).toNat / 2 ^ 28 < 4) && !r.halted) = true ∧
    on (.dbgrd dbgF) (2 ^ 48) halted (withS 10 0x60000000) (fun s c t r => r.halted && (s.selRead t r (c.sval 394).toNat).isNone) = true ∧
    on (.dbgwr dbgF) (2 ^ 48) halted (withS 10 0x60000000) (fun s c t r => r.halted && (s.selWrite t r (c.sval 394).toNat (c.sval64 396)).isNone) = true ∧
    on (.dbgwr dbgF) (2 ^ 48) halted (withS 12 4 ∘ withS 10 0x30000000) (fun s c t r => r.halted && (s.selWrite t r (c.sval 394).toNat (c.sval64 396)).isNone) = true := by
  decide +kernel

theorem witness_WatchAndMail :
    let rel (s : State) (c : Ctx) : Bool := decide (worst (s.releaseWork c.r.id 0xFF) = .free)
    let watch (tweak : State → State) (good : Bool) : Bool :=
      let s := tweak (here (.watch dbgF))
      meets s (.watch dbgF) (fun c => rel s c && ((field (c.sval 392).toNat 31 14 == 0 && (c.sval 393).toNat % 8 == 0 &&
        Nat.blt (c.sval 393).toNat 0x200000 && ((c.swords 392 8).drop 2).all (fun y => y == 0)) == good))
    let g := cf 400 392 0 0
    watch (withS 8 0x3FFF) true = true ∧ watch (withS 9 0x1FFFF8) true = true ∧ watch (withS 9 0x200000) false = true ∧ watch (withS 9 4) false = true ∧
    watch (withS 8 0x4000) false = true ∧ watch (withS 15 1) false = true ∧
    (let s := withPair 8 (2 ^ 56) (here (.mbox g)); meets s (.mbox g) (fun c => rel s c && !canonical (c.sval64 392).toNat)) = true ∧
    (let s := withS 8 32 (here (.mbox g)); meets s (.mbox g) (fun c => rel s c && canonical (c.sval64 392).toNat && decide ((c.sval64 392).toNat % 64 ≠ 0))) = true ∧
    (let s := here (.mbox g); meets s (.mbox g) (fun c => rel s c && canonical (c.sval64 392).toNat && decide ((c.sval64 392).toNat % 64 = 0) &&
      decide (((s.stepStreams c.r.id (c.streamsRead (.mbox g))).postMail c.t.asid (c.sval64 392).toNat
        ((c.swords 400 15).flatMap (fun y => toBytes 4 y.toNat))).2 ≠ 3))) = true := by decide +kernel

theorem witness_TranslationInvalidate :
    let ok (i : Instr) (f : CF) (len : Nat) : Bool :=
      let s := withS 10 (BitVec.ofNat 32 len) (here i)
      meets s i (fun c => decide (worst (s.releaseWork c.r.id 0xFF) = .free) && canonical (c.sval64 f.a).toNat &&
        canonical ((c.sval64 f.a).toNat + (c.sval f.d).toNat - 1) && (c.sval f.d != 0) && s.queues.isEmpty && s.posts.isEmpty &&
        !s.exchanging c.t.asid 0 128 && decide (s.holds.length < 16))
    let g (fn : Nat) := cf 394 392 fn 0
    let each (tweak : State → State) (p : State → CF → Ctx → Bool) : Bool :=
      [(Instr.tlbinv (g 0), g 0), (.tlbinvHold (g 1), g 1), (.tlbinvFree (g 2), g 2)].all (fun x =>
        let s := tweak (here x.1)
        meets s x.1 (fun c => decide (worst (s.releaseWork c.r.id 0xFF) = .free) && p s x.2 c))
    ok (.tlbinv (g 0)) (g 0) 1 = true ∧ ok (.tlbinvHold (g 1)) (g 1) 1 = true ∧ ok (.tlbinvFree (g 2)) (g 2) 0xFFFFFFFF = true ∧
    (let f := cf 448 448 0 0x40000; meets (here (.tlbinv f)) (.tlbinv f) (fun _ => f.off.getLsbD 18)) = true ∧
    -- no length; a range that is not canonical, at its start and at its end; an exchange, and 16 holds, in the way
    each (withS 10 0) (fun _ f c => (c.sval f.d).toNat == 0) = true ∧
    each (withS 10 1 ∘ withPair 8 (2 ^ 56)) (fun _ f c => !canonical (c.sval64 f.a).toNat && (c.sval f.d).toNat != 0) = true ∧
    each (withS 10 2 ∘ withPair 8 (2 ^ 56 - 1)) (fun _ f c => canonical (c.sval64 f.a).toNat && !canonical ((c.sval64 f.a).toNat + (c.sval f.d).toNat - 1)) = true ∧
    each (fun s => { withS 10 1 s with exchanges := [⟨0, 0, 0, 0, 0, 0, 65536, 8, 0, 4096, 0, [], [], []⟩] }) (fun s _ c => s.exchanging c.t.asid 0 128) = true ∧
    each (fun s => { withS 10 1 s with holds := List.replicate 16 ⟨7, 0, 128⟩ }) (fun s _ _ => Nat.ble 16 s.holds.length) = true := by decide +kernel

theorem witness_MovesAndLeases :
    let g := cf 0 392 0 0
    let home (n : Nat) (s : State) : State := { s with home := [⟨0, 0, n⟩] }
    let at_ (n : Nat) (p : State → Ctx → Bool) : Bool := let s := home n (here (.migrate g)); meets s (.migrate g) (p s)
    at_ 0 (fun s c => s.homeOf 0 0 == c.r.here / 32) = true ∧ at_ 7 (fun s c => s.homeOf 0 0 == 7 && c.r.here / 32 == 0) = true ∧
    at_ 8 (fun s _ => s.homeOf 0 0 == 8) = true ∧
    meets (withPair 8 (2 ^ 56) (here (.migrate g))) (.migrate g) (fun c => !canonical (c.sval64 392).toNat) = true ∧
    allIssue [.migrateHome (cf 0 0 1 0), .leaseEnd (cf 392 0 1 0)] = true ∧
    meets (raftsBy (here (.migrateHome (cf 0 0 1 0))) (fun r => { r with landed := some 32 })) (.migrateHome (cf 0 0 1 0))
      (fun c => c.r.core / 32 != c.r.here / 32) = true ∧
    (let s := here (.lease (cf 392 0 0 100)); meets s (.lease (cf 392 0 0 100)) (fun c => decide (s.counter c.r.id 4 < 65535 ∧ s.leases = []))) = true ∧
    (let s : State := { (here (.lease (cf 392 0 0 100))) with leases := List.replicate 8 ⟨99, 0, 5⟩ }
     meets s (.lease (cf 392 0 0 100)) (fun c => decide (8 ≤ (s.leases.filter (fun l => l.raft != c.r.id && (l.cluster == c.r.here / 4 &&
      decide (s.clusterCycles l.cluster < l.expiry)))).length))) = true ∧
    -- a lease that stands, one that has expired, and a loads counter at its most
    (let s (n : Nat) : State := { (here (.leaseEnd (cf 392 0 1 0))) with leases := [⟨2, 0, n⟩] }
     meets (s 1) (.leaseEnd (cf 392 0 1 0)) (fun c => decide (c.r.id = 2 ∧ (s 1).clusterCycles 0 < 1)) &&
     meets (s 0) (.leaseEnd (cf 392 0 1 0)) (fun c => decide (c.r.id = 2 ∧ ¬(s 0).clusterCycles 0 < 0))) = true ∧
    (let s := here (.lease (cf 392 0 0 100))
     meets s (.lease (cf 392 0 0 100)) (fun c =>
      let q := c.statusReply s 392 2
      let u : State := { s with reqs := [q] }
      decide (u.req? q.id = some q ∧ (u.raft? c.r.id).isSome = true ∧ u.away c.r.id = false ∧ Kind.of 392 = .scl ∧ c.lanes ≠ [] ∧ c.r.width ≤ 64))) = true := by
  decide +kernel
/-- A loads counter at its most: 65,535 loads of the raft are pending. -/
theorem witness_LoadsCounterFull :
    let q := { aReqAt 0 with kind := .load 4 false, rel := false }
    let s : State := { (here (.lease (cf 392 0 0 100))) with reqs := List.replicate 65535 q }
    s.counter 2 4 = 65535 := by decide +kernel

/-! ### Witnesses: engine instructions -/

/-- s8 to s15 hold a descriptor. -/
def withDesc (d : List Word) (s : State) : State := raftsBy s (fun r => { r with s := ssets r.s 8 d })
def clear (xs : List (Bool × Nat × Nat × Nat × Nat)) : Bool := xs.all (fun x => !x.1)
/-- The state in which an engine instruction issues, with its descriptor in s8 to s15 and the records of `withRecord`. -/
def engine (i : Instr) (d : List Word) : State := withDesc d (withRecord (here i))
/-- A loop of one step: home at 0x40000, A plane at 0, B plane at 0x20000, both FP16. -/
def loopDesc : List Word := [0x40000, 0, 0x10000, 0, 0, 0, 0x20000, 0]
/-- A view of one pixel, channel, filter tap and output. -/
def viewDesc : List Word := [0, 0x10001, 0x10101, 0x10001, 0x1010101, 0, 0, 0]
def viewing (s : State) : State := raftsBy s (fun r => { r with views := [some ⟨viewDesc⟩, none] })
def poolDesc : List Word := [0x40000, 0, 0, 0, 0, 0, 0, 0]
def drainDesc : List Word := [0x40000, 0, 0, 0, 0, 0, 0, 0]

theorem witness_ViewsAndMatrixOperations :
    (let f := af 0 392 0 0 0; meets (engine (.wview f) viewDesc) (.wview f) (fun c => viewOk (c.swords f.a 8) &&
      Nat.ble (vw (c.swords f.a 8) 0 20 0 + viewBytes (c.swords f.a 8)) c.t.tileBytes && decide (c.r.landed = none) && Nat.blt 0 c.r.views.length && (engine (.wview f) viewDesc).roomFor (c.newOp (engine (.wview f) viewDesc) (.wview f) 0) 16)) = true ∧
    (let f := af 0 392 0 0 0; meets (engine (.wview f) loopDesc) (.wview f) (fun c => !viewOk (c.swords f.a 8))) = true ∧
    (let f := af 0 392 0 0 0; meets (engine (.wview f) (viewDesc.set 0 0x1FFF80 |>.set 1 0x00020004)) (.wview f) (fun c => viewOk (c.swords f.a 8) &&
      Nat.blt c.t.tileBytes (vw (c.swords f.a 8) 0 20 0 + viewBytes (c.swords f.a 8)))) = true ∧
    (let f := af 0 0 393 392 0; let s := engine (.macc f) [0xFFFFFC00, 0x40000, 0, 0, 0, 0, 0, 0]
     meets s (.macc f) (fun c =>
      let o := c.tagged s { c.newOp s (.macc f) 0 with
        anchor := (c.sval f.c).toInt, places := [c.homePlace s 0x40000 false], ranges := [c.homeRange (c.homePlace s 0x40000 false)] }
      decide ((c.sval f.c).toInt = -1024) && decide (homeCause (c.sval f.b).toNat c.t.tileBytes false = none) && decide (c.r.landed = none) && s.mayEnter o 16)) = true ∧
    (let f := af 0 392 0 0 0; let s := engine (.mloop f) loopDesc
     meets s (.mloop f) (fun c => clear (c.mloopChecks (s.stepStreams c.r.id (c.streamsRead (.mloop f))) (c.swords f.a 8)) &&
       decide (worst (s.pendingOn c.r.id ((c.mloopRegs (c.swords f.a 8)).map (·.1))) = .free) && (c.mloopOthers s (c.swords f.a 8)).isEmpty &&
       s.mayEnter (c.tagged s (c.mloopOp s f (c.swords f.a 8))) 16)) = true ∧
    (let f := af 0 392 0 0 0; let s := engine (.mdrain f) drainDesc
     meets s (.mdrain f) (fun c => let d := c.swords f.a 8
       mdDescOk d && Nat.blt (vw d 2 23 16) c.t.kernel.brecCount &&
       (match (s.stepStreams c.r.id (c.streamsRead (.mdrain f))).recordBytes c.t c.r.here (vw d 2 23 16) with
        | (s1, v, b) => decide (v = .ok) && Rec.sound true b && clear (c.mdrainChecks s1 f d (Rec.parse b)) &&
            s1.mayEnter (c.tagged s1 (c.mdrainOp s1 f d (Rec.parse b))) 16))) = true ∧
    (let f := af 0 0 392 393 0; let s := engine (.mscale f) [0, 0x40000, 0, 0, 0, 0, 0, 0]
     meets s (.mscale f) (fun c => clear (c.mscaleChecks s f) && s.mayEnter (c.tagged s (c.mscaleOp s f)) 16)) = true ∧
    (let f := af 0 0 8 393 1; let s := engine (.mscale f) [0, 0x40000, 0, 0, 0, 0, 0, 0]
     meets s (.mscale f) (fun c => c.renameOk (c.scaleOpd f) && Nat.ble ((c.reg f.b).toNat + 128 / c.r.width) c.r.count &&
       decide (s.interlock c [c.scaleOpd f] = .free) && clear (c.mscaleChecks s f) && s.mayEnter (c.tagged s (c.mscaleOp s f)) 16)) = true ∧
    (let f := af 400 0 393 0 0; let s := engine (.mstat f) [0, 0x40000, 0, 0, 0, 0, 0, 0]
     meets s (.mstat f) (fun c => decide (homeCause (c.sval f.b).toNat c.t.tileBytes false = none) && decide (c.r.landed = none) && s.ops.isEmpty && s.reqs.isEmpty)) = true ∧
    (let f := af 0 392 0 0 0; let s := viewing (engine (.wpool f) poolDesc)
     meets s (.wpool f) (fun c => clear (c.wpoolChecks s (c.swords f.a 8)) && s.mayEnter (c.tagged s (c.wpoolOp s f (c.swords f.a 8))) 16)) = true := by
  decide +kernel

/-- A ferry whose records are read, and which passes a test with them. -/
def ferryHere (i : Instr) (d : List Word) (p : State → Ctx → BRec → BRec → BRec → Bool) (tweak : State → State := id) : Bool :=
  let s := tweak (engine i d)
  meets s i (fun c => ferryDescOk i (c.swords 392 8) &&
    (match c.ferryRecs (s.stepStreams c.r.id (c.streamsRead i)) i (c.swords 392 8) (fun s1 src dst idx =>
        if p s1 c src dst idx then .stall s1 (.yield 7 7) else .stop s1) with
     | .stall _ (.yield 7 7) => true
     | _ => false))
def ferryOk (i : Instr) (f : AF) (d : List Word) (room : Bool := true) (tweak : State → State := id) : Bool := ferryHere i d (fun s1 c src dst idx =>
  let d := c.swords 392 8
  clear (c.ferryChecks s1 i f d src dst idx) && decide (s1.interlock c (fillOpds i f dst) = .free) &&
    (s1.mayEnter (c.tagged s1 (c.ferryOp s1 i f d src dst idx)) 256 == room)) tweak
/-- Boxes of 4 × 1 × 1 × 1 elements; a list of two rows of two elements. -/
def boxDesc (rec : Nat) : List Word := [BitVec.ofNat 32 rec, 3, 0, 0, 0, 0, 0, 0]
def listDesc : List Word := [0x20100, 2, 2, 0, 0, 0, 4, 0]
def queueDesc : List Word := [0x1000, 0, 0, 0, 0x2000, 0, 0, 0]
def latheDesc : List Word := [0, 0, 0x1000, 0, 64, 0, 0, 0]
/-- Sixteen rafts' worth of LATHE operations and more: no room. -/
def crowded (cls n : Nat) (s : State) : State :=
  { s with ops := List.replicate n { Op.blank 1000 (.nop (cf 0 0 0 0)) with cls := cls } }

theorem witness_FerriesIssue :
    let full := crowded 1 256
    (let f := af 0 392 0 448 0
     ferryOk (.fcopy f) f (boxDesc 0x100) && ferryOk (.fgather f) f listDesc && ferryOk (.fscatter f) f listDesc) = true ∧
    (let f := af 0 392 386 448 0; ferryOk (.ffill f) f (boxDesc 0x100)) = true ∧
    (let f := af 0 392 0 448 0
     [(Instr.fcopy f, boxDesc 0x100), (.fgather f, listDesc), (.fscatter f, listDesc)].all (fun x => ferryOk x.1 f x.2 false full)) = true ∧
    (let f := af 0 392 386 448 0; ferryOk (.ffill f) f (boxDesc 0x100) false full) = true ∧
    (let f := af 400 392 0 0 0; let s := engine (.fqueue f) queueDesc; meets s (.fqueue f) (fun c => fqueueDescOk (c.swords f.a 8) && s.ops.isEmpty && decide (worst (s.releaseWork c.r.id f.imm) = .free))) = true ∧
    (let f := af 400 392 0 0 0; let s := crowded 1 256 (engine (.fqueue f) queueDesc)
     meets s (.fqueue f) (fun c => fqueueDescOk (c.swords f.a 8) && decide (worst (s.releaseWork c.r.id f.imm) = .free) && !s.mayEnter (c.newOp s (.fqueue f) 1) 256)) = true := by decide +kernel

theorem witness_EngineChecksTrap :
    let fails (xs : List (Bool × Nat × Nat × Nat × Nat)) : Bool := (xs.find? (·.1)).isSome
    let f := af 0 392 0 0 0
    (let s := engine (.mloop f) (loopDesc.set 0 0x40001); meets s (.mloop f) (fun c => fails (c.mloopChecks s (c.swords f.a 8)))) = true ∧
    (let s := engine (.wpool f) poolDesc; meets s (.wpool f) (fun c => fails (c.wpoolChecks s (c.swords f.a 8)))) = true ∧
    (let s := engine (.mdrain f) (drainDesc.set 0 1)
     meets s (.mdrain f) (fun c => match s.recordBytes c.t c.r.here 0 with
       | (s1, v, b) => decide (v = .ok) && fails (c.mdrainChecks s1 f (c.swords f.a 8) (Rec.parse b)))) = true ∧
    (let g := af 0 392 0 448 0; ferryHere (.fgather g) (listDesc.set 0 0x102) (fun s1 c src dst idx => fails (c.ferryChecks s1 (.fgather g) g (c.swords 392 8) src dst idx))) = true ∧
    (let g := af 0 392 0 448 0; meets (engine (.fscatter g) (listDesc.set 1 0)) (.fscatter g) (fun c => !ferryDescOk (.fscatter g) (c.swords 392 8))) = true ∧
    (let g := af 400 392 0 0 0; meets (engine (.fqueue g) (queueDesc.set 3 1)) (.fqueue g) (fun c => !fqueueDescOk (c.swords 392 8))) = true ∧
    meets (engine (.lathe f) (latheDesc.set 4 0)) (.lathe f) (fun c => (latheCheck f (c.swords 392 8) 0).isSome) = true := by decide +kernel

theorem witness_LatheIssues :
    let f := af 0 392 0 0 0
    meets (engine (.lathe f) latheDesc) (.lathe f) (fun c => (latheCheck f (c.swords 392 8) 0).isNone && (engine (.lathe f) latheDesc).ops.isEmpty) = true ∧
    (let s := crowded 3 1024 (engine (.lathe f) latheDesc)
     meets s (.lathe f) (fun c => (latheCheck f (c.swords 392 8) 0).isNone && !s.mayEnter (c.newOp s (.lathe f) 3) 1024)) = true := by decide +kernel

/-- The team holds the grant of tile (0, 0) of the pass at address 0. -/
def aGrant : Grant := { id := 60, team := 1, core := 0, asid := 0, pass := 0, tx := 0, ty := 0, seg := 0, part := false, reload := false, retiring := false }
def granted (s : State) : State := { s with grants := [aGrant] }
/-- One expected fragment of each of the 16 pixels that a BLEND's lanes name. -/
def blending (s : State) : State :=
  let s1 := granted s
  { (raftsBy s1 (fun r => { r with v := (List.range 16).foldl (fun v l => sset v (64 * 4 + l) (BitVec.ofNat 32 l)) r.v })) with
    frags := (List.range 16).map (fun l => ⟨70 + l, 60, 0, l, 0, 0, none, false⟩) }

theorem witness_RenderOperationsIssue :
    let f := af 400 392 0 0 0
    let g := af 0 392 0 0 0
    let b := af 0 392 0 4 0
    meets (engine (.emit f) [0, 0, 0, 0, 65536, 0, 0, 0]) (.emit f) (fun c => let d := c.swords 392 8
      (d.drop 5).all (· == 0) && emitPrims d % 128 == 0 && Nat.ble (emitCount d) 65536 && canonical (passVa d) && canonical (emitPrims d + 128 * emitCount d - 1) && passVa d % 128 == 0) = true ∧
    meets (engine (.tileget f) []) (.tileget f) (fun c => decide (passCheck (passVa (c.swords 392 2)) = none)) = true ∧
    (let s := granted (engine (.tiledone g) []); meets s (.tiledone g) (fun c => decide (passCheck (passVa (c.swords 392 3)) = none ∧
      s.grantOf c.t (passVa (c.swords 392 3)) ((c.swords 392 3).getD 2 0) = some aGrant ∧ worst (s.releaseWork c.r.id 0xFF) = .free))) = true ∧
    (let s := granted (engine (.vis f) [0, 0, 0, 0, 0x2000, 0x4000, 0, 0])
     meets s (.vis f) (fun c => let d := c.swords 392 8
       visDescOk d && decide (s.grantOf c.t (passVa d) (d.getD 2 0) = some aGrant) && (visRanges d).all (fun x => Nat.ble (x.1 + x.2) c.t.tileBytes) && !visClash d &&
       decide (c.r.landed = none) && decide (s.ownTile c.t c.r = some (0, 0)))) = true ∧
    (let s := blending (engine (.blend b) [])
     meets s (.blend b) (fun c => let d := c.swords 392 8
       (d.drop 4).all (· == 0) && field (d.getD 3 0).toNat 27 21 == 0 && blendPlane d % 128 == 0 && decide (s.grantOf c.t (passVa d) (d.getD 2 0) = some aGrant) &&
       Nat.ble (blendPlane d + 16384 * blendSpp d) c.t.tileBytes && decide (s.ownTile c.t c.r = some (0, 0)) &&
       c.lanes.all (fun l => !c.blendBad s b (blendSpp d) aGrant l) && (c.blendHeld s b aGrant).isEmpty)) = true ∧
    (let t := af 16 392 8 0 0; meets (engine (.trace t) []) (.trace t) (fun c => passVa (c.swords 392 2) % 128 == 0 && canonical (passVa (c.swords 392 2)))) = true := by
  decide +kernel


/-! ### Witnesses: events of the issue engine and of memory accesses -/

/-- A state whose only sub-raft has left the quadrant and stands as changed. -/
def resting (f : Entry → Entry) (s : State := here (.nop (cf 0 0 0 0))) : State :=
  raftsBy { s with running := [] } (fun r => { r with split := r.split.map (fun x => x.map f) })
/-- The raft, team and entry that `here` makes pass a test. -/
def one (s : State) (p : Raft → Team → Entry → Bool) : Bool := match s.raft? 2, s.team? 1 with
  | some r, some t => decide (r.team = 1) && (match r.entry? 0 with
    | some en => p r t en
    | none => false)
  | _, _ => false
/-- At a header whose clause is not fetched. -/
def atHeader (en : Entry) : Entry := { en with clause := none, inside := false }
/-- A line of ASID 0 whose header of one word names a class for a second. -/
def withMisfit (s : State) : State :=
  { s with lines := s.lines ++ [⟨0, 0, 0x40 :: List.replicate 127 0, false, true, true, true, false, false, []⟩] }
def later (n : Nat) (s : State) : State := { s with clock := n }

theorem witness_SubRaftEvents :
    let fetch (s : State) (ok : Bool) : Bool := one s (fun r t en => decide (en.clause = none ∧ en.wait = .none ∧ r.halted = false ∧
      r.migrating = false ∧ r.stopping = none ∧ t.stowed = none) && (match s.fetchClause t.asid en.pc with
        | (_, .clause cl) => cl.ok == ok
        | _ => false))
    let start := resting (fun en => { en with inside := false })
    let yield := later 8 (resting (fun en => { en with wait := .yield 7 0 }))
    let quota := raftsBy (resting (fun en => { en with wait := .quota 384 0 })) (fun r => { r with count := 376 })
    let gone := raftsBy (resting id) (fun r => { r with exitAt := some (0, 0) })
    let two : State := { gone with rafts := gone.rafts ++ gone.rafts.map (fun r => { r with id := 9 }) }
    let free (s : State) (last : Bool) : Bool := one s (fun r t _ => decide (t.dying = none ∧ r.exitAt = some (0, 0) ∧ r.halted = false ∧
      r.stopping = none ∧ t.stowed = none ∧ t.group = none ∧ s.reqs = [] ∧ s.ops = []) &&
      (last == s.rafts.all (fun y => y.team != t.id || y.id == r.id)))
    fetch (withLine 0 (resting atHeader)) true = true ∧ fetch (withMisfit (resting atHeader)) false = true ∧
    (start.running = [] ∧ start.startable 0 0 ≠ [] ∧
      (start.startable 0 0).all (fun x => decide (start.startBlock x.1 x.2.2 = .free) &&
        ((start.team? x.1.team).all (fun t => (start.breakHit t x.2.2).isNone))) = true) ∧
    one yield (fun r _ en => decide (en.wait = .yield 7 0) && Nat.ble 7 (yield.elapsed r.here 0) && r.hears && decide ((yield.team? 1).map (·.stowed) = some none)) = true ∧
    one quota (fun r t en => decide (en.wait = .quota 384 0 ∧ r.landed = none ∧ r.count ≤ 384 ∧ r.halted = false ∧ r.stopping = none ∧ t.stowed = none) &&
      Nat.ble (384 - r.count) (quota.poolFree t r) && (quota.poolRafts r).all (fun x => decide (x.id = r.id))) = true ∧
    free gone true = true ∧ free two false = true := by decide +kernel

/-- A line of ASID 0 at address 0 that holds a barrier: EXPECTED arrivals, and so many made. -/
def withBarrier (expected arrived : Nat) (s : State) : State :=
  { s with lines := s.lines ++ [⟨0, 0, (⟨arrived, expected, 0, 5, 0⟩ : Barrier).into (overlay (List.replicate 128 0) 4 (toBytes 4 expected)), false, true,
    true, true, false, false, []⟩] }
/-- A request of the raft that nothing holds back: its accesses are as given. -/
def aReq (kind : ReqKind) (parts : List Part) (dest : Option Dest := none) : Req :=
  { id := 3, raft := 2, core := 0, kind := kind, acq := false, rel := false, scope := 0, mask := 0, lanes := 1, dest := dest, parts := parts
    data := [], got := [], tags := 0, tagLanes := [], binds := [], missed := [], twin := none, born := 0, early := false, checked := true, replay := false, fault := none, pc := 0, slot := 0, instr := 0 }
def withReq (q : Req) (s : State) : State := { s with reqs := s.reqs ++ [q], nextId := 100 }
def okRead (r : State × Verdict × List Byte) : Bool := r.2.1 == .ok

theorem witness_BarriersAndWaitsEnd :
    let x : Barrier := ⟨0, 2, 0, 5, 1⟩
    let arrive (ent : Option Nat) (dest : Option Dest) := aReq (.arrive 0 ent) [⟨0, .virt 0, 0, 64, 0, none⟩] dest
    let s := withReq (arrive none (some ⟨400, 1, 1, true, 384⟩)) (withBarrier 1 0 (resting id))
    let first := withReq (arrive (some 0) none) (withBarrier 2 0 (resting (fun en => { en with wait := .barrier 0 none })))
    let full := withReq (arrive (some 0) none) (withBarrier 1 1 (resting id))
    let credit : State := { withBarrier 2 0 (resting id) with credits := [⟨7, 3, 0, 0, 128⟩] }
    let noticed (k : NoticeKind) (s : State) : State := { s with notices := [⟨7, k⟩] }
    let waiting (g : Word) := noticed (.wake 0 0 0) (withBarrier 2 0 (resting (fun en => { en with wait := .barrier 0 (some g) })))
    let woken (g : Word) (same : Bool) : Bool := one (waiting g) (fun r _ _ => ((waiting g).rafts.filter ((waiting g).waitsOn 0 0 0)).length == 1 &&
      r.hears && r.subs.length == 1 && okRead ((waiting g).readAt 0 16 4 .read) &&
      ((BitVec.ofNat 32 (ofBytes ((waiting g).readAt 0 16 4 .read).2.2) == g) == same))
    let mem (value : Nat) := later 5000 (withLine 0 (resting (fun en => { en with wait := .mem 0 4 0 value 0 0 })))
    let reread (s : State) (value : Nat) (ends : Bool) : Bool := one s (fun r t _ => r.hears && decide (t.stowed = none) &&
      Nat.ble 4096 (s.elapsed r.here 0) && decide (s.waitmemBlock r t.asid 0 4 = .free) && !s.held t.asid 0 && okRead (s.readAt 0 0 4 .read) && (waitCond 0 (ofBytes (s.readAt 0 0 4 .read).2.2) value == ends))
    -- the four clauses of an arrival and a credit
    (⟨2, 2, 0, 5, 0⟩ : Barrier).expected ≤ 2 ∧ x.arrived < x.expected ∧ x.arrived + 1 ≠ x.expected ∧
    (⟨1, 2, 0, 5, 1⟩ : Barrier).arrived + 1 = 2 ∧ (⟨1, 1, 128, 5, 0⟩ : Barrier).tx = 128 % 2 ^ 64 ∧
    (s.req? 3).isSome = true ∧ okRead (s.readAt 0 0 64 .write) = true ∧
      ((Barrier.ofBytes (s.readAt 0 0 64 .write).2.2).arrive 0).isSome = true ∧ (s.raft? 2).isSome = true ∧ one s (fun r _ _ => decide (r.stopping = none)) = true ∧ s.away 2 = false ∧
    one first (fun r _ _ => decide (r.stopping = none) && (r.entry? 0).isSome && okRead (first.readAt 0 0 64 .write) &&
      ((Barrier.ofBytes (first.readAt 0 0 64 .write).2.2).arrive 0).any (fun x => x.1.gen == x.2.2)) = true ∧
    okRead (full.readAt 0 0 64 .write) = true ∧ (Barrier.ofBytes (full.readAt 0 0 64 .write).2.2).arrive 0 = none ∧
    okRead (credit.readAt 0 0 64 .write) = true ∧
    ((noticed (.wake 0 0 0) (resting id)).rafts.all (fun r => !(noticed (.wake 0 0 0) (resting id)).waitsOn 0 0 0 r)) = true ∧
    woken 5 true = true ∧ woken 6 false = true ∧
    reread (mem 0) 0 (waitCond 0 0 0) = true ∧ reread (mem 1) 1 (waitCond 0 0 1) = true ∧ waitCond 0 0 0 ≠ waitCond 0 0 1 ∧
    ((noticed (.fired (.wait 2 0)) (mem 0)).notices.find? (fun n => n.id == 7)).isSome = true := by decide +kernel

theorem witness_AccessesArePerformed :
    let part : Part := ⟨0, .tile 0, 128, 4, 0, none⟩
    let inV : Part := ⟨0, .virt 0, 128, 4, 0, none⟩
    let ok (q : Req) (s : State) (line : Space × Nat) : Bool := let s := withReq q s
      decide ((s.req? q.id).isSome = true ∧ q.replay = false ∧ q.fault = none ∧ q.checked = true ∧ s.away q.raft = false) &&
      q.parts.all (fun p => p.space == line.1 && p.addr / 128 == line.2 && Nat.ble (p.addr % 128 + p.len) 128) &&
      (decide (s.readyLines q = [line]) || decide (q.kind = .rrot)) && !q.acq
    let load := aReq (.load 4 false) [part] (some ⟨5, 1, 1, false, 384⟩)
    let base := resting id
    let empty : State := { base with empty := sset [] (lineKey 0 1) 1 }
    let lined := withLine 128 base
    let atom := aReq (.atom 0) [part]
    let cas := aReq (.cas 4) [part]
    let inHome (q : Req) : Bool := let s := withReq q lined
      ok q lined (.virt 0, 1) && s.partGoes q inV && ((s.ensure 0 128 .write).2 == .ok) &&
        (match (s.ensure 0 128 .write).1.l2At 0 128 with
         | some l => l.data.length == 128 && ((q.swap 0 ((l.data.drop 0).take 4)).all (fun x => x.length == 4))
         | none => false)
    let rec8 : BRec := Rec.parse (List.replicate 40 0)
    let rrot := aReq .rrot [⟨0, .tile 0, 128, 128, 0, none⟩]
    ok load base (.tile 0, 1) = true ∧ okRead ((withReq load base).draw.2.lineForLoad load (.tile 0) 1) = true ∧
    one base (fun r _ _ => Nat.ble (5 + 1) (min r.count 384)) = true ∧
    ok (aReq .store [part]) base (.tile 0, 1) = true ∧
    ok (aReq .store [inV]) lined (.virt 0, 1) = true ∧ (withReq (aReq .store [inV]) lined).mayShow (aReq .store [inV]) = false ∧ (lined.draw.2.ensure 0 128 .write).2 = .ok ∧
      ((lined.draw.2.ensure 0 128 .write).1.l2At 0 128).map (·.data.length) = some 128 ∧
    ok (aReq (.setfe true) [part]) base (.tile 0, 1) = true ∧ ok (aReq (.setfe false) [part]) base (.tile 0, 1) = true ∧
    ok atom base (.tile 0, 1) = true ∧ (withReq atom base).partGoes atom part = true ∧
      ((atom.swap 0 (base.tileGet 0 128 4)).all (fun x => x.length == 4)) = true ∧
    ok cas base (.tile 0, 1) = true ∧ (withReq cas base).partGoes cas part = true ∧
      ((cas.swap 0 (base.tileGet 0 128 4)).all (fun x => x.length == 4)) = true ∧
    inHome (aReq (.atom 0) [inV] (some ⟨5, 1, 1, false, 384⟩)) = true ∧ inHome (aReq (.cas 4) [inV]) = true ∧
    -- a uniform load, one by a record, one to an s register, and one that acquires at the scope of the module
    ok (aReq (.load 4 false) [part] (some ⟨5, 1, 3, true, 384⟩)) base (.tile 0, 1) = true ∧
    ok (aReq (.loadRec rec8 0 false) [part] (some ⟨400, 1, 1, true, 384⟩)) base (.tile 0, 1) = true ∧ Kind.of (400 : RegNum) = .scl ∧
    (let q := { aReq (.load 4 false) [inV] (some ⟨5, 1, 1, false, 384⟩) with acq := true, scope := 4 }
     let s := withReq q lined
     decide ((s.req? 3).isSome = true ∧ s.readyLines q = [(.virt 0, 1)] ∧ 2 ≤ s.scopeOf 1 4) && okRead (s.draw.2.lineForLoad q (.virt 0) 1) &&
       one lined (fun _ _ _ => true)) = true ∧
    ok rrot empty (.tile 0, 1) = true ∧ (rrot.parts.find? ((withReq rrot empty).rrotGoes rrot)).isSome = true ∧
    canonical (BitVec.toNat (w := 64) 0) = true := by decide +kernel

/-- A translation of ASID 0 for the 64 KiB page at 0, whose PTE lies at physical address 0x20000 and names frame 0x10000. -/
def aPte : DWord := 0x1001D
def withTlb (s : State) : State :=
  { s with
    pmem := ssets s.pmem 0x20000 (toBytes 8 aPte.toNat)
    tlb := [⟨s.homeOf 0 0, 0, 0, 65536, aPte, 0x20000⟩] }
/-- The tables of ASID 0: its descriptor at ASID_BASE names a first table at 0x200000, and entry 0 of each level the next. -/
def withTables (leaf : Nat) (s : State) : State :=
  let put (m : Memory) (at_ x : Nat) := ssets m at_ (toBytes 8 x)
  { s with
    ctl := { s.ctl with asidBase := 0x100000 }
    pmem := put (put (put (put (put s.pmem 0x100000 0x200001) 0x200000 0x400001) 0x400000 0x401001) 0x401000 0x402001) 0x402000 leaf }

/-- A walk for page 0 of ASID 0, alone in progress, and behind 64 others. -/
def aWalk (found : Option WalkResult) : PageWalk := ⟨0, 0, .read, found⟩
def walking (found : Option WalkResult) : State := { State.reset with walks := [aWalk found] }
def queueing : State := { State.reset with walks := List.replicate 64 ⟨7, 0, .read, none⟩ ++ [aWalk none] }

theorem witness_FillsWalksAndRecords :
    let s := withTlb State.reset
    let found := withTables (aPte.toNat ||| 2) State.reset
    let absent := withTables 0 State.reset
    let bad : State := { State.reset with ctl := { State.reset.ctl with asidBase := 0 }, pmem := sset [] 6 0xF0 }
    let ring (n : DWord) : State := { State.reset with ringWait := [⟨0x10000, 1, 3, 0⟩], csr := { State.reset.csr with fqHead := n } }
    s.l2At 0 0 = none ∧ s.held 0 0 = false ∧ s.marked 0 0 = false ∧
    (match s.tlbAt (s.homeOf 0 0) 0 0 with
     | some e => !s.direct 0 0 e && bit e.pte.toNat (accPerm .read) && (s.setAD e 0x40).isSome
     | none => false) = true ∧
    (match found.walk 0 0 with
     | .page _ _ _ _ => true
     | _ => false) = true ∧
    (match absent.walk 0 0 with
     | .absent _ _ false => true
     | _ => false) = true ∧
    (match State.reset.walk 0 0 with
     | .absent _ _ true => true
     | _ => false) = true ∧
    bad.walk 0 0 = .bad ∧ bad.marked 0 0 = false ∧ absent.marks = [] ∧
    -- a request alone, one behind 64 others, and walks that have found a page, none, and a bad PTE
    canonical (BitVec.toNat (w := 64) 0) = true ∧ State.reset.walkFor 0 0 = none ∧ (walking none).walkFor 0 0 = some (aWalk none) ∧ (walking none).posts = [] ∧
    ((queueing).walkFor 0 0 = some (aWalk none) ∧ queueing.walks[64]? = some (aWalk none) ∧ (∀ j, j < 64 → queueing.walks[j]? ≠ some (aWalk none))) ∧
    ([some (.page 0 65536 aPte 0x20000), some (.absent 0 65536 false), some (.absent 0 65536 true), some .bad].all (fun w =>
      decide ((walking w).walkFor 0 0 = some (aWalk w) ∧ (walking w).marked 0 0 = false))) = true ∧
    (walking none).marksFull 0 = false ∧ ({ walking none with marks := List.replicate 4096 ⟨0, 7, 0, 65536⟩ } : State).marksFull 0 = true ∧
    (2 ^ field (ring 16).csr.fqCtl.toNat 4 0 ≤ ((ring 16).csr.fqHead - (ring 16).csr.fqTail).toNat) ∧
    (((ring 15).csr.fqHead - (ring 15).csr.fqTail).toNat < 2 ^ field (ring 15).csr.fqCtl.toNat 4 0) := by decide +kernel

/-! ### Witnesses: mooring, stowing and dispatch -/

/-- The raft's sub-raft waits as given, and the raft has been moored since cycle 0. -/
def mooredIn (w : Wait) : State := raftsBy (resting (fun en => { en with wait := w })) (fun r => { r with mooredAt := some 0 })
/-- One frame slot, and die 0 alone takes dispatch. -/
def withSlots (n : Nat) (s : State) : State :=
  { s with down := [1, 2, 3, 4, 5, 6, 7], csr := { s.csr with stowSlots := BitVec.ofNat 32 n, stowBase := 0x10000000 } }

theorem witness_MooredAndMigratingRafts :
    let replay (s : State) := withReq { aReq .store [⟨0, .virt 0, 128, 4, 0, none⟩] with replay := true } s
    let listed := replay (withLine 128 (resting id))
    let alone := withLine 128 (mooredIn (.moored (some 128)))
    let lands (die : Nat) (ready : Option Nat) (p : State → Raft → Bool) : Bool :=
      let s : State := { resting (fun en => { en with wait := .migrate die ready }) with nextId := 100 }
      one s (fun r t _ => namedB s && decide (r.migration = some (0, die, ready) ∧ t.stowed = none ∧ r.halted = false ∧ r.stopping = none ∧
        s.moveBlock r = .free) && p s r)
    listed.replayReady 2 = true ∧ listed.reqs.any (fun q => q.raft == 2 && q.replay) = true ∧ one listed (fun _ t _ => decide (t.stowed = none)) = true ∧
    alone.replayReady 2 = true ∧ alone.reqs = [] ∧ one alone (fun _ t en => en.wait.isMoored && alone.slotReady t.asid en.wait) = true ∧
    lands 0 none (fun _ r => r.core / 32 == 0) = true ∧ lands 1 none (fun _ r => r.core / 32 != 1) = true ∧
    lands 1 (some 0) (fun s r => !s.landsLater r 1 0 && decide (s.landingOn r 1 = some 32)) = true := by decide +kernel

theorem witness_StowsBegin :
    let ok (s : State) (limit : Bool) (slots : Nat) : Bool := let s := withSlots slots s
      one s (fun r t _ => namedB s && decide (t.stowing = none) && s.quietGroup (s.groupOf t) && s.matrixSettled (s.groupOf t) && s.slotsKept (s.groupOf t) == 0 &&
        (if limit then decide (s.csr.moorLimit ≠ 0) && Nat.ble s.csr.moorLimit.toNat (s.mooredFor r)
         else decide (s.csr.stowDelay ≠ 0) && !s.canIssue r && Nat.ble s.csr.stowDelay.toNat (s.mooredFor r)) &&
        (decide (t.stowTry = none) || (match t.stowTry with
          | some (_, since, cycles) => s.triggered t (if limit then 1 else 2) && (Nat.blt since s.slotsFreed || Nat.ble 65536 (s.elapsed 0 cycles))
          | none => false)) && r.mooredAt.isSome)
    let moored := mooredIn (.moored (some 128))
    let again (s : State) := teamsBy s (fun t => { t with stowTry := some (1, 0, 0) })
    ok (later 80000 moored) true 0 = true ∧ ok (later 80000 moored) true 1 = true ∧ ok (later 5000 moored) false 0 = true ∧
    ok (later 5000 moored) false 1 = true ∧ ok (again (later 80000 moored)) true 0 = true ∧ ok (again (later 80000 moored)) true 1 = true ∧
    one (again moored) (fun _ t _ => !(again moored).triggered t 1) = true := by decide +kernel

theorem witness_StowAndRestore :
    let small (s : State) := kernelBy s (fun k => { k with tmemLines := 1 })
    let s := withSlots 1 (small (raftsBy (resting id) (fun r => { r with stopping := some 6 })))
    let stowing := teamsBy s (fun t => { t with stowing := some 1 })
    let stowed := withSlots 1 (small (teamsBy (resting id) (fun t => { t with stowed := some ⟨[0], 1⟩ })))
    one stowing (fun r t _ => namedB stowing && decide (t.group = none ∧ t.dying = none ∧ t.stowing = some 1 ∧ t.cores = [0] ∧ t.bases = [0] ∧
      t.kernel.ring = false ∧ r.halted = false ∧ stowing.freeSlots = [0] ∧ stowing.exchanges = []) && stowing.still r && stowing.matrixSettled [t] && !stowing.slotsLack [t]) = true ∧
    one stowed (fun r t _ => namedB stowed && decide (t.stowed = some ⟨[0], 1⟩ ∧ t.kernel.ring = false ∧ stowed.reqs = [] ∧ stowed.ops = []) &&
      !stowed.down.contains (t.cores.headD 0 / 32) && r.subs.all (fun x => x.2.wait == .none) &&
      (stowed.placesFor t.kernel 1 [0] (fun c => stowed.reservedElse 65536 0 c)).any (fun p => decide (p = [(1, 0)]))) = true := by decide +kernel

/-- A launch of the probe's kernel, of a queue at priority 0, with so many teams in x. -/
def aLaunch (ring : Bool) : Launch :=
  { id := 60, queue := 0, seq := 0, asid := 0, gx := 4, gy := 1, gz := 1, lnum := 0, args := 7, srseed := 0, user := 0, prio := 0
    kernel := { probeKernel with ring := ring, tmemLines := 1 }, nextTeam := 0, ended := 0, trapped := 0, lists := [], since := 0 }
def launching (ring : Bool) : State :=
  withSlots 1 { State.reset with launches := [aLaunch ring], nextId := 100 }
/-- A mapped queue of priority 100 with one packet, whose bytes are as given. -/
def aQueue (state : Nat) (ps : List Packet) : Queue :=
  { index := 5, qhdr := 0, ring := 64, crec := 1024, asid := 0, prio := 100, supv := true, pre := true, clog2 := 4, log2 := 4, state := state
    packets := ps, since := 0, startable := 0, readAt := 0, paged := none, unshown := false, cause := 0, errSeq := 0, expSeq := 0, done := 0, leaving := none }
/-- A packet of 64 bytes from its 32-bit words. -/
def packet (ws : List Word) (stage : Nat := 0) : Packet :=
  ⟨ws.getD 1 0, (List.range 16).flatMap (fun k => toBytes 4 (ws.getD k 0).toNat), stage, 0, 0, none, none, false, false⟩
/-- A LAUNCH packet whose VACATE is 32 cores, on a module with 31 free. -/
def vacating : Packet := packet [1, 1, 0, 0, 0, 0, 0, 0, 0, 0, 0x2000]
def demanding : State := { withSlots 1 (resting id) with queues := [aQueue 2 [vacating]] }

theorem witness_TeamsStart :
    (let s := launching false
     (s.launch? 60).isSome = true ∧ s.servedBefore (s.launchPrio (aLaunch false)) 0 = false ∧ (s.choosePlace (aLaunch false)).isSome = true ∧
      ((s.choosePlace (aLaunch false)).all (fun p => p.all (fun x => Nat.blt x.1 256 && Nat.ble (x.2 + 1) 16384))) = true) ∧
    (let s := launching true
     s.servedBefore (s.launchPrio (aLaunch true)) 0 = false ∧
      ((s.choosePlace (aLaunch true)).any (fun p => p.length == (aLaunch true).groupSize)) = true) ∧
    (let s := demanding
     (s.queueWith 5 (fun q => q.state == 2)) = some (aQueue 2 [vacating]) ∧ s.nextPacket [vacating] = some vacating ∧ vacating.opc = 1 ∧
      vacating.vacate ≠ 0 ∧ s.striking (aQueue 2 [vacating]) vacating = false ∧
      ((s.choice (aQueue 2 [vacating]) vacating).any (fun vs => vs.length == 1 && vs.all s.matrixSettled)) = true) := by decide +kernel

/-! ### Witnesses: events of the engines -/

/-- The operation that an engine instruction starts, as changed, and alone in flight. -/
def after (i : Instr) (s : State) : State := match exec i s with
  | .next t => t
  | _ => s
def working (i : Instr) (d : List Word) (f : Op → Op) (tweak : State → State := id) : State :=
  let t := after i (tweak (engine i d))
  { t with ops := t.ops.map f }
def theOp (s : State) (p : Op → Bool) : Bool := match s.ops with
  | [o] => decide (s.op? o.id = some o) && p o
  | _ => false
def inPhase (phase pos : Nat) (o : Op) : Op := { o with phase := phase, pos := pos, resv := 1 }

theorem witness_MatrixEvents :
    let f := af 0 392 0 0 0
    let g := af 0 0 393 392 0
    let h := af 400 0 393 0 0
    let own (s : State) (o : Op) : Bool := decide (o.cls = 0 ∧ o.place 0 = (.tile 0, 0x40000) ∧ s.empty = [] ∧ o.marked = [])
    let loop (phase pos : Nat) (p : State → Op → Bool) : Bool :=
      let s := working (.mloop f) loopDesc (inPhase phase pos)
      theOp s (fun o => own s o && p s o)
    let clear_ (phase pos : Nat) (p : State → Op → Bool) : Bool :=
      let s := working (.macc g) [0xFFFFFC00, 0x40000, 0, 0, 0, 0, 0, 0] (inPhase phase pos)
      theOp s (fun o => own s o && p s o)
    loop 0 0 (fun s o => s.startTurn o && (s.accums o.core).isEmpty) = true ∧
    loop 1 0 (fun s o => s.opGoes o && Nat.ble (mlNext o.desc) 128 && decide (o.pos + 1 = mlSteps o.desc)) = true ∧
    loop 2 0 (fun s o => s.opGoes o) = true ∧ loop 2 16384 (fun s o => s.opGoes o) = true ∧
    clear_ 0 0 (fun s o => s.startTurn o) = true ∧ clear_ 1 0 (fun s o => s.opGoes o) = true ∧
    clear_ 1 (imageBytes / 8) (fun s o => s.opGoes o) = true ∧
    (let s := working (.mstat h) [0, 0x40000, 0, 0, 0, 0, 0, 0] id
     theOp s (fun o => own s o && s.startTurn o && decide (o.raft = some 2 ∧ (s.raft? 2).isSome = true ∧ s.away 2 = false) &&
      o.dest.any (fun d => decide (Kind.of d.first = .scl ∧ lanesOf 64 d.lanes ≠ [])))) = true ∧
    (let s := withTlb (working (.mloop f) loopDesc (fun o => { o with susp := some 0 }))
     theOp s (fun o => own s o && decide (o.susp = some 0) && !s.absent o.asid 0 && !s.opStowed o && o.phase != 2)) = true := by decide +kernel

theorem witness_FerryAndLatheEvents :
    let f := af 0 392 0 448 0
    let fill := af 0 392 386 448 0
    let q := af 400 392 0 0 0
    let l := af 0 392 0 0 0
    let ferry (i : Instr) (d : List Word) (phase pos : Nat) (p : State → Op → Bool) (ext : List Word := []) : Bool :=
      let s := working i d (fun o => { inPhase phase pos o with ext := ext })
      theOp s (fun o => isFerry o.instr && s.opGoes o && p s o)
    let at_ (s : State) (o : Op) (k : Nat) : Bool :=
      let di := (ferryIndex o.instr o.desc (o.brec 0) (o.brec 1) 0 k).2
      decide ((o.brec 1).space ≠ 3 ∧ strictOut (o.brec 1) di = false) && (match settleIndex (o.brec 1) di false with
        | some j => decide ((spotOf (o.place 1) (o.brec 1) j).space = .tile 0 ∧ (spotOf (o.place 1) (o.brec 1) j).nibble = none)
        | none => false) && s.ops.length == 1
    let done (r : State × ERes) : Bool := r.2 == .done
    let lathe (resv : Nat) (p : Op → Nat → Bool) : Bool :=
      let s := withLine 0x1000 (withLine 0 (working (.lathe l) [0, 0, 0x1000, 0, 8, 0, 0, 0] (fun o => { inPhase 0 0 o with resv := resv })))
      theOp s (fun o =>
        let n := min o.resv (o.latheRest o.pos)
        let va := (o.latheAt o.pos).2
        decide (o.cls = 3) && s.opGoes o && p o n &&
        (match State.latheReads o o.pos n s with
         | (s1, .done, m, _) => (match s1.ensure o.asid va .write with
           | (s2, .ok) => (s2.writeAt o.asid va (toBytes (latheSize l) (latheElem l (o.ext.headD 0).toNat
               (ofBytes (s2.homeGet o.asid va (latheSize l))) (ofBytes (sgets m (latheSize l * o.pos) (latheSize l))))) true).2 == .ok
           | _ => false)
         | _ => false))
    let hdr : List Byte := overlay (List.replicate 128 0) 24 [4]
    ferry (.fcopy f) (boxDesc 0x100) 4 0 (fun _ o => Nat.ble (o.chunkLen o.pos) o.phase && Nat.ble o.amount ((o.pos + 1) * o.perChunk)
      && decide (o.raft = some 2) && !(working (.fcopy f) (boxDesc 0x100) (inPhase 4 0)).away 2) = true ∧
    ferry (.fcopy f) (boxDesc 0x100) 4 0 (fun _ o => Nat.ble (o.chunkLen o.pos) o.phase && decide (o.ext = [0x2000, 0])) [0x2000, 0] = true ∧
    ferry (.fcopy f) ((boxDesc 0x100).set 1 8191) 4096 0 (fun _ o => Nat.ble (o.chunkLen o.pos) o.phase && Nat.blt ((o.pos + 1) * o.perChunk) o.amount) = true ∧
    ferry (.fcopy f) (boxDesc 0x100) 3 0 (fun s o => decide (o.phase + 1 = o.chunkLen o.pos ∧ combines o.instr = false ∧ isMx (o.brec 1).fmt = false) &&
      done (s.draw.2.ferryElem o 3)) = true ∧
    ferry (.fscatter (af 0 392 0 448 0 1)) listDesc 0 0 (fun s o => Nat.blt o.phase (o.chunkLen o.pos) && decide (isMx (o.brec 1).fmt = false) && (combines o.instr &&
      done (s.ferryElem (o.spend 1 s.clock) 0))) = true ∧
    ferry (.ffill fill) (boxDesc 0x100) 0 0 (fun s o => at_ s o 0) = true ∧
    ferry (.fcopy f) (boxDesc 0x100) 0 0 (fun s o => at_ s o 0 &&
      (s.ferryRead o 0 (ferryIndex o.instr o.desc (o.brec 0) (o.brec 1) 0 0).1 0).2.1 == .done) = true ∧
    (let s := later 5000 (working (.fqueue q) queueDesc (fun o => { o with phase := 3 }))
     let s : State := { s with lines := s.lines ++ [⟨0, 0x1000 / 128, hdr, false, true, true, true, false, false, []⟩], queues := [{ aQueue 1 [] with qhdr := 0x1000 }] }
     theOp s (fun o => decide (o.fault = none ∧ o.susp = none ∧ o.peerOf = none ∧ o.qhdr = 0x1000) && Nat.ble 4096 (s.elapsed o.core o.since) &&
      (s.queueAt o.asid o.qhdr).isSome && okRead (s.readAt o.asid o.qhdr 64 .write) && (claimStep (s.readAt o.asid o.qhdr 64 .write).2.2).isSome)) = true ∧
    lathe 1 (fun o n => Nat.blt (o.pos + n) o.amount) = true ∧ lathe 2 (fun o n => Nat.ble o.amount (o.pos + n)) = true ∧
    (let s := withTlb (working (.fcopy f) (boxDesc 0x100) (fun o => { o with susp := some 0 }))
     theOp s (fun o => decide (o.susp = some 0 ∧ o.cls = 1) && !s.absent o.asid 0 && !s.opStowed o)) = true ∧
    (let s := withTlb (working (.lathe l) latheDesc (fun o => { o with susp := some 0 }))
     theOp s (fun o => decide (o.susp = some 0 ∧ o.cls = 3) && !s.absent o.asid 0 && !s.opStowed o)) = true := by decide +kernel

/-! ### Witnesses: events of render work -/

/-- A pass of one by one tiles at address 0. -/
def aPass (phase : Nat) (avail : List (Nat × Nat)) : Pass :=
  { id := 61, asid := 0, addr := 0, arena := 0x10000, bytes := 65536, die := 0, emitters := 1, tilesX := 1, tilesY := 1, seg := 0, seq := 7
    closed := 0, used := 0, prims := [], phase := phase, avail := avail, given := [], by_ := [], prevBy := [], last := [] }
def withPass (phase : Nat) (avail : List (Nat × Nat)) (s : State) : State := { s with passes := [aPass phase avail] }
/-- One record at address 128. -/
def emitDesc : List Word := [0, 0, 128, 0, 1, 0, 0, 0]
def okPut (r : State × ERes) : Bool := r.2 == .done

theorem witness_PassesAndTiles :
    let f := af 400 392 0 0 0
    let g := af 0 392 0 0 0
    let emit (phase seg pos : Nat) (p : State → Op → Bool) : Bool :=
      let s := withPass seg [] (withLine 128 (working (.emit f) emitDesc (inPhase phase pos)))
      theOp s (fun o => s.opGoes o && decide (s.pass? o.asid o.passVa = some (aPass seg [])) && p s o)
    let get (fn : Nat) (ps : State → State) (p : State → Op → Bool) : Bool :=
      let s := ps (working (.tileget (af 400 392 0 0 fn)) [] id)
      theOp s (fun o => s.opGoes o && decide (o.team = some 1 ∧ o.raft = some 2 ∧ (s.team? 1).map (fun t => (t.dying, t.ended)) = some (none, false)) &&
        o.dest.any (fun d => decide (Kind.of d.first = .scl ∧ lanesOf 64 d.lanes ≠ []) && Nat.blt d.first.toNat 447) && p s o)
    let ends (phase : Nat) (avail : List (Nat × Nat)) (p : State → Op → Bool) : Bool :=
      let s := withPass phase avail (working (.tiledone g) [] id granted)
      theOp s (fun o => s.opGoes o && !s.olderWork o 0xFF && decide (s.frags = [] ∧ s.pass? 0 0 = some (aPass phase avail)) &&
        s.grants.any (fun x => x.id == o.amount) && p s o)
    (okPut ((withPass 1 [] (withLine 0 State.reset)).passWrite (aPass 1 []) none 0x18 (toBytes 4 7 ++ toBytes 4 1))) = true ∧
    emit 0 0 0 (fun s o => s.ops.all (fun x => x.id == o.id) && okPut (s.passWrite (aPass 0 []) (some o) 0x18 (toBytes 8 0))) = true ∧
    emit 1 0 0 (fun s o => decide (o.pos + 1 = o.amount) && !s.writtenAhead o (emitPrims o.desc + 128 * o.pos) 128 && okRead (s.draw.2.readAt o.asid (emitPrims o.desc + 128 * o.pos) 128 .read) &&
      primOk (s.draw.2.readAt o.asid (emitPrims o.desc + 128 * o.pos) 128 .read).2.2 &&
      Nat.ble (96 + 16 * 512) ((aPass 0 []).bytes - 32)) = true ∧
    emit 2 0 0 (fun s o => decide (sget o.work 1 = 0 ∧ o.raft = some 2 ∧ (s.raft? 2).isSome = true) && !f.fn.getLsbD 0 &&
      o.dest.any (fun d => decide (Kind.of d.first = .scl ∧ lanesOf 64 d.lanes ≠ []))) = true ∧
    get 0 (fun s => { s with passEnds := [(0, 0)] }) (fun s o => decide (s.pass? o.asid o.passVa = none ∧ (o.asid, o.passVa) ∈ s.passEnds)) = true ∧
    get 1 (withPass 1 []) (fun s o => decide (s.regrants = [] ∧ s.pickTile (aPass 1 []) o.core = none)) = true ∧
    get 0 (withPass 1 [(0, 0)]) (fun s o => decide (s.regrants = [] ∧ s.pickTile (aPass 1 [(0, 0)]) o.core = some (0, 0)) && !s.servedFirst o) = true ∧
    ends 1 [(0, 0)] (fun _ _ => true) = true ∧
    ends 2 [(0, 0)] (fun s o => okPut (s.passWrite (aPass 2 [(0, 0)]) (some o) 0x20 (toBytes 8 (2 ^ 32)))) = true := by decide +kernel

theorem witness_SamplingAndTracing :
    let f := af 400 392 0 0 0
    let b := af 0 392 0 4 0
    let t := af 16 392 8 0 0
    let d : List Word := [0, 0, 0, 0, 0x2000, 0x4000, 0, 0]
    (let s := working (.vis f) d id granted
     theOp s (fun o => s.opGoes o && s.fillsFirst o && decide (o.places.head? = some (.tile 0, 0)) && s.grants.any (fun x => x.id == o.amount) &&
      (linePieces (visStab o.desc) 1024).all (fun x => !s.emptyFor o.id 0 (x.1 / 128)) && !visTransp o.desc && !visClash o.desc)) = true ∧
    (let s := working (.blend b) [] id blending
     theOp s (fun o => s.opGoes o && decide (o.places.head? = some (.tile 0, 0)) && s.frags.any (fun x => decide (x.blend.map (·.1) = some o.id) && s.fragNext x) &&
      s.empty.isEmpty)) = true ∧
    (let trace (phase : Nat) (run : TraceRun) (p : Op → Bool) : Bool :=
       let s := working (.trace t) [] (fun o => { o with phase := phase, trace := run })
       theOp s (fun o => s.opGoes o && decide (o.raft = some 2 ∧ (s.raft? 2).isSome = true) &&
         o.dest.any (fun x => decide (Kind.of x.first = .vec ∧ x.uniform = false) && Nat.ble (x.first.toNat + 5) 384) && p o)
     let ended := (List.range 2).map (fun l => (l, traceWords none))
     trace 0 ⟨[], [], []⟩ (fun o => o.phase == 0) = true ∧
     trace 1 ⟨[], ended, []⟩ (fun o => decide (o.trace.lanes = [] ∧ o.trace.failed = [] ∧ (o.trace.ended.map (·.1)).Nodup) &&
       o.trace.ended.all (fun x => Nat.blt x.1 64 && x.2.length == 5)) = true ∧
     trace 1 ⟨[], ended, [(3, 38, 0, 64), (2, 5, 1, 0)]⟩ (fun o => decide (leastBy (·.1) o.trace.failed = some (2, 5, 1, 0))) = true) ∧
    (let s := withTlb (working (.trace t) [] (fun o => { o with susp := some 0 }))
     theOp s (fun o => decide (o.susp = some 0 ∧ o.cls = 2) && !s.absent o.asid 0)) = true := by decide +kernel

/-! ### Witnesses: homes, exchanges, queues, clocks, management and links -/

/-- An exchange of die 0: two pages of 64 KiB, with their PTEs at 0x402000 and 0x402008. -/
def anExchange (copied : Nat) (written : List Nat) : Exchange :=
  ⟨0, 0, 0x10000, 0x402008, 0x50017, 0, 0, 0x402000, 0x10000000217, 65536, copied, written, [], []⟩
/-- The tables of ASID 0 with a far page at 0 and a near one at 0x10000. -/
def twoPages (s : State) : State :=
  let s1 := withTables 0x10000000217 s
  { s1 with pmem := ssets s1.pmem 0x402008 (toBytes 8 0x50017) }
def exchanging (copied : Nat) (written : List Nat) : State := { twoPages State.reset with exchanges := [anExchange copied written] }

theorem witness_HomesAndExchanges :
    let entry (e : DWord) (home : List HomeEntry) (op : BitVec 2 := 1) : State := { State.reset with htEntry := e, home := home, htOp := op, htBusy := some e }
    let lists : State := { twoPages State.reset with launches := [{ aLaunch false with lists := [(0, 65536)] }] }
    let sixteen := List.range 16
    State.reset.htBusy = none ∧ ([(1#2), 2, 3].all (fun op => (entry 8 [] op).htOp == op && (entry 8 [] op).htBusy == some 8)) = true ∧
    htOk (entry 9 []).htEntry = false ∧ htOk (entry 8 []).htEntry = true ∧
    ((entry 8 [⟨0, 0, 8⟩]).home.find? (·.names 0 0)).map (·.home) = some (htHome 8) ∧
    ((entry 8 [⟨0, 0, 7⟩]).home.find? (·.names 0 0)).map (·.home) ≠ some (htHome 8) ∧
    (entry 8 [⟨0, 1, 7⟩]).home.find? (·.names 0 0) = none ∧
    ((entry 8 (List.replicate 65536 ⟨0, 1, 7⟩)).home.all (fun x => !x.names 0 0) && Nat.ble 65536 (List.replicate 65536 (⟨0, 1, 7⟩ : HomeEntry)).length) = true ∧
    lists.exchanges = [] ∧ (match lists.chooseSwap with
      | some (_, near) => stackOf (pteFrame near.pte) == 0
      | none => false) = true ∧
    (anExchange 3 []).copied < (anExchange 3 []).pieces ∧
    ((anExchange 16 [0, 1]).pieces ≤ 16 ∧ 2 < (anExchange 16 [0, 1]).pieces ∧ 2 ∉ (anExchange 16 [0, 1]).written ∧ 0 ∈ [0, 1] ∧ 1 ∈ [0, 1] ∧
      overlaps (pteFrame (anExchange 16 []).nearPte) 65536 (pteFrame (anExchange 16 []).farPte) 65536 = false ∧
      (anExchange 16 []).size = 4096 * (anExchange 16 []).pieces) ∧
    (let s := exchanging 16 sixteen
     let e := anExchange 16 sixteen
     e.pieces ≤ e.copied ∧ (sixteen.all (fun k => e.written.contains k)) = true ∧
      s.phys64 e.nearAt &&& ~~~0xC0#64 = e.nearPte &&& ~~~0xC0#64 ∧ s.phys64 e.farAt &&& ~~~0xC0#64 = e.farPte &&& ~~~0xC0#64 ∧
      overlaps e.nearAt 8 e.farAt 8 = false) ∧
    (let s : State := { State.reset with exchanges := [anExchange 16 sixteen] }
     s.phys64 (anExchange 16 sixteen).nearAt &&& ~~~0xC0#64 ≠ (anExchange 16 sixteen).nearPte &&& ~~~0xC0#64) := by decide +kernel

/-- The header line of `aQueue`, with slot 0 of its ring in it: the slot's packet, its own published word, and RESUME. -/
def headerLine (p : Packet) (published resume : Nat) : List Byte :=
  overlay (overlay (overlay (List.replicate 128 0) 0x18 [4]) 0x1C [BitVec.ofNat 8 resume]) 64 (overlay p.bytes 0x3C [BitVec.ofNat 8 published])
/-- A module with one queue whose header stands in L2, and memory at 1024 for its completion records. -/
def queued (q : Queue) (line : List Byte := headerLine (packet []) 0 0) : State :=
  withLine 1024 { withSlots 1 State.reset with queues := [q], lines := [⟨0, 0, line, false, true, true, true, false, false, []⟩], nextId := 100 }
def toldBy (t : Target) (s : State) : State := { s with notices := [⟨7, .fired t⟩] }
def okWrite (r : State × Verdict) : Bool := r.2 == .ok
/-- The one record of the queue's index of which something is asked. -/
def only (s : State) (q : Queue) (p : Queue → Bool) : Bool := decide (s.someQueue q.index p = (s, some q))

theorem witness_QueueStates :
    let unreleased : State := { State.reset with mgmt := { State.reset.mgmt with released := false } }
    let table : State := { State.reset with pmem := ssets [] 24 [4, 4] }
    let rival : Queue := { aQueue 1 [] with index := 6, asid := 1 }
    let quantum : State := later (1000 * perUs) { queued (aQueue 2 []) with queues := [aQueue 2 [], rival] }
    let watch := toldBy (.queueHeader 5) (queued (aQueue 0 []))
    let resume := later (64 * perUs) (queued (aQueue 4 []) (headerLine (packet []) 0 1))
    let again := (resume.untell (.queueHeader 5)).setQueue (aQueue 4 []) { aQueue 4 [] with readAt := resume.clock }
    let idle := later (64 * perUs) (queued (aQueue 0 []) (headerLine (packet []) 1 0))
    let q1 : Queue := { aQueue 0 [] with readAt := idle.clock }
    let read := (idle.setQueue (aQueue 0 []) q1).readHeader q1 false
    let busy : State := { State.reset with ctl := { State.reset.ctl with qtCmd := 0x8000000000000000 } }
    let bare : State := { State.reset with queues := [aQueue 0 []] }
    busy.ctl.qtCmd.getLsbD 63 = true ∧ State.reset.ctl.qtCmd.getLsbD 63 = false ∧ unreleased.mgmt.released = false ∧ State.reset.mgmt.released = true ∧ ((queued (aQueue 0 [])).queue? 5).isSome = true ∧
    State.reset.queue? 5 = none ∧ State.reset.tableQueue 5 = none ∧ table.queue? 0 = none ∧ (table.tableQueue 0).isSome = true ∧ table.queues = [] ∧
    (let rest := { table with queues := [{ aQueue 5 [packet [6, 1]] with qhdr := ((table.tableQueue 0).map (fun (x : Queue) => x.qhdr)).getD 1 }] }
     rest.queue? 0 = none ∧ (rest.queues.all (fun x => x.state == 5)) = true ∧ ((rest.tableQueue 0).any (fun q => !(rest.earlierUnder q).isEmpty)) = true) ∧
    ((queued (aQueue 1 [])).queues.filter (fun x => x.state == 1)) = [aQueue 1 []] ∧
    (quantum.queueWith 5 (fun x => x.state == 2 && decide (x.since + 1000 * perUs ≤ quantum.clock))) = some (aQueue 2 []) ∧
      quantum.effPrio (aQueue 2 []) ≤ quantum.effPrio rival ∧ (aQueue 2 []).leaving = none ∧ quantum.nextPacket [] = none ∧
      quantum.nextPacket [packet [6, 1]] = some (packet [6, 1]) ∧
    watch.told (.queueHeader 5) = true ∧ (watch.untell (.queueHeader 5)).queue? 5 = some (aQueue 0 []) ∧
      okRead ((watch.untell (.queueHeader 5)).readAt 0 0 64 .read) = true ∧
      ofBytes ((((watch.untell (.queueHeader 5)).readAt 0 0 64 .read).2.2.drop 0x1C).take 4) = 0 ∧
      badSize (aQueue 0 []) ((watch.untell (.queueHeader 5)).readAt 0 0 64 .read).2.2 = false ∧
    (resume.queueWith 5 (fun x => x.state == 4)).isSome = true ∧ (aQueue 4 []).readAt + resume.interval ≤ resume.clock ∧
      okRead (again.readAt 0 0 64 .read) = true ∧ ofBytes (((again.readAt 0 0 64 .read).2.2.drop 0x1C).take 4) ≠ 0 ∧
      badSize (aQueue 4 []) (again.readAt 0 0 64 .read).2.2 = false ∧
      okWrite ((again.readAt 0 0 64 .read).1.headerWrite { aQueue 4 [] with readAt := resume.clock } 0x1C (toBytes 4 0)) = true ∧
    only (queued { aQueue 0 [] with unshown := true }) { aQueue 0 [] with unshown := true } (fun x => x.state != 5 || x.unshown) = true ∧
    only idle (aQueue 0 []) (fun x => x.state != 5 || x.unshown) = true ∧
    (aQueue 0 []).unshown = false ∧ (aQueue 0 []).readAt + idle.interval ≤ idle.clock ∧ read.queueWith 5 (fun x => x == q1) = some q1 ∧
      okRead (read.readAt 0 0 64 .read) = true ∧ okRead (read.readAt 0 (64 + 0x3C) 4 .read) = true ∧
      ofBytes (read.readAt 0 (64 + 0x3C) 4 .read).2.2 = 1 ∧
    okRead (((queued (aQueue 0 [])).setQueue (aQueue 0 []) (aQueue 1 [])).readAt 0 0 64 .write) = true ∧
      ((bare.setQueue (aQueue 0 []) (aQueue 1 [])).readAt 0 0 64 .write).2.1 = .moor ∧ (aQueue 1 []).state ≤ 3 := by decide +kernel

theorem witness_PacketsRun :
    let slot (p : Packet) (published : Nat) : State := queued (aQueue 2 []) (headerLine p published 0)
    let consumes (s : State) (published bad seqOk : Bool) : Bool :=
      let r := s.readAt 0 0 64 .write
      let b := (r.1.readAt 0 64 64 .read).2.2
      okRead r && okRead (r.1.readAt 0 64 64 .read) && ((ofBytes ((b.drop 0x3C).take 4) == 1) == published) && (badSize (aQueue 2 []) r.2.2 == bad) &&
        ((BitVec.ofNat 32 (ofBytes ((b.drop 4).take 4)) == BitVec.ofNat 32 (ofBytes ((r.2.2.drop 0x10).take 4)) + 1) == seqOk)
    let marker := packet [6, 1]
    let misSized := { slot marker 1 with queues := [{ aQueue 2 [] with log2 := 5 }] }
    let next (p : Packet) (t : State → Bool) : Bool := let s := queued (aQueue 2 [p])
      decide (s.queueWith 5 (fun x => x.state == 2) = some (aQueue 2 [p]) ∧ s.nextPacket [p] = some p) && t s
    let launch := packet [1, 1, 1024, 0, 0, 0, 0x10001, 1, 0, 0, 0, 0, 0, 0, 0, 0]
    let kernel : List Byte := overlay (List.replicate 128 0) 8 (toBytes 8 0x40000 ++ toBytes 8 0x10101)
    let tried (line : List Byte) (starts : Bool) : Bool :=
      let s0 := withLine 1152 (queued (aQueue 2 [launch]))
      let s : State := { s0 with lines := s0.lines.map (fun l => if l.line = 8 then { l with data := line } else l) }
      match s.tryLaunch (aQueue 2 [launch]) launch with
      | .fails _ _ => !starts
      | .starts _ _ _ => starts && !s.servedBefore (s.effPrio (aQueue 2 [launch])) 0
      | _ => false
    let copy := packet [4, 1, 0, 0, 0x400, 0, 64, 0]
    let sem (v : Word) (st : Nat) := packet [2, 1, 0, 0, v, 0, 0, 0] st
    let at_ (opc : Nat) (p : Packet) : Bool := let s := queued (aQueue 2 [p])
      only s (aQueue 2 [p]) (fun x => (s.atKind x opc).isSome) && decide (s.queueWith 5 (fun x => x.state == 2) = some (aQueue 2 [p]) ∧
        s.atKind (aQueue 2 [p]) opc = some p)
    let pass := packet [5, 2]
    let behind : List Packet := [packet [4, 1, 0, 0, 0x400, 0, 64, 0] 1, pass]
    let sig := packet [3, 1, 0, 0, 5, 0, 1, 0]
    let waits (s : State) (q : Queue) (p : Packet) : Bool :=
      decide (s.queues.filter (fun x => x.index == q.index && x.packets.any (fun y => y.opc == 2 && y.stage == 1) &&
        (s.told (.semaphore q.index) || decide (x.readAt + s.interval ≤ s.clock))) = [q] ∧
        q.packets.find? (fun x => x.opc == 2 && x.stage == 1) = some p) && okRead ((s.untell (.semaphore q.index)).readAt q.asid (p.w 8) 8 .read)
    let done (stage : Nat) : State := queued (aQueue 2 [packet [6, 1] stage])
    consumes (slot marker 0) false false true = true ∧ consumes (slot (packet [6, 9]) 1) true false false = true ∧
    consumes (slot marker 1) true false true = true ∧
      badSize { aQueue 2 [] with log2 := 5 } (misSized.readAt 0 0 64 .write).2.2 = true ∧
    next launch (fun s => s.vacated (aQueue 2 [launch]) launch) = true ∧ tried (List.replicate 128 0) false = true ∧ tried kernel true = true ∧
    next copy (fun s => (match s.copyCore 0 (copy.w 8) (copy.w 0x10) with
      | some core => Nat.ble (s.tableUse core + 2) 1024
      | none => false)) = true ∧
    at_ 2 (sem 0 0) = true ∧ at_ 2 (sem 9 0) = true ∧ okRead ((queued (aQueue 2 [])).readAt 0 0 8 .read) = true ∧
      (sem 0 0).w 0x10 ≤ ofBytes ((queued (aQueue 2 [])).readAt 0 0 8 .read).2.2 ∧
      ofBytes ((queued (aQueue 2 [])).readAt 0 0 8 .read).2.2 < (sem 9 0).w 0x10 ∧
    (let s := toldBy (.semaphore 5) (queued (aQueue 3 [sem 0 1]))
     waits s (aQueue 3 [sem 0 1]) (sem 0 1) && Nat.ble ((sem 0 1).w 0x10) (ofBytes ((s.untell (.semaphore 5)).readAt 0 0 8 .read).2.2)) = true ∧
    (let s := later (64 * perUs) (queued (aQueue 5 [sem 0 1])); waits s (aQueue 5 [sem 0 1]) (sem 0 1)) = true ∧
    (let s := toldBy (.semaphore 5) (queued (aQueue 3 [sem 9 1]))
     waits s (aQueue 3 [sem 9 1]) (sem 9 1) && Nat.blt (ofBytes ((s.untell (.semaphore 5)).readAt 0 0 8 .read).2.2) ((sem 9 1).w 0x10)) = true ∧
    (packet [5, 2]).holds = true ∧
    at_ 5 pass = true ∧ (queued (aQueue 2 [pass])).earlierDone (aQueue 2 [pass]) pass.seq = true ∧
    only (queued (aQueue 2 behind)) (aQueue 2 behind) (fun x => ((queued (aQueue 2 behind)).atKind x 5).isSome) = true ∧
      (queued (aQueue 2 behind)).atKind (aQueue 2 behind) 5 = some pass ∧ (queued (aQueue 2 behind)).earlierDone (aQueue 2 behind) pass.seq = false ∧
    at_ 3 sig = true ∧ okRead ((queued (aQueue 2 [sig])).readAt 0 (sig.w 8) 8 .write) = true ∧
      okWrite (((queued (aQueue 2 [sig])).readAt 0 (sig.w 8) 8 .write).1.writeAt 0 (sig.w 8) (toBytes 8 5) true) = true ∧
    at_ 6 marker = true ∧ marker.w 8 = 0 ∧ at_ 6 (packet [6, 1, 1024]) = true ∧
      okWrite ((queued (aQueue 2 [packet [6, 1, 1024]])).writeAt 0 1024 (toBytes 8 0)) = true ∧
    ([2, 3, 4].all (fun k => only (done k) (aQueue 2 [packet [6, 1] k]) (fun x => x.packets.any (fun y => y.seq == 1 && (done k).recordDue x y)) &&
      decide ((done k).packetDone (packet [6, 1] k) = some (0, 0) ∧
        (aQueue 2 [packet [6, 1] k]).packets.find? (fun x => x.seq == 1 && (done k).recordDue (aQueue 2 [packet [6, 1] k]) x) = some (packet [6, 1] k)))) = true ∧
    -- COMPLETED_SEQ: nothing to pass; a header to write; the last packet of a disabled queue, alone and beside one enabled anew
    (let q := aQueue 2 [packet [6, 1] 3]
     (q.retire q.packets).packets.length = q.packets.length) ∧
    (let q := aQueue 2 [packet [6, 1] 4]
     (q.retire q.packets).packets.length < q.packets.length ∧ okRead ((queued q).readAt 0 0 64 .write) = true ∧ (queued q).earlierUnder q = []) ∧
    (let q : Queue := { aQueue 5 [packet [6, 1] 4] with unshown := false }
     q.unshown = false ∧ (q.retire q.packets).packets = [] ∧ okRead ((queued q).readAt 0 0 64 .write) = true ∧ (0 : Word) = q.done ∧ (7 : Word) ≠ q.done ∧
      (queued q).queues.all (fun x => x.state == 5) = true ∧
      ({ queued q with queues := [q, aQueue 2 []] } : State).earlierUnder (aQueue 2 []) = [q]) ∧
    okWrite ((done 2).writeAt 0 (1024 + 16 + 8) (toBytes 8 0)) = true ∧
    (packet [6, 1] 3).kept = false ∧ okWrite ((done 3).writeAt 0 (1024 + 16) (toBytes 8 1)) = true := by decide +kernel

/-! ### Witnesses: clocks, the control block, management and links -/

theorem witness_ClocksAndBudgets :
    let s := State.reset
    let x := Cluster.reset
    let waits : State := resting (fun en => { en with inside := false, resv := 0 }) (here (.iadd (v3 1 2 3 0 0)))
    let cool (k : Nat) (last : Option Nat) : State := later k { s with hot := [(0, last)] }
    let leased (n : Nat) : State := { s with leases := [⟨2, 0, n⟩] }
    s.clusters[63]? = some x ∧ (ones 0x000F).length = 4 ∧ (ones 0x0007).length < 4 ∧ x.effFrom ≤ s.clock ∧ x.effFrom % 16 = 0 ∧
    floorForm x.floor = true ∧ floorSum x.floor ≤ x.total.toNat ∧ floorForm 0xFFFF = false ∧ floorSum x.floor ≤ 28672 ∧ 0 < floorSum x.floor ∧
    x.periodEnd ≤ (later 4682 s).clusterCycles 0 ∧ waits.clusterCycles 0 < x.periodEnd ∧
    (leastByKeys (fun (p : Pending) => [if x.below p.cls then 0 else 1, p.since]) ((waits.classHeads 0).filter x.affords)).isSome = true ∧
    (s.classHeads 0).filter x.affords = [] ∧ s.clusterCycles 0 < x.periodEnd ∧ s.clock < s.windowAt + 1000 * perUs ∧
    x.eff = x.pat ∧ (leased 1).clusterCycles 0 < 1 ∧ x.eff ≠ 0xFFFF ∧
    s.windowAt + 1000 * perUs ≤ (later (1000 * perUs) s).clock ∧ 4000 ≤ s.ctl.plimit.toNat ∧ s.ctl.plimit.toNat < 4001 ∧
    (cool 5 none).hot.find? (fun y => y.1 == 0 / 8) = some (0, none) ∧ (cool 5 (some 0)).hot.find? (fun y => y.1 == 0 / 8) = some (0, some 0) ∧
    (cool 5 (some 0)).clock < 0 + 100 * perUs ∧ 0 + 100 * perUs ≤ (cool (100 * perUs) (some 0)).clock ∧ s.hot = [] ∧ (1 : BitVec 8) ≠ 0 ∧ (ones (0x000F : BitVec 16)).length ≤ 4 ∧
    4 < (ones x.pat).length := by decide +kernel

theorem witness_ControlBlockWrites :
    let set (home : List HomeEntry) : State := { State.reset with htEntry := 8, home := home }
    let same (s : State) : Bool := htOk s.htEntry && (s.home.find? (·.names (htAsid s.htEntry) (htRegion s.htEntry))).any (fun x => x.home == htHome s.htEntry)
    ((4 : DWord).toNat % 4 = 0 ∧ (5 : DWord).toNat % 4 = 1 ∧ (6 : DWord).toNat % 4 = 2 ∧ (7 : DWord).toNat % 4 = 3) ∧ State.reset.htBusy = none ∧
    same (set [⟨0, 0, htHome 8⟩]) = true ∧ same (set []) = false ∧ State.reset.clusters[63]? = some Cluster.reset ∧ field (0x10000 : DWord).toNat 17 16 = 1 ∧
    field (0x2FFFF : DWord).toNat 17 16 = 2 ∧ 0x44 % 8 ≠ 0 ∧ (3 ≠ 4 ∧ 3 ≠ 8) := by decide +kernel

/-- A management frame: its type, version, four reserved bytes, and body. -/
def frame (type version res : Nat) (body : List Byte) : MgmtFrame :=
  ⟨Config.macAddress, 0x88B5, 1, none, toBytes 4 0x4E374D50 ++ toBytes 4 (body.length + type * 2 ^ 16 + version * 2 ^ 24) ++ toBytes 4 9 ++ toBytes 4 res ++ body⟩
/-- A frame for the module is seen, by its form. -/
def seenForm (f : MgmtFrame) : Bool :=
  f.etherType == 0x88B5 && decide (16 ≤ f.message.length) && imageField f.message 0 4 == 0x4E374D50 &&
  decide (imageField f.message 4 2 ≤ 1472) && imageField f.message 4 2 == (msgBody f).length
theorem frame_seen {type version res : Nat} {body : List Byte} (h : seenForm (frame type version res body) = true) :
    msgSeen (frame type version res body) = true := by
  have hd : ((frame type version res body).dest == Config.macAddress) = true := beq_self_eq_true _
  simp only [seenForm, Bool.and_assoc] at h
  simp only [msgSeen, hd, Bool.true_and, Bool.and_assoc, h]
def inMode (recovery : Bool) : State := { State.reset with mgmt := { State.reset.mgmt with recovery := recovery } }

/-- The requests of each type are frames that the port sees. -/
theorem witness_FramesAreSeen : ∀ k ∈ [1, 2, 3, 5, 6, 7, 9, 10, 200], msgSeen (frame k 1 0 []) = true := by
  have h : ∀ k ∈ [1, 2, 3, 5, 6, 7, 9, 10, 200], seenForm (frame k 1 0 []) = true := by decide +kernel
  exact fun k hk => frame_seen (h k hk)
theorem witness_ManagementAndResets :
    let zeros := List.replicate 32 (0 : Byte)
    let ok (f : MgmtFrame) (type version res : Nat) : Bool :=
      seenForm f && msgType f == type && msgVersion f == version && imageField f.message 12 4 == res && ((inMode true).repeatFor f).isNone &&
      ((inMode false).repeatFor f).isNone
    let write := toBytes 4 1 ++ toBytes 4 0x100000FC ++ [1, 2, 3, 4]
    let commit := toBytes 4 1 ++ toBytes 4 256
    let running : State := { inMode true with mgmt := { (inMode true).mgmt with commit := some (frame 9 1 0 commit) } }
    let again : State := { State.reset with mgmt := { State.reset.mgmt with kept := [(1, 9, ⟨1, none, []⟩)] } }
    let full : State := { State.reset with ctl := { State.reset.ctl with errHead := 16 } }
    ([1, 3, 5, 7, 9, 10].all (fun k => ok (frame k 2 0 []) k 2 0 && ok (frame k 1 1 []) k 1 1 && ok (frame k 1 0 []) k 1 0)) = true ∧
    (inMode true).mgmt.recovery = true ∧ (inMode false).mgmt.recovery = false ∧
    ok (frame 2 1 0 []) 2 1 0 = true ∧ badType 2 = true ∧
    ok (frame 1 1 0 zeros) 1 1 0 = true ∧ (msgBody (frame 1 1 0 zeros)).length = 32 ∧
    msgBody (frame 3 1 0 []) = [] ∧ msgBody (frame 5 1 0 []) = [] ∧ msgBody (frame 10 1 0 []) = [] ∧
    ok (frame 7 1 0 write) 7 1 0 = true ∧ 9 ≤ write.length ∧ imageField write 0 4 = 1 ∧ imageField write 4 4 + 4 = 0x10000100 ∧
      (inMode true).mgmt.staging.length = 2 ∧
    ok (frame 9 1 0 commit) 9 1 0 = true ∧ (msgBody (frame 9 1 0 commit)).length = 8 ∧
      imageOk (sgets ((inMode true).mgmt.staging.getD 1 []) 0 256) (inMode true).mgmt.fusedFw = false ∧
    -- a request while another commit runs, the commit's end, a request answered before, and a message of the other mode
    (running.mgmt.commit.isSome && (running.repeatFor (frame 5 1 0 [])).isNone &&
      msgType (frame 9 1 0 commit) == 9) = true ∧
    ((again.mgmt.kept.find? (fun x => x.1 == (frame 1 1 0 zeros).source && x.2.1 == msgSeq (frame 1 1 0 zeros))).isSome) = true ∧
    (ok (frame 6 1 0 []) 6 1 0 && badType 6 && ok (frame 200 1 0 []) 200 1 0 && badType 200) = true ∧
    State.reset.mgmt.images = [] ∧ paOk 0 = true ∧ paOk (0 + 1 - 1) = true ∧
    (State.reset.mgmt.flash.all (fun img => !imageOk img State.reset.mgmt.fusedFw)) = true ∧
    State.reset.errWait = [] ∧ State.reset.exchanges = [] ∧
    2 ^ field full.ctl.errCtl.toNat 4 0 ≤ (full.ctl.errHead - full.ctl.errTail).toNat ∧
    (State.reset.ctl.errHead - State.reset.ctl.errTail).toNat < 2 ^ field State.reset.ctl.errCtl.toNat 4 0 := by decide +kernel

/-- A flit without a CRC, and with it. -/
def bareFlit (kind count dest : Nat) : Flit :=
  { payload := BitVec.ofNat 1920 dest, crc := 0, seq := 0, ack := 0, nak := false, vc := 0, kind := BitVec.ofNat 2 kind, count := BitVec.ofNat 3 count, res := 0 }
def summed (f : Flit) : Flit := { f with crc := flitSum f }
theorem summed_taken {f : Flit} (h : flitFormOk f = true) (hs : f.seq = 0) : Port.fresh.takes (summed f) = true := by
  have h1 : flitFormOk (summed f) = flitFormOk f := rfl
  have h2 : (summed f).crc = flitSum (summed f) := rfl
  have h3 : (summed f).seq = Port.fresh.expect := hs
  simp only [Port.takes, flitIntact, h1, h, Bool.true_and, h2, h3, beq_self_eq_true]

/-- Flits for the die at the end of a link, for one further on, with nothing in them, and a request that asks for die 1. -/
theorem witness_FlitsAreTaken : ∀ x ∈ [(0, 1, 1), (1, 0, 1), (1, 0, 2), (2, 0, 0)],
    Port.fresh.takes (summed (bareFlit x.1 x.2.1 x.2.2)) = true := by
  have h : ∀ x ∈ [(0, 1, 1), (1, 0, 1), (1, 0, 2), (2, 0, 0)], flitFormOk (bareFlit x.1 x.2.1 x.2.2) = true ∧ (bareFlit x.1 x.2.1 x.2.2).seq = 0 := by
    decide +kernel
  exact fun x hx => summed_taken (h x hx).1 (h x hx).2

theorem witness_LinksAndPeers :
    let up (p : Port) : State := { State.reset with links := [((0, 1), p)] }
    let failing (n : Nat) : Port := { Port.fresh with replay := true, fails := n }
    let peers : State := withLine 0x400 { queued (aQueue 1 []) with
      peerImport := sset [] 3 (BitVec.ofNat 64 (2 ^ 63 + 7 * 2 ^ 32 + 2 * 2 ^ 16)), peerMap := sset [] 7 0x1000F }
    let crowd : State := { peers with lines := peers.lines.map (fun l => if l.line = 0 then { l with data := overlay l.data 0 (toBytes 8 16) } else l) }
    linkExists ⟨0, 1⟩ = true ∧ (portAt State.reset.links (0, 1)).down = false ∧ portAt State.reset.links (1, 0) = Port.fresh ∧
    (bareFlit 0 1 1).payload.toNat % 256 = 1 ∧ (bareFlit 1 0 2).payload.toNat % 256 = 2 ∧ nextDie 1 2 = 2 ∧
    Port.fresh.takes (bareFlit 0 0 0) = false ∧ flitIntact (bareFlit 0 0 0) = false ∧ Port.fresh.sent.length < 64 ∧
    ((bareFlit 2 0 0).seq.toNat % 16 ≠ 15 ∧ ({ bareFlit 2 0 0 with seq := 15 } : Flit).seq.toNat % 16 = 15) ∧
    (portAt (up (failing 31)).links (0, 1)).replay = true ∧ (portAt (up (failing 31)).links (0, 1)).down = false ∧ (failing 31).fails < 32 ∧ (failing 31).sent = [] ∧
    ({ failing 31 with sent := [bareFlit 0 1 1] } : Port).sent ≠ [] ∧
    32 ≤ (failing 32).fails ∧ (5 : Nat) ≠ field State.reset.ctl.peerId.toNat 12 0 ∧ 0 = field State.reset.ctl.peerId.toNat 12 0 ∧
    portAt peers.peerPorts (7, 0) = Port.fresh ∧ peers.portsTo 7 ≠ [] ∧ (bareFlit 0 1 1).nak = false ∧
    peers.imported 7 2 = some 0 ∧ peers.imported 7 3 = none ∧ canonical 0x400 = true ∧ canonical 0x407 = true ∧
    okRead (peers.readAt 0 0x400 8 .read) = true ∧ okWrite (peers.writeAt 0 0x400 (toBytes 8 1)) = true ∧
    peers.queueAt 0 0 = some (aQueue 1 []) ∧ okRead (peers.readAt 0 0 64 .write) = true ∧
    (claimStep (peers.readAt 0 0 64 .write).2.2).isSome = true ∧
    okRead (crowd.readAt 0 0 64 .write) = true ∧ claimStep (crowd.readAt 0 0 64 .write).2.2 = none := by
  decide +kernel

/-! ### Words of every form

Each word is put together from the fields of R58 to R64 and the OP numbers of R65; the comment of each table names its family. -/

/-- Every word of a table decodes to the instruction beside it, which encodes to the word. -/
def agree (t : List (DWord × Instr)) : Bool := t.all (fun x => (match decode x.1 with
  | .ok i => decide (i = x.2)
  | .error _ => false) && decide (encode x.2 = some x.1))

theorem test_words_integers : agree [
    (0x00000000C0405001#64, .iadd ⟨false, 0, 0, 0, 0, 0, 3, 2, 5, 0⟩),
    (0x00000000C0405002#64, .isub ⟨false, 0, 0, 0, 0, 0, 3, 2, 5, 0⟩),
    (0x00000000C0405003#64, .imul ⟨false, 0, 0, 0, 0, 0, 3, 2, 5, 0⟩),
    (0x00000200C0405004#64, .imad ⟨false, 0, 0, 0, 0, 4, 3, 2, 5, 0⟩),
    (0x00000000C0405005#64, .imin ⟨false, 0, 0, 0, 0, 0, 3, 2, 5, 0⟩),
    (0x00000000C0405006#64, .imax ⟨false, 0, 0, 0, 0, 0, 3, 2, 5, 0⟩),
    (0x0000000000405007#64, .iabs ⟨false, 0, 0, 0, 0, 0, 0, 2, 5, 0⟩),
    (0x0A02006080406001#64, .iadd ⟨false, 5, 0, 0, 2, 0, 386, 2, 6, 0⟩),
    (0x00000000C0405008#64, .and ⟨false, 0, 0, 0, 0, 0, 3, 2, 5, 0⟩),
    (0x00000000C0405009#64, .or ⟨false, 0, 0, 0, 0, 0, 3, 2, 5, 0⟩),
    (0x00000000C040500A#64, .xor ⟨false, 0, 0, 0, 0, 0, 3, 2, 5, 0⟩),
    (0x00000000C040500B#64, .andn ⟨false, 0, 0, 0, 0, 0, 3, 2, 5, 0⟩),
    (0x00000000C040500C#64, .shl ⟨false, 0, 0, 0, 0, 0, 3, 2, 5, 0⟩),
    (0x00000000C040500D#64, .shr ⟨false, 0, 0, 0, 0, 0, 3, 2, 5, 0⟩),
    (0x00000000C040500E#64, .sar ⟨false, 0, 0, 0, 0, 0, 3, 2, 5, 0⟩),
    (0x00000000C040500F#64, .rotl ⟨false, 0, 0, 0, 0, 0, 3, 2, 5, 0⟩),
    (0x0000000000405010#64, .popc ⟨false, 0, 0, 0, 0, 0, 0, 2, 5, 0⟩),
    (0x0000000000405011#64, .clz ⟨false, 0, 0, 0, 0, 0, 0, 2, 5, 0⟩),
    (0x0000000000405012#64, .brev ⟨false, 0, 0, 0, 0, 0, 0, 2, 5, 0⟩),
    (0x00000000C0405213#64, .bfe ⟨false, 0, 0, 0, 0, 0, 3, 2, 5, 2⟩),
    (0x00000200C0405014#64, .bfi ⟨false, 0, 0, 0, 0, 4, 3, 2, 5, 0⟩),
    (0x00000000C05E1915#64, .icmp ⟨false, 0, 0, 0, 0, 0, 3, 2, 481, 9⟩),
    (0x0000F100C0405016#64, .sel ⟨false, 0, 0, 0, 0, 482, 3, 2, 5, 0⟩),
    (0x8000000001006017#64, .mov ⟨true, 0, 0, 0, 0, 0, 0, 8, 6, 0⟩),
    (0xFFFFFFFD00405018#64, .iaddi ⟨4294967293, 0, 2, 5, 0⟩),
    (0xFFFFFFFD00405019#64, .andi ⟨4294967293, 0, 2, 5, 0⟩),
    (0xFFFFFFFD0040501A#64, .ori ⟨4294967293, 0, 2, 5, 0⟩),
    (0xFFFFFFFD0040501B#64, .xori ⟨4294967293, 0, 2, 5, 0⟩),
    (0x000001070040501C#64, .shi ⟨263, 0, 2, 5, 0⟩),
    (0x123456780018101D#64, .movi ⟨305419896, 0, 0, 385, 0⟩),
    (0x00000001381E211E#64, .icmpi ⟨1, 0, 448, 482, 1⟩),
    (0x00000200C040511F#64, .dot4 ⟨false, 0, 0, 0, 0, 4, 3, 2, 5, 1⟩)] = true := by decide +kernel

theorem test_words_floats : agree [
    (0x00000000C0405040#64, .fadd ⟨false, 0, 0, 0, 0, 0, 3, 2, 5, 0⟩),
    (0x00000000C0405341#64, .fsub ⟨false, 0, 0, 0, 0, 0, 3, 2, 5, 3⟩),
    (0x00000000C0405042#64, .fmul ⟨false, 0, 0, 0, 0, 0, 3, 2, 5, 0⟩),
    (0x00000200C0405043#64, .ffma ⟨false, 0, 0, 0, 0, 4, 3, 2, 5, 0⟩),
    (0x00000000C0405044#64, .fmin ⟨false, 0, 0, 0, 0, 0, 3, 2, 5, 0⟩),
    (0x00000000C0405045#64, .fmax ⟨false, 0, 0, 0, 0, 0, 3, 2, 5, 0⟩),
    (0x00000000C05E3446#64, .fcmp ⟨false, 0, 0, 0, 0, 0, 3, 2, 483, 4⟩),
    (0x0000000000405047#64, .fclass ⟨false, 0, 0, 0, 0, 0, 0, 2, 5, 0⟩),
    (0x0000000000405048#64, .frcp ⟨false, 0, 0, 0, 0, 0, 0, 2, 5, 0⟩),
    (0x0000000000405049#64, .frsq ⟨false, 0, 0, 0, 0, 0, 0, 2, 5, 0⟩),
    (0x000000000040504A#64, .fsqrt ⟨false, 0, 0, 0, 0, 0, 0, 2, 5, 0⟩),
    (0x000000000040504B#64, .fexp2 ⟨false, 0, 0, 0, 0, 0, 0, 2, 5, 0⟩),
    (0x000000000040504C#64, .flog2 ⟨false, 0, 0, 0, 0, 0, 0, 2, 5, 0⟩),
    (0x000000000040504D#64, .fsin ⟨false, 0, 0, 0, 0, 0, 0, 2, 5, 0⟩),
    (0x000000000040504E#64, .fcos ⟨false, 0, 0, 0, 0, 0, 0, 2, 5, 0⟩),
    (0x00000000C040504F#64, .fdiv ⟨false, 0, 0, 0, 0, 0, 3, 2, 5, 0⟩),
    (0x00000000C0405150#64, .hadd2 ⟨false, 0, 0, 0, 0, 0, 3, 2, 5, 1⟩),
    (0x00000000C0405151#64, .hmul2 ⟨false, 0, 0, 0, 0, 0, 3, 2, 5, 1⟩),
    (0x00000200C0405152#64, .hfma2 ⟨false, 0, 0, 0, 0, 4, 3, 2, 5, 1⟩),
    (0x00000000C0405153#64, .hmin2 ⟨false, 0, 0, 0, 0, 0, 3, 2, 5, 1⟩),
    (0x00000000C0405154#64, .hmax2 ⟨false, 0, 0, 0, 0, 0, 3, 2, 5, 1⟩),
    (0x800000010040A055#64, .dadd ⟨true, 0, 0, 0, 0, 0, 4, 2, 10, 0⟩),
    (0x800000010040A056#64, .dmul ⟨true, 0, 0, 0, 0, 0, 4, 2, 10, 0⟩),
    (0x800003010040A057#64, .dfma ⟨true, 0, 0, 0, 0, 6, 4, 2, 10, 0⟩),
    (0x00000200C0405058#64, .fdot2h ⟨false, 0, 0, 0, 0, 4, 3, 2, 5, 0⟩)] = true := by decide +kernel

theorem test_words_across : agree [
    (0x0000038000405070#64, .cvt ⟨false, 0, 0, 0, 0, 7, 0, 2, 5, 0⟩),
    (0x00000000C0405171#64, .shfl ⟨false, 0, 0, 0, 0, 0, 3, 2, 5, 1⟩),
    (0x800000003C382272#64, .vote ⟨true, 0, 0, 0, 0, 0, 0, 481, 386, 2⟩),
    (0x0000000000405373#64, .redux ⟨false, 0, 0, 0, 0, 0, 0, 2, 5, 3⟩),
    (0x0000000000405274#64, .scan ⟨false, 0, 0, 0, 0, 0, 0, 2, 5, 2⟩),
    (0x00000078FC5E1175#64, .plop ⟨false, 0, 0, 0, 0, 0, 483, 482, 481, 1⟩),
    (0x000000003C584176#64, .lane ⟨false, 0, 0, 0, 0, 0, 0, 482, 388, 1⟩)] = true := by decide +kernel

theorem test_words_memory : agree [
    (0xFFF00000B0805280#64, .ld ⟨4095, 0, 0, 0, 2, 388, 5, 2⟩),
    (0xFFF00000B0805281#64, .st ⟨4095, 0, 0, 0, 2, 388, 5, 2⟩),
    (0x00400380C0405182#64, .ldb ⟨4, 0, 0, 7, 3, 2, 5, 1⟩),
    (0x00400380C0405183#64, .stb ⟨4, 0, 0, 7, 3, 2, 5, 1⟩),
    (0xFFF00000B8005284#64, .ldt ⟨4095, 0, 0, 0, 2, 448, 5, 2⟩),
    (0xFFF00000B8005285#64, .stt ⟨4095, 0, 0, 0, 2, 448, 5, 2⟩),
    (0xFFF0000080605286#64, .ldx ⟨4095, 0, 0, 0, 2, 3, 5, 2⟩),
    (0xFFF0000080605287#64, .stx ⟨4095, 0, 0, 0, 2, 3, 5, 2⟩),
    (0x0005802070806380#64, .ld ⟨0, 1, 3, 0, 129, 388, 6, 3⟩),
    (0x00000000B0805088#64, .atom ⟨0, 0, 0, 0, 2, 388, 5, 0⟩),
    (0x00000000B0806089#64, .cas ⟨0, 0, 0, 0, 2, 388, 6, 0⟩),
    (0x00000000B080808A#64, .cas128 ⟨0, 0, 0, 0, 2, 388, 8, 0⟩),
    (0x000E7F800000008B#64, .fence ⟨0, 3, 4, 255, 0, 0, 0, 0⟩),
    (0x00300061B080018C#64, .ftag ⟨3, 0, 0, 0, 390, 388, 0, 1⟩),
    (0x00000000B080018D#64, .pref ⟨0, 0, 0, 0, 2, 388, 0, 1⟩),
    (0x00000061B080008E#64, .invl1 ⟨0, 0, 0, 0, 390, 388, 0, 0⟩),
    (0x000000000040018F#64, .setfe ⟨0, 0, 0, 0, 0, 2, 0, 1⟩),
    (0x0000000080608390#64, .rrot ⟨0, 0, 0, 0, 2, 3, 8, 3⟩)] = true := by decide +kernel

theorem test_words_engines : agree [
    (0x0000C1E1000000A0#64, .macc ⟨0, 0, 387, 388, 0, 0, 0⟩),
    (0x00000000310000A1#64, .mloop ⟨0, 0, 0, 0, 392, 0, 0⟩),
    (0x00000000310009A2#64, .mdrain ⟨0, 0, 0, 0, 392, 0, 9⟩),
    (0x0000C2E1000000A3#64, .mscale ⟨0, 0, 389, 388, 0, 0, 0⟩),
    (0x00000061001820A4#64, .mstat ⟨0, 0, 0, 388, 0, 386, 0⟩),
    (0x00010000320000A5#64, .wview ⟨0, 1, 0, 0, 400, 0, 0⟩),
    (0x00000000320002A6#64, .wpool ⟨0, 0, 0, 0, 400, 0, 2⟩),
    (0x0000C200310009A8#64, .fcopy ⟨0, 0, 388, 0, 392, 0, 9⟩),
    (0x0000E000320000A9#64, .fgather ⟨0, 0, 448, 0, 400, 0, 0⟩),
    (0x0005C200310000AA#64, .fscatter ⟨0, 5, 388, 0, 392, 0, 0⟩),
    (0x0000C260F20000AB#64, .ffill ⟨0, 0, 388, 387, 400, 0, 0⟩),
    (0x00010000311941AC#64, .fqueue ⟨0, 1, 0, 0, 392, 404, 1⟩),
    (0x00000000311820B0#64, .emit ⟨0, 0, 0, 0, 392, 386, 0⟩),
    (0x00000000311821B1#64, .tileget ⟨0, 0, 0, 0, 392, 386, 1⟩),
    (0x00000000310000B2#64, .tiledone ⟨0, 0, 0, 0, 392, 0, 0⟩),
    (0x00000000311820B3#64, .vis ⟨0, 0, 0, 0, 392, 386, 0⟩),
    (0x00000401310001B4#64, .blend ⟨0, 0, 8, 4, 392, 0, 1⟩),
    (0x00000002310103B5#64, .trace ⟨0, 0, 0, 8, 392, 16, 3⟩),
    (0x00000063310003B8#64, .lathe ⟨0, 0, 0, 396, 392, 0, 3⟩),
    (0x00000000001820B9#64, .batch ⟨0, 0, 0, 0, 0, 386, 0⟩)] = true := by decide +kernel

theorem test_words_control : agree [
    (0x00000000000000C0#64, .nop ⟨0, 0, 0, 0, 0, 0⟩),
    (0xFFFFFC003C2001C1#64, .bru ⟨16777212, 0, 0, 481, 0, 1⟩),
    (0x00000901FC2000C2#64, .brd ⟨9, 0, 7, 481, 0, 0⟩),
    (0x00000001C00000C3#64, .join ⟨0, 0, 7, 0, 0, 0⟩),
    (0xFFFFFF00000000C4#64, .jmp ⟨16777215, 0, 0, 0, 0, 0⟩),
    (0x00000000308000C5#64, .jmpi ⟨0, 0, 0, 388, 0, 0⟩),
    (0x00000002408001C5#64, .jmpiDiv ⟨0, 0, 9, 4, 0, 1⟩),
    (0x00001000001860C6#64, .call ⟨16, 0, 0, 0, 390, 0⟩),
    (0x00000000309861C6#64, .callInd ⟨0, 0, 0, 388, 390, 1⟩),
    (0x0000000030C000C7#64, .ret ⟨0, 0, 0, 390, 0, 0⟩),
    (0x00000000000000C8#64, .exit ⟨0, 0, 0, 0, 0, 0⟩),
    (0x00002100000000C9#64, .waitc ⟨33, 0, 0, 0, 0, 0⟩),
    (0x00000000304000CA#64, .waitb ⟨0, 0, 0, 386, 0, 0⟩),
    (0x00000300000001CA#64, .waitbKeep ⟨3, 0, 0, 0, 0, 1⟩),
    (0x00000200308000CB#64, .barSync ⟨2, 0, 0, 388, 0, 0⟩),
    (0x00000300309821CB#64, .barArrive ⟨3, 0, 0, 388, 386, 1⟩),
    (0x00001101304080CC#64, .loop ⟨17, 0, 4, 386, 8, 0⟩),
    (0x00001101000081CC#64, .loopUntil ⟨17, 0, 4, 0, 8, 1⟩),
    (0x00000000310001CD#64, .strm ⟨0, 0, 0, 392, 0, 1⟩),
    (0x00000000000005CD#64, .strmOff ⟨0, 0, 0, 0, 0, 5⟩),
    (0x00000C00008140CE#64, .reorder ⟨12, 0, 0, 4, 20, 0⟩),
    (0x00018000000000D0#64, .quota ⟨384, 0, 0, 0, 0, 0⟩),
    (0x00006400000000D1#64, .yield ⟨100, 0, 0, 0, 0, 0⟩),
    (0x00002A00000000D2#64, .trapi ⟨42, 0, 0, 0, 0, 0⟩),
    (0x00000100000000D3#64, .bkpt ⟨1, 0, 0, 0, 0, 0⟩),
    (0x00000000001851D4#64, .leaseEnd ⟨0, 0, 0, 0, 389, 1⟩),
    (0x00000400309821D5#64, .waitmem ⟨4, 0, 0, 388, 386, 1⟩),
    (0x00000000308000CF#64, .migrate ⟨0, 0, 0, 388, 0, 0⟩),
    (0x00000000000001CF#64, .migrateHome ⟨0, 0, 0, 0, 0, 1⟩),
    (0x0186A000001850D4#64, .lease ⟨100000, 0, 0, 0, 389, 0⟩)] = true := by decide +kernel

theorem test_words_system : agree [
    (0x00000200001850E0#64, .csrr ⟨2, 0, 0, 0, 389, 0⟩),
    (0x00000800310000E1#64, .csrw ⟨8, 0, 0, 392, 0, 0⟩),
    (0x00000000311900E2#64, .dbghalt ⟨0, 0, 0, 392, 400, 0⟩),
    (0x00000000311900E3#64, .dbgres ⟨0, 0, 0, 392, 400, 0⟩),
    (0x00000000311900E4#64, .dbgstep ⟨0, 0, 0, 392, 400, 0⟩),
    (0x00000000311900E5#64, .dbgrd ⟨0, 0, 0, 392, 400, 0⟩),
    (0x00000000311900E6#64, .dbgwr ⟨0, 0, 0, 392, 400, 0⟩),
    (0x00000000311900E7#64, .watch ⟨0, 0, 0, 392, 400, 0⟩),
    (0x0000000030D840E8#64, .tlbinv ⟨0, 0, 0, 390, 388, 0⟩),
    (0x0000000030D841E8#64, .tlbinvHold ⟨0, 0, 0, 390, 388, 1⟩),
    (0x0000000030D842E8#64, .tlbinvFree ⟨0, 0, 0, 390, 388, 2⟩),
    (0x00000000311900E9#64, .kill ⟨0, 0, 0, 392, 400, 0⟩),
    (0x00000000311900EA#64, .mbox ⟨0, 0, 0, 392, 400, 0⟩)] = true := by decide +kernel


/-! ### WellFormed refuses, one list for each format -/

/-- No term of a list is well formed. -/
def ill (is : List Instr) : Bool := is.all (fun i => !WellFormed i)

theorem test_ill_formed_values : ill [
    .iadd { v3 5 2 3 0 0 with c := 1 },           -- C that IADD does not use
    .iadd { v3 5 2 3 0 0 with k := 1 },           -- K that no permute uses
    .iadd { v3 5 2 3 0 0 with xc := 1 },          -- a permute of an unused operand
    .iadd { v3 5 2 386 0 0 with xb := 2 },        -- a permute of an s register
    .iadd (v3 5 2 3 0 12),                        -- element 0b11
    .iadd (v3 4 2 6 0 4 true),                    -- a packed element under W
    .iadd (v3 481 2 3 0 0),                       -- a predicate as D
    .iadd (v3 4 3 6 0 0 true),                    -- an odd pair
    .imin (v3 5 2 3 0 1), .iabs (v3 5 2 0 0 2), .and (v3 5 2 3 0 1), .bfe (v3 5 2 3 0 1), .bfi (v3 5 2 3 4 1),
    .icmp (v3 481 2 3 0 6), .icmp (v3 5 2 3 0 0), .sel (v3 5 2 3 4 0), .dot4 (v3 5 2 3 4 8),
    .fadd (v3 5 2 3 0 4), .fadd (v3 5 2 3 0 0 true), .fcmp (v3 481 2 3 0 8), .hadd2 (v3 5 2 3 0 8), .dadd (v3 4 2 6 0 0),
    .shfl (v3 5 2 3 0 4), .vote (v3 386 481 0 0 0 true), .redux (v3 5 2 0 0 11), .scan (v3 5 2 1 0 0), .plop (v3 481 482 483 0 10),
    .lane (v3 386 481 0 0 4),
    .cvt { v3 5 2 0 7 0 with w := true },         -- W where neither format has 64 bits
    .cvt (v3 5 2 0 15 0), .cvt (v3 5 2 0 0 0),    -- no format 15; a format to itself
    .pblk ⟨0, 5, 0, 482, 0, 1⟩] = true := by decide +kernel   -- a pattern beyond its slots

theorem test_ill_formed_immediates : ill [.iaddi { vi 5 2 1 0 with res := 1 }, .iaddi (vi 5 2 1 4), .andi (vi 5 2 1 1), .movi (vi 5 2 1 0),
    .shi (vi 5 2 32 4), .shi (vi 5 2 0x40 0), .icmpi (vi 481 2 1 6)] = true := by decide +kernel

theorem test_ill_formed_accesses : ill [
    .ld { mf 5 388 2 2 with ord := 2 }, .ld { mf 5 388 2 2 with scope := 1 }, .ld (mf 5 388 2 7), .ld { mf 5 388 2 2 with brec := 1 },
    .ld (mf 5 389 2 2), .st (mf 5 388 2 4), .ldb { mf 5 2 3 4 with brec := 7 }, .ldt { mf 5 448 2 2 with ord := 1, scope := 3 },
    .atom { mf 5 388 2 0 with scope := 5 }, .cas (mf 6 388 2 3), .cas128 (mf 8 388 2 1), .fence (mf 0 0 0 0), .ftag (mf 0 388 390 1),
    .pref (mf 0 388 2 2), .invl1 (mf 0 388 390 1), .setfe (mf 0 2 0 4), .rrot (mf 8 3 2 0)] = true := by decide +kernel

theorem test_ill_formed_engine_operations : ill [
    .macc { af 0 0 388 387 0 with res := 1 }, .macc (af 0 0 388 387 2), .macc (af 0 0 388 5 0), .mloop (af 0 392 0 0 1), .mdrain (af 0 392 0 0 5),
    .mscale (af 0 0 388 389 4), .mstat (af 5 0 388 0 0), .wview (af 0 400 0 0 0 2), .wpool (af 0 400 0 0 3), .fcopy (af 0 392 0 388 4),
    .fscatter (af 0 392 0 388 0 2), .fscatter (af 0 392 0 388 0 7), .ffill (af 1 400 387 388 0), .fqueue (af 404 392 0 0 2),
    .emit (af 386 392 0 0 2), .tiledone (af 0 392 0 0 1), .blend (af 0 392 4 8 3), .trace (af 16 392 8 0 4), .lathe (af 0 392 2 396 0),
    .batch (af 386 1 0 0 0)] = true := by decide +kernel

theorem test_ill_formed_control : ill [
    .nop (cf 0 0 0 1), .nop { cf 0 0 0 0 with res := 1 }, .bru (cf 0 481 2 0), .brd (cf 1 481 0 0), .jmp (cf 0 0 0 1 1), .waitc (cf 0 0 0 0),
    .waitc (cf 0 0 0 0x41), .waitbKeep (cf 0 0 1 16), .barSync (cf 0 388 0 0), .barSync (cf 0 388 0 5), .loop (cf 8 386 0 0x19 4),
    .loop (cf 8 386 0 0x11), .loop (cf 8 386 0 0x111 4), .loopUntil (cf 8 0 1 0xC11 4), .strm (cf 0 440 0 0), .strmOff (cf 0 0 8 0),
    .reorder (cf 20 4 0 0), .reorder (cf 20 4 0 385), .quota (cf 0 0 0 385), .lease (cf 389 0 0 0), .waitmem (cf 386 388 8 1),
    .csrr (cf 389 0 0 0x200002), .csrr (cf 389 0 0 0x1002), .csrw (cf 0 392 2 2), .dbghalt (cf 400 392 1 0), .kill (cf 400 392 0 1),
    .tlbinv (cf 388 390 0 0x80000), .tlbinv (cf 388 390 0 0x00001), .tlbinvHold (cf 448 448 1 0x40000)] = true := by decide +kernel

/-! ### Worked examples of the spec: R149, with sums taken by hand from its example -/

/-- Lane 0 of v5 after an instruction over v2 and v3. -/
def lane0 (i : Instr) (a b : Word) : Option Word :=
  match step (withV 2 0 a (withV 3 0 b (here i))) with
  | .next t => (t.raft? 2).map (fun r => sget r.v (64 * 5))
  | _ => none

theorem test_iadd_packed : lane0 (.iadd (v3 5 2 3 0 4)) 0x7FFF0001 0x0001FFFF = some 0x80000000 := by decide +kernel
theorem test_iadd_saturates : lane0 (.iadd (v3 5 2 3 0 5)) 0x7FFF0001 0x0001FFFF = some 0x7FFF0000 := by decide +kernel
theorem test_iadd_unsigned_saturates : lane0 (.iadd (v3 5 2 3 0 7)) 0x7FFF0001 0x0001FFFF = some 0x8000FFFF := by decide +kernel

/-! ### The machine -/

/-- A word that decodes to none, for a reason. -/
def refusedAs (w : DWord) (e : DecodeError) : Bool := match decode w with
  | .ok _ => false
  | .error x => decide (x = e)
/-- The word being issued in a state and whether its team is in supervisor mode. -/
def issuing (s : State) : Option (DWord × Bool) := s.ctx.map (fun c => (c.word, c.t.supv))

theorem witness_StepRunsTheDecodedInstruction :
    let placed (w : DWord) : State := State.reset.withClause (probeClause w)
    let nop : DWord := 0xC0
    let user := teamsBy (placed 0x1E0) (fun t => { t with supv := false })
    ({ State.reset with agenda := [.clauseStart 0 0] }).agenda ≠ [] ∧ encode (.clauseStart 0 0) = none ∧
    ({ State.reset with agenda := [.nop (cf 0 0 0 0)] }).agenda ≠ [] ∧ encode (.nop (cf 0 0 0 0)) ≠ none ∧
    (placed nop).agenda = [] ∧ issuing (placed nop) = some (nop, true) ∧ agree [(nop, .nop (cf 0 0 0 0))] = true ∧
    issuing (placed 0) = some (0, true) ∧ refusedAs 0 .unassignedOp = true ∧
    issuing (placed 0x1C0) = some (0x1C0, true) ∧ refusedAs 0x1C0 .badFields = true ∧
    issuing user = some (0x1E0, false) ∧ refusedAs 0x1E0 .badFields = true ∧
    issuing { State.reset with running := [(7, 0)] } = none ∧ State.reset.agenda = [] ∧ State.reset.running = [] ∧
    BitVec.ofNat 64 0xC0 = nop ∧
    (∀ r ∈ State.reset.rafts, r.id < State.reset.nextId) ∧ (∀ t ∈ State.reset.teams, t.id < State.reset.nextId) := by decide +kernel

theorem witness_DecodeAndEncodeAgree :
    WellFormed (.iadd (v3 5 2 3 0 0)) = true ∧ agree [(0x0000_0000_C040_5001, .iadd (v3 5 2 3 0 0))] = true ∧
    refusedAs 0x1C0 .badFields = true := by decide +kernel

/-- A step that answers a next state. -/
def goesOn (s : State) : Bool := match step s with
  | .next _ => true
  | _ => false
theorem goesOn_spec {s : State} (h : goesOn s = true) : ∃ t, step s = .next t := by
  unfold goesOn at h
  split at h
  · rename_i t ht; exact ⟨t, ht⟩
  · contradiction

/-- A state in which a store to its own line is issuing, with sound memory and names: its step goes on. -/
theorem witness_StepKeepsMemoryCanonical : let s := withS 4 0x400 (withLine 0x400 (here (.st (mf 2 388 0 2))))
    s.memOk = true ∧ ∃ t, step s = .next t := ⟨by decide +kernel, goesOn_spec (by decide +kernel)⟩

theorem witness_StepKeepsNames : let s := here (.nop (cf 0 0 0 0))
    s.named ∧ ∃ t, step s = .next t := ⟨⟨by decide +kernel, by decide +kernel⟩, goesOn_spec (by decide +kernel)⟩
end Sys2Proof.Tests
end

namespace Sys2Proof.Machine

open Sys2Proof

/-!
Every step keeps every memory in canonical form (O58). `State.Canon` names the parts of `State.memOk`; each operation of
the model has one lemma here, under the operation's own name, that a canonical state goes to a canonical one, so that a
proof follows the operation's text call by call.
-/

-- Reading the default proof of an argument (`same`, `frame`, `fst`, `snd`) waits for every declaration before it: proofs
-- elaborated in parallel would hold a thread each while they wait.
set_option Elab.async false

/-- Every memory of the state is in canonical form: the parts of `State.memOk` (R5, R90, R180, R295). -/
structure State.Canon (s : State) : Prop where
  pmem : Sparse.wf s.pmem
  tile : Sparse.wf s.tile
  empty : Sparse.wf s.empty
  slots : ∀ e ∈ s.exchanges, Sparse.wf e.slotN ∧ Sparse.wf e.slotF

/-- The outcome's next state, if it has one, is canonical. -/
def Canonical : Out → Prop
  | .next s => s.Canon
  | _ => True

/-- The state in which an instruction's effect leaves the machine, if it has one, is canonical. -/
def Res.Canon : Res → Prop
  | .done s _ | .trapIn s _ _ _ _ _ | .stall s _ | .raise s _ _ _ | .stop s | .stay s => s.Canon
  | .trap _ _ _ _ => True

/-- The state that a launch's checks leave, if they leave one, is canonical. -/
def LaunchTry.Canon : LaunchTry → Prop
  | .blocked => True
  | .fails s _ | .stops s _ _ | .starts s _ _ => s.Canon

theorem State.canon_iff {s : State} : s.Canon ↔ s.memOk = true := by
  rw [memOk_iff]
  exact ⟨fun ⟨p, t, e, x⟩ => ⟨p, t, e, x⟩, fun ⟨p, t, e, x⟩ => ⟨p, t, e, x⟩⟩

theorem Res.Canon.ite {p : Prop} [Decidable p] {a b : Res} (ha : a.Canon) (hb : b.Canon) : (if p then a else b).Canon := by
  split
  · exact ha
  · exact hb

theorem LaunchTry.Canon.fails {x : LaunchTry} {s : State} {n : Nat} (h : x.Canon) (e : x = .fails s n) : s.Canon := by rw [e] at h; exact h
theorem LaunchTry.Canon.stops {x : LaunchTry} {s : State} {v : Verdict} {va : Nat} (h : x.Canon)
    (e : x = .stops s v va) : s.Canon := by rw [e] at h; exact h
theorem LaunchTry.Canon.starts {x : LaunchTry} {s : State} {l : Launch} {place : List (Nat × Nat)} (h : x.Canon)
    (e : x = .starts s l place) : s.Canon := by rw [e] at h; exact h

/-- An operation on a sparse map that keeps its form keeps it over a list of operands. -/
theorem foldl_wf {n : Nat} {α : Type} {f : Sparse n → α → Sparse n} {xs : List α} (hf : ∀ m x, Sparse.wf m → Sparse.wf (f m x))
    {m : Sparse n} (h : Sparse.wf m) : Sparse.wf (xs.foldl f m) := by
  induction xs generalizing m with
  | nil => exact h
  | cons x xs ih => exact ih (hf m x h)

variable {s t : State} {α β : Type}

namespace State.Canon

/-! ### Changes that keep every memory, folds and pairs -/

/-- A state that holds the same memories. -/
theorem same (h : s.Canon) (hp : t.pmem = s.pmem := by rfl) (ht : t.tile = s.tile := by rfl) (he : t.empty = s.empty := by rfl)
    (hx : t.exchanges = s.exchanges := by rfl) : t.Canon :=
  ⟨hp ▸ h.pmem, ht ▸ h.tile, he ▸ h.empty, hx ▸ h.slots⟩

/-- An update, written out, of other fields alone: nothing has to be unfolded to see that it keeps the memories. -/
theorem frame (h : s.Canon) (hp : t.pmem = s.pmem := by with_reducible rfl) (ht : t.tile = s.tile := by with_reducible rfl)
    (he : t.empty = s.empty := by with_reducible rfl) (hx : t.exchanges = s.exchanges := by with_reducible rfl) : t.Canon :=
  h.same hp ht he hx

theorem ite {p : Prop} [Decidable p] (h : s.Canon) (g : t.Canon) : (if p then s else t).Canon := by
  split
  · exact h
  · exact g

/-- The state of a pair that a match has taken apart. -/
theorem fst {x : State × α} {a : α} (h : x.1.Canon) (e : x = (t, a) := by with_reducible assumption) : t.Canon := by
  rw [e] at h; exact h
theorem snd {x : α × State} {a : α} (h : x.2.Canon) (e : x = (a, t) := by with_reducible assumption) : t.Canon := by
  rw [e] at h; exact h

theorem fst_ite {p : Prop} [Decidable p] {x y : State × α} (h : x.1.Canon) (g : y.1.Canon) : (if p then x else y).1.Canon := by
  split
  · exact h
  · exact g

theorem foldl {f : State → α → State} {xs : List α} (h : s.Canon) (hf : ∀ t x, t.Canon → (f t x).Canon) :
    (xs.foldl f s).Canon := by
  induction xs generalizing s with
  | nil => exact h
  | cons x xs ih => exact ih (hf s x h)

theorem foldl_fst {f : State × β → α → State × β} {xs : List α} {p : State × β} (h : p.1.Canon)
    (hf : ∀ p x, p.1.Canon → (f p x).1.Canon) : (xs.foldl f p).1.Canon := by
  induction xs generalizing p with
  | nil => exact h
  | cons x xs ih => exact ih (hf p x h)

theorem foldl_of {f : State × β → α → State × β} {xs : List α} {p : State × β} {b : β} (e : xs.foldl f p = (t, b))
    (h : p.1.Canon) (hf : ∀ p x, p.1.Canon → (f p x).1.Canon) : t.Canon := (h.foldl_fst hf).fst e

/-! ### The memory side, whose operations all are `Side` -/

theorem side (h : s.Canon) (g : Side s t) : t.Canon := canon_iff.2 (g.ok (canon_iff.1 h))
theorem physPut {pa : Nat} {bytes : List Byte} (h : s.Canon) : (s.physPut pa bytes).Canon := h.side (physPut_side ..)
theorem setPhys64 {pa : Nat} {x : DWord} (h : s.Canon) : (s.setPhys64 pa x).Canon := h.physPut
theorem installWalk {asid va : Nat} {acc : Acc} {found : WalkResult} (h : s.Canon) : (s.installWalk asid va acc found).Canon :=
  h.side (installWalk_side ..)
theorem askWalk {asid va : Nat} {acc : Acc} (h : s.Canon) : (s.askWalk asid va acc).Canon := h.side (askWalk_side ..)
theorem rewalk (h : s.Canon) : s.rewalk.Canon := h.same
theorem evict {l : L2Line} (h : s.Canon) : (s.evict l).Canon := h.side (evict_side ..)
theorem fillLine {e : TlbEntry} {asid va : Nat} {pfm asked : Bool} (h : s.Canon) : (s.fillLine e asid va pfm asked).Canon :=
  h.side (fillLine_side ..)
theorem useEntry {asid va : Nat} {acc : Acc} {e : TlbEntry} {asked : Bool} {v : Verdict} (h : s.Canon)
    (g : s.useEntry asid va acc e asked = some (t, v) := by with_reducible assumption) : t.Canon := h.side (useEntry_side g)
theorem probe {asid va : Nat} {acc : Acc} (h : s.Canon) : (s.probe asid va acc).1.Canon := h.side (probe_side ..)
theorem ensure {asid va : Nat} {acc : Acc} {again : Bool} (h : s.Canon) : (s.ensure asid va acc again).1.Canon := h.side (ensure_side ..)
theorem ensureAll {asid : Nat} {acc : Acc} {again : Bool} {ps : List (Nat × Nat)} (h : s.Canon) :
    (State.ensureAll asid acc again ps s).1.Canon := h.side (ensureAll_side ..)
theorem fire {asid line : Nat} (h : s.Canon) : (s.fire asid line).Canon := h.same
theorem homePut {asid va : Nat} {bytes : List Byte} (h : s.Canon) : (s.homePut asid va bytes).Canon := h.side (homePut_side ..)
theorem readAt {asid va n : Nat} {acc : Acc} {again : Bool} (h : s.Canon) : (s.readAt asid va n acc again).1.Canon :=
  h.side (readAt_side ..)
theorem writeAt {asid va : Nat} {bytes : List Byte} {again : Bool} (h : s.Canon) : (s.writeAt asid va bytes again).1.Canon :=
  h.side (writeAt_side ..)

/-! ### L1, tile memory, free values and links -/

theorem setL1 {core asid line : Nat} {data : Option (List Byte)} (h : s.Canon) : (s.setL1 core asid line data).Canon := h.same
theorem tilePut {core off : Nat} {bytes : List Byte} (h : s.Canon) : (s.tilePut core off bytes).Canon :=
  canon_iff.2 (tilePut_ok core off bytes (canon_iff.1 h))
theorem setFull {core line : Nat} {full : Bool} (h : s.Canon) : (s.setFull core line full).Canon :=
  canon_iff.2 (setFull_ok core line full (canon_iff.1 h))
theorem draw (h : s.Canon) : s.draw.2.Canon := h.same
theorem choose (h : s.Canon) : s.choose.2.Canon := h.same

theorem sendTo {here dest : Nat} {f : Flit} (h : s.Canon) : (s.sendTo here dest f).Canon := by
  fun_cases State.sendTo
  · exact h
  · exact h.frame

theorem handOver {k : Nat × Nat} {f : Flit} (h : s.Canon) : (s.handOver k f).Canon := by
  fun_cases State.handOver
  · exact h.foldl fun _ _ h => h.frame.ite h.sendTo
  · exact h.frame
  · exact h.sendTo
  · exact h

theorem flushPeer {m vc : Nat} (h : s.Canon) : (s.flushPeer m vc).Canon := by
  fun_cases State.flushPeer
  · exact h
  · exact h.draw.snd.frame

theorem sendPeer {m vc : Nat} (h : s.Canon) : (s.sendPeer m vc).Canon := h.frame.flushPeer
theorem replyPeer {r : PeerReply} (h : s.Canon) : (s.replyPeer r).Canon := h.frame.sendPeer

/-! ### The state operations that instructions share (Ops) -/

theorem unrun {rid e : Nat} (h : s.Canon) : (s.unrun rid e).Canon := h.same
theorem mapRaft {id : Nat} {f : Raft → Raft} (h : s.Canon) : (s.mapRaft id f).Canon := h.same
theorem mapTeam {id : Nat} {f : Team → Team} (h : s.Canon) : (s.mapTeam id f).Canon := h.same
theorem endDebug {d : DebugOp} {status : Nat} (h : s.Canon) : (s.endDebug d status).Canon := h.same

theorem trapStep {team rid : Nat} (h : s.Canon) : (s.trapStep team rid).Canon := by
  fun_cases State.trapStep
  · exact h
  · exact h
  · exact h.mapTeam.mapRaft.foldl fun _ _ h => h.endDebug

theorem postMail {asid mbox : Nat} {bytes : List Byte} (h : s.Canon) : (s.postMail asid mbox bytes).1.Canon := by
  fun_cases State.postMail
  · exact h.readAt.fst
  · exact h.readAt.fst.ensureAll.fst.writeAt.writeAt
  · exact h.readAt.fst.ensureAll.fst
  · exact h.readAt.fst

theorem mail {asid : Nat} {bytes : List Byte} (h : s.Canon) : (s.mail asid bytes).1.Canon := by
  fun_cases State.mail
  · exact h
  · exact h.frame
  · exact h.postMail.fst
  · exact h.postMail.fst
  · exact h.postMail.fst.frame

theorem postTrapRecord {asid : Nat} {bytes : List Byte} (h : s.Canon) : (s.postTrapRecord asid bytes).1.Canon := by
  fun_cases State.postTrapRecord
  · exact h.frame
  · exact h.writeAt.fst.setPhys64
  · exact h.writeAt.fst.frame

theorem tryPost {p : Post} (h : s.Canon) : (s.tryPost p).1.Canon := by
  unfold State.tryPost
  split
  · dsimp only
    split
    · exact h
    · split <;> exact h.mail.fst
  split
  · exact h
  split
  dsimp only
  split
  · exact h.postTrapRecord.fst
  · split <;> exact h.postTrapRecord.fst.mail.fst

theorem post {p : Post} (h : s.Canon) : (s.post p).Canon := by
  fun_cases State.post
  · exact h.frame
  · exact h.tryPost.fst
  · exact h.tryPost.fst.frame

theorem setTeam {t : Team} (h : s.Canon) : (s.setTeam t).Canon := h.same
theorem report {asid : Nat} {bytes : List Byte} (h : s.Canon) : (s.report asid bytes).Canon := h.post
theorem haltReport {t : Team} {r : Raft} (h : s.Canon) : (s.haltReport t r).Canon := h.report
theorem stepReport {t : Team} {r : Raft} {st : Stepping} {blocked : Bool} (h : s.Canon) : (s.stepReport t r st blocked).Canon := h.report

theorem concludeOne {d : DebugOp} (h : s.Canon) : (s.concludeOne d).Canon := by
  fun_cases State.concludeOne
  case case2 | case3 | case4 | case8 | case11 => exact h.endDebug
  case case5 | case7 => exact h.haltReport.endDebug
  case case12 => exact h.stepReport.mapTeam.endDebug
  all_goals exact h

theorem conclude {team : Nat} (h : s.Canon) : (s.conclude team).Canon := h.foldl fun _ _ h => h.concludeOne

theorem endTeam {t : Team} {trapped : Bool} (h : s.Canon) : (s.endTeam t trapped).Canon := by
  unfold State.endTeam
  refine conclude ?_
  split
  · cases trapped <;> exact h.same
  · cases trapped <;> exact h.same.ite h.same

theorem asyncRecord {t : Team} {cause : Nat} (h : s.Canon) : (s.asyncRecord t cause).Canon := by
  fun_cases State.asyncRecord
  · exact h
  · exact h.post

theorem settleTeam {tid : Nat} (h : s.Canon) : (s.settleTeam tid).Canon := by
  fun_cases State.settleTeam
  · exact h
  · split
    · exact (h.asyncRecord.ite h).endTeam
    · exact h.endTeam
  · exact h

theorem setRaft {r : Raft} (h : s.Canon) : (s.setRaft r).Canon := h.same

theorem settleStop {rid : Nat} (h : s.Canon) : (s.settleStop rid).Canon := by
  fun_cases State.settleStop
  case case4 => exact h.setRaft
  case case6 => exact h.setRaft.conclude.settleTeam
  all_goals exact h

theorem stopRaft {rid reason : Nat} (h : s.Canon) : (s.stopRaft rid reason).Canon := by
  fun_cases State.stopRaft
  · exact h
  · exact h
  · exact h.setRaft.settleStop

theorem stopTeam {tid reason : Nat} (h : s.Canon) : (s.stopTeam tid reason).Canon := h.foldl fun _ _ h => h.stopRaft

theorem takeTrap {rid : Nat} {e : Option Nat} {ti : TrapInfo} (h : s.Canon) : (s.takeTrap rid e ti).Canon := by
  unfold State.takeTrap
  split
  · exact h
  split
  · exact h
  have hrun : (match e with | some k => s.unrun rid k | none => s).Canon := by
    cases e
    · exact h
    · exact h.unrun
  dsimp only
  split
  · split
    · exact hrun.post.trapStep.setTeam.stopTeam.settleStop.settleTeam
    · exact hrun.post.trapStep.stopTeam.settleStop.settleTeam
  · exact hrun.post.trapStep.stopTeam.settleStop

theorem mapEntry {id e : Nat} {f : Entry → Entry} (h : s.Canon) : (s.mapEntry id e f).Canon := h.mapRaft
theorem leaveAt {rid e : Nat} (h : s.Canon) : (s.leaveAt rid e).Canon := h.mapEntry.unrun

theorem trapAt {c : Ctx} {cause : Nat} {lanes : LaneMask} {addr aux : Nat} {detail : List Byte} (h : s.Canon) :
    (s.trapAt c cause lanes addr aux detail).Canon := by
  unfold State.trapAt
  exact h.leaveAt.takeTrap

theorem holdAt {rid e : Nat} {w : Wait} (h : s.Canon) : (s.holdAt rid e w).Canon := h.mapEntry.unrun.settleStop
theorem markMoored {rid : Nat} (h : s.Canon) : (s.markMoored rid).Canon := h.mapRaft
theorem moorWith {rid e : Nat} {w : Wait} (h : s.Canon) : (s.moorWith rid e w).Canon := h.mapRaft.unrun.markMoored.settleStop
theorem moorAt {rid e : Nat} {va : Option Nat} (h : s.Canon) : (s.moorAt rid e va).Canon := h.moorWith
theorem dropOp {id : Nat} (h : s.Canon) : (s.dropOp id).Canon := h.same
theorem dropReq {id : Nat} (h : s.Canon) : (s.dropReq id).Canon := h.same

theorem raiseAt {rid e : Nat} {pc : DWord} {slot : Nat} {d : Deferral} {isOp : Bool} {id : Nat} (h : s.Canon) :
    (s.raiseAt rid e pc slot d isOp id).Canon := by
  unfold State.raiseAt
  exact (h.dropOp.ite h.dropReq).mapEntry.takeTrap

theorem stepStreams {rid : Nat} {ks : List Nat} (h : s.Canon) : (s.stepStreams rid ks).Canon := h.mapRaft

theorem passSlot {rid e : Nat} {fl : Flow} {issued : Bool} (h : s.Canon) : (s.passSlot rid e fl issued).Canon := by
  fun_cases State.passSlot
  case case1 => exact h
  case case6 => exact h.setRaft
  all_goals exact h.setRaft.unrun.settleStop

theorem countSkid {rid : Nat} (h : s.Canon) : (s.countSkid rid).Canon := h.mapRaft
theorem unread {c : Ctx} (h : s.Canon) : (c.unread s).Canon := h.mapRaft

theorem issueWith {c : Ctx} {i : Instr} {body : State → Ctx → Res} (h : s.Canon) (hbody : ∀ t c, t.Canon → (body t c).Canon) :
    (s.issueWith c i body).Canon := by
  unfold State.issueWith
  split
  · exact h.trapAt
  split
  · exact h.holdAt
  · exact h.moorAt
  · exact h.raiseAt
  have hb := hbody _ c (h.stepStreams (rid := c.r.id) (ks := c.streamsRead i))
  generalize body _ c = r at hb ⊢
  split
  · exact passSlot hb
  · exact h.trapAt
  · exact trapAt (frame hb)
  · exact moorAt (frame hb)
  · exact ite (holdAt (countSkid hb)) (holdAt (frame hb))
  · exact raiseAt (frame hb)
  · exact hb
  · exact holdAt (unread hb)

theorem issue {i : Instr} {body : State → Ctx → Res} (h : s.Canon) (hbody : ∀ t c, t.Canon → (body t c).Canon) :
    Canonical (issue i s body) := by
  fun_cases Machine.issue
  · exact h
  · exact h.issueWith hbody

theorem put {c : Ctx} {d : RegNum} {val : Nat → List Word} (h : s.Canon) : (c.put s d val).Canon := by
  fun_cases Ctx.put
  · exact h
  · exact h.mapRaft

theorem putP {c : Ctx} {d : RegNum} {val : Nat → Bool} (h : s.Canon) : (c.putP s d val).Canon := by
  fun_cases Ctx.putP
  · exact h
  · exact h.mapRaft

theorem resumeRaft {rid : Nat} (h : s.Canon) : (s.resumeRaft rid).Canon := h.mapRaft
theorem flushPosts (h : s.Canon) : s.flushPosts.Canon := h.frame.foldl fun _ _ h => h.post
theorem passWait {rid e : Nat} (h : s.Canon) : (s.passWait rid e).Canon := h.passSlot
theorem setLaunch {l : Launch} (h : s.Canon) : (s.setLaunch l).Canon := h.same
theorem setReq {q : Req} (h : s.Canon) : (s.setReq q).Canon := h.same

theorem parkReq {q : Req} (h : s.Canon) : (s.parkReq q).Canon := by
  fun_cases State.parkReq
  · exact h.setReq
  · exact h.dropReq

theorem mapTeamRafts {team : Nat} {f : Raft → Raft} (h : s.Canon) : (s.mapTeamRafts team f).Canon := h.same
theorem stopGroup {teams : List Nat} (h : s.Canon) : (s.stopGroup teams).Canon := h.foldl fun _ _ h => h.stopTeam
theorem moorIn {rid e : Nat} {va : Option Nat} {back : Wait} (h : s.Canon) : (s.moorIn rid e va back).Canon := h.moorWith
theorem setOp {o : Op} (h : s.Canon) : (s.setOp o).Canon := h.same
theorem mapCluster {c : Nat} {f : Cluster → Cluster} (h : s.Canon) : (s.mapCluster c f).Canon := h.same

/-! ### Control flow, barriers and fetch (Control) -/

theorem orElse {b : Block} {go : Res} (h : s.Canon) (hgo : go.Canon) : (b.orElse s go).Canon := by
  fun_cases Block.orElse
  · exact hgo
  all_goals exact h

theorem dropNamed {core asid : Nat} {bound : List (Nat × Nat × Nat)} {mask : BitVec 8} (h : s.Canon) :
    (s.dropNamed core asid bound mask).Canon := h.same

theorem acquireDrop {r : Raft} {asid scope : Nat} {mask : BitVec 8} (h : s.Canon) : (s.acquireDrop r asid scope mask).Canon := by
  fun_cases State.acquireDrop
  · exact h
  · exact h.dropNamed

theorem execBatch {f : AF} (h : s.Canon) : Canonical (execBatch f s) := h.issue fun _ _ h => .ite h (h.mapRaft.mapRaft.ite h.mapRaft)
theorem execNop {f : CF} (h : s.Canon) : Canonical (execNop f s) := h.issue fun _ _ h => h
theorem execBru {f : CF} (h : s.Canon) : Canonical (execBru f s) := h.issue fun _ _ h => .ite (.ite trivial h) h

theorem splitTo {c : Ctx} {jid : BitVec 8} {stay : Option DWord} {keep : LaneMask} {rest : List (DWord × LaneMask)} (h : s.Canon) :
    (splitTo c s jid stay keep rest).Canon := by
  fun_cases Machine.splitTo
  · exact h.mapRaft
  · exact trivial
  · exact h.mapRaft

theorem execBrd {f : CF} (h : s.Canon) : Canonical (execBrd f s) := h.issue fun _ _ h => .ite h.splitTo (.ite h.splitTo h.splitTo)

theorem execJoin {f : CF} (h : s.Canon) : Canonical (execJoin f s) :=
  h.issue fun _ _ h => by
    dsimp only
    split
    · exact h
    · exact .ite trivial (.ite trivial h.unrun.setRaft)

theorem execJmp {f : CF} (h : s.Canon) : Canonical (execJmp f s) := h.issue fun _ _ h => h

theorem jumpTo {c : Ctx} {target : DWord} {go : Res} (h : s.Canon) (hgo : go.Canon) : (jumpTo s c target go).Canon := by
  fun_cases Machine.jumpTo
  · exact trivial
  · exact trivial
  · exact hgo
  · exact h

theorem execJmpi {f : CF} (h : s.Canon) : Canonical (execJmpi f s) := h.issue fun _ _ h => h.jumpTo h

theorem execJmpiDiv {f : CF} (h : s.Canon) : Canonical (execJmpiDiv f s) :=
  h.issue fun _ _ h => by
    dsimp only
    split
    · exact trivial
    split
    · exact trivial
    split
    · exact h
    · exact h
    · exact h.splitTo

theorem linkTo {c : Ctx} {d : RegNum} (h : s.Canon) : (linkTo s c d).Canon := h.put
theorem execCall {f : CF} (h : s.Canon) : Canonical (execCall f s) := h.issue fun _ _ h => h.linkTo
theorem execCallInd {f : CF} (h : s.Canon) : Canonical (execCallInd f s) := h.issue fun _ _ h => h.jumpTo h.linkTo
theorem execRet {f : CF} (h : s.Canon) : Canonical (execRet f s) := h.issue fun _ _ h => h.jumpTo h

theorem execExit {f : CF} (h : s.Canon) : Canonical (execExit f s) :=
  h.issue fun _ _ h => by
    dsimp only
    split
    · exact trivial
    split
    · exact h
    · exact (h.frame.ite h).unrun.setRaft

theorem execWaitc {f : CF} (h : s.Canon) : Canonical (execWaitc f s) := h.issue fun _ _ h => .ite (h.orElse h) (.ite h h)
theorem execWaitb {f : CF} (h : s.Canon) : Canonical (execWaitb f s) := h.issue fun _ _ h => .ite trivial (h.orElse h)
theorem execWaitbKeep {f : CF} (h : s.Canon) : Canonical (execWaitbKeep f s) := h.issue fun _ _ h => .ite h (h.orElse h)

theorem barrierIssue {i : Instr} {f : CF} {ent : Ctx → Option Nat} {dest : Ctx → Option Dest} (h : s.Canon) :
    Canonical (barrierIssue i f s ent dest) :=
  h.issue fun _ _ h => by
    dsimp only
    split
    · exact trivial
    split
    · exact trivial
    split
    · exact trivial
    split
    · exact h
    split
    · exact h.orElse h
    split
    · exact h.orElse h.frame
    · exact h.orElse h.frame.mapEntry.unrun

theorem execBarSync {f : CF} (h : s.Canon) : Canonical (execBarSync f s) := h.barrierIssue
theorem execBarArrive {f : CF} (h : s.Canon) : Canonical (execBarArrive f s) := h.barrierIssue
theorem fetchWord {asid : Nat} {pc : DWord} (h : s.Canon) : (s.fetchWord asid pc).1.Canon := by
  fun_cases State.fetchWord <;> exact h.readAt.fst

theorem fetchWords {asid n : Nat} {pc : DWord} (h : s.Canon) : (State.fetchWords asid pc n s).1.Canon := by
  induction n generalizing pc s with
  | zero => exact h
  | succ n ih =>
    rw [State.fetchWords]
    split
    · exact ih h.fetchWord.fst
    · exact h.fetchWord.fst

theorem fetchClause {asid : Nat} {pc : DWord} (h : s.Canon) : (s.fetchClause asid pc).1.Canon := by
  fun_cases State.fetchClause
  case case5 | case6 | case7 => exact h.fetchWord.fst
  all_goals exact h.fetchWord.fst.fetchWords.fst

theorem capture {asid n : Nat} {pc : DWord} (h : s.Canon) : (State.capture asid n pc s).1.Canon := by
  induction n generalizing pc s with
  | zero => exact h
  | succ n ih =>
    rw [State.capture]
    split
    · have h1 := h.fetchClause.fst
      split
      · exact h1
      split
      · exact h1
      split
      · exact (ih h1).fst
      · exact ih h1
    all_goals exact h.fetchClause.fst

theorem loopIssue {i : Instr} {f : CF} {until? : Option (Nat × Nat)} {count : Ctx → Nat} (h : s.Canon) :
    Canonical (loopIssue i f s until? count) :=
  h.issue fun _ _ h => by
    split
    all_goals
      dsimp only
      split
      · exact trivial
      split
      · exact h
      split
      · split
        · exact h.capture.fst.mapRaft.unrun
        · exact h.capture.fst
      all_goals exact h.capture.fst

theorem execLoop {f : CF} (h : s.Canon) : Canonical (execLoop f s) := h.loopIssue
theorem execLoopUntil {f : CF} (h : s.Canon) : Canonical (execLoopUntil f s) := h.loopIssue
theorem execStrm {f : CF} (h : s.Canon) : Canonical (execStrm f s) := h.issue fun _ _ h => .ite trivial h.mapRaft
theorem execStrmOff {f : CF} (h : s.Canon) : Canonical (execStrmOff f s) := h.issue fun _ _ h => h.mapRaft
theorem execReorder {f : CF} (h : s.Canon) : Canonical (execReorder f s) := h.issue fun _ _ h => .ite trivial (h.orElse h.mapRaft)
theorem lowerCount {rid n : Nat} (h : s.Canon) : (s.lowerCount rid n).Canon := h.same
theorem execQuota {f : CF} (h : s.Canon) :
    Canonical (execQuota f s) := h.issue fun _ _ h => .ite trivial (.ite trivial (.ite (.ite h h.lowerCount) (.ite h h)))
theorem execYield {f : CF} (h : s.Canon) : Canonical (execYield f s) := h.issue fun _ _ h => h
theorem dropRead {core asid va n : Nat} (h : s.Canon) : (s.dropRead core asid va n).Canon := h.same

theorem watchFor {asid va : Nat} {target : Target} (h : s.Canon) : (s.watchFor asid va target).Canon := by
  fun_cases State.watchFor
  · exact h
  · exact h.frame

theorem execWaitmem {f : CF} (h : s.Canon) : Canonical (execWaitmem f s) :=
  h.issue fun _ _ h => by
    extract_lets va n value scope
    refine .ite trivial (.ite trivial (h.orElse ?_))
    split
    · exact .ite h.readAt.fst.dropRead.acquireDrop h.readAt.fst.dropRead.watchFor
    · exact h.readAt.fst
    · exact h.readAt.fst
    · exact h.readAt.fst

theorem trapHeader {r : Raft} {e : Nat} {en : Entry} {cause addr : Nat} {hdr : DWord} (h : s.Canon) :
    (s.trapHeader r e en cause addr hdr).Canon := h.takeTrap

theorem execClauseFetch {raft ent : Nat} (h : s.Canon) : Canonical (execClauseFetch raft ent s) := by
  unfold Machine.execClauseFetch
  split
  · exact h
  split
  · split
    · exact h
    split
    · exact h.fetchClause.fst.mapEntry.ite h.fetchClause.fst.trapHeader
    · exact h.fetchClause.fst.moorAt
    · exact h.fetchClause.fst
    · exact h.fetchClause.fst.trapHeader
  · exact h

theorem breakStop {t : Team} {r : Raft} {en : Entry} {n : Nat} (h : s.Canon) : (s.breakStop t r en n).Canon := h.report.stopTeam

theorem execClauseStart {core quad : Nat} (h : s.Canon) : Canonical (execClauseStart core quad s) := by
  unfold Machine.execClauseStart
  split
  · exact h.frame
  split
  · exact h
  split
  · exact h
  split
  · exact h.breakStop
  split
  · exact h
  · exact h.moorAt
  · exact h.raiseAt
  split <;> exact h.same

theorem execYieldExpiry {raft ent : Nat} (h : s.Canon) : Canonical (execYieldExpiry raft ent s) := by
  unfold Machine.execYieldExpiry
  split
  · exact h
  split
  · split
    · exact h.mapEntry.ite h
    · exact h
  · exact h

theorem execQuotaGrant {raft ent : Nat} (h : s.Canon) : Canonical (execQuotaGrant raft ent s) := by
  unfold Machine.execQuotaGrant
  split
  · exact h
  split
  · split
    · exact h.ite (h.leaveAt.takeTrap.ite (h.ite ((h.lowerCount.ite h.mapRaft).passWait)))
    · exact h
  · exact h

theorem execRaftFree {raft : Nat} (h : s.Canon) : Canonical (execRaftFree raft s) := by
  unfold Machine.execRaftFree
  split
  · exact h
  split
  · exact h
  split
  · exact h.settleTeam
  split
  · exact h
  split
  · exact h
  split
  · exact h.frame.endTeam.ite h.frame
  · exact h
  · exact h.mapRaft
  · exact h.raiseAt

theorem nowReady {rid : Nat} (h : t.Canon) : (s.nowReady t rid).Canon := h.mapRaft
theorem saveRaft {st : Stow} {i : Nat} {x : Raft × Nat} (h : s.Canon) : (s.saveRaft st i x).Canon := h.physPut.physPut

theorem refresh {rid : Nat} (h : s.Canon) : (s.refresh rid).Canon := by
  fun_cases State.refresh
  · exact h
  · exact h
  · exact h.foldl fun _ _ h => (h.foldl fun _ _ h => h.saveRaft)

theorem deliver {rid : Nat} {d : Dest} {val : Nat → List Word} (h : s.Canon) : (s.deliver rid d val).Canon := h.mapRaft.refresh

theorem failReq {q : Req} {v : Verdict} {lanes : LaneMask} {addr : Nat} (h : s.Canon) : (s.failReq q v lanes addr).Canon := by
  fun_cases State.failReq
  · exact h.parkReq
  · exact h.parkReq
  · exact h

theorem sendWakes {asid va : Nat} {cores : List Nat} (h : s.Canon) : (s.sendWakes asid va cores).Canon := h.same
theorem leaveBarrier {r : Raft} {e asid scope : Nat} (h : s.Canon) : (s.leaveBarrier r e asid scope).Canon := h.acquireDrop.passSlot

theorem trapWaiting {rid e : Nat} {en : Entry} {cause va : Nat} (h : s.Canon) : (s.trapWaiting rid e en cause va).Canon := by
  unfold State.trapWaiting
  exact h.takeTrap

theorem rereadBarrier {rid e asid : Nat} (h : s.Canon) : (s.rereadBarrier rid e asid).1.Canon := by
  fun_cases State.rereadBarrier
  case case3 => exact h.readAt.fst.dropRead.ite h.readAt.fst.dropRead.leaveBarrier
  case case4 => exact h.readAt.fst.moorIn
  case case5 => exact h.readAt.fst.trapWaiting
  case case6 => exact h.readAt.fst
  all_goals exact h

theorem rereadWord {rid e asid : Nat} (h : s.Canon) : (s.rereadWord rid e asid).Canon := by
  fun_cases State.rereadWord
  case case3 => exact h.readAt.fst.dropRead.acquireDrop.passWait
  case case4 => exact h.readAt.fst.dropRead.watchFor.mapEntry
  case case5 => exact h.readAt.fst.moorIn
  case case6 => exact h.readAt.fst.trapWaiting
  case case7 => exact h.readAt.fst
  case case8 => exact h.moorIn
  all_goals exact h

theorem execBarrierArrive {req : Nat} (h : s.Canon) : Canonical (execBarrierArrive req s) := by
  unfold Machine.execBarrierArrive
  split
  · exact h
  split
  · split
    · exact h
    split
    · split
      · split
        · exact h.readAt.fst.dropReq.mapEntry.takeTrap
        · exact h.readAt.fst.dropReq.takeTrap
      have h1 := h.readAt.fst
      split
      · dsimp only
        split
        · exact h1.writeAt.sendWakes.dropReq.dropRead.settleStop
        · exact (h1.writeAt.sendWakes.dropReq.dropRead.leaveBarrier.ite
            (h1.writeAt.sendWakes.dropReq.dropRead.sendWakes.ite h1.writeAt.sendWakes.dropReq.dropRead).mapEntry).settleStop
      · exact h1.writeAt.sendWakes.dropReq.dropRead.nowReady.deliver.settleStop
      · exact h1.writeAt.sendWakes.dropReq.dropRead.settleStop
    · split
      · exact h.readAt.fst.parkReq.moorAt
      · exact h.readAt.fst.parkReq
    · split
      · exact h.readAt.fst.parkReq.raiseAt
      · exact h.readAt.fst.parkReq
    · exact h.readAt.fst
  · exact h

theorem execWakeNotice {notice : Nat} (h : s.Canon) : Canonical (execWakeNotice notice s) := by
  unfold Machine.execWakeNotice
  split
  · dsimp only
    split
    · exact h
    split
    · next e => exact (foldl_of e h fun _ _ h => h.foldl_fst fun _ _ h => h.rereadBarrier).frame
    · next e => exact foldl_of e h fun _ _ h => h.foldl_fst fun _ _ h => h.rereadBarrier
  · exact h

theorem execWriteNotice {notice : Nat} (h : s.Canon) : Canonical (execWriteNotice notice s) := by
  unfold Machine.execWriteNotice
  split
  · exact h.frame.replyPeer
  · split
    · exact h.frame
    split
    · exact h.frame
    · exact h.frame.ite (h.frame.rereadWord.ite h)
  · exact h

theorem execWaitmemRetry {raft ent : Nat} (h : s.Canon) : Canonical (execWaitmemRetry raft ent s) := by
  unfold Machine.execWaitmemRetry
  split
  · exact h
  split
  · split
    · exact h.rereadWord.ite h
    · exact h
  · exact h

/-! ### Records, loads and stores (Records, LoadStore) -/

theorem watchStop {c : Ctx} {core n addr : Nat} {lanes : LaneMask} (h : s.Canon) : (s.watchStop c core n addr lanes).Canon := by
  fun_cases State.watchStop
  · exact h.leaveAt.report.mapTeam.stopTeam.settleStop.foldl fun _ _ h => h.stopTeam
  · exact h.leaveAt.report.mapTeam.stopTeam.settleStop

theorem launchReq {c : Ctx} {q : Req} (h : s.Canon) : (c.launchReq s q).Canon := h.orElse (.ite h (.ite h h.frame))

theorem access {c : Ctx} {f : MF} {kind : ReqKind} {write : Bool} {dest : Option Dest} {data : Nat → List Byte} {accs : List LaneAcc}
    (h : s.Canon) :
    (c.access s f kind write dest data accs).Canon := by
  fun_cases Ctx.access
  · exact h
  · exact h.unread.watchStop
  · exact h
  · exact h.frame.launchReq

theorem loadIssue {i : Instr} {f : MF} {form : MemForm} (h : s.Canon) : Canonical (loadIssue i f form s) := h.issue fun _ _ h => h.access
theorem execLd {f : MF} (h : s.Canon) : Canonical (execLd f s) := h.loadIssue
theorem storeIssue {i : Instr} {f : MF} {form : MemForm} (h : s.Canon) :
    Canonical (storeIssue i f form s) := h.issue fun _ _ h => h.access
theorem execSt {f : MF} (h : s.Canon) : Canonical (execSt f s) := h.storeIssue

theorem readL1 {core asid : Nat} {ps : List (Nat × Nat)} (h : s.Canon) : (State.readL1 core asid ps s).1.Canon := by
  induction ps generalizing s with
  | nil => exact h
  | cons p ps ih =>
    obtain ⟨va, n⟩ := p
    rw [State.readL1]
    split
    extract_lets early piece
    have h0 := h.choose.snd
    have hp : piece.1.Canon := by
      unfold piece
      split
      · exact h0
      · split
        · exact h0
        · exact h0.readAt
    clear_value piece
    split
    · exact ih hp
    · exact hp

theorem recordBytes {t : Team} {core idx : Nat} (h : s.Canon) : (s.recordBytes t core idx).1.Canon := by
  fun_cases State.recordBytes
  · exact h.choose.snd
  · exact h.choose.snd.readL1.fst.frame
  · exact h.choose.snd.readL1

theorem withRec {c : Ctx} {idx : Nat} {lanes : LaneMask} {peerOk : Bool} {place : Option (Nat × Nat)} {k : State → BRec → Res}
    (h : s.Canon) (hk : ∀ t r, t.Canon → (k t r).Canon) : (c.withRec s idx lanes peerOk place k).Canon := by
  fun_cases Ctx.withRec
  case case1 => exact h
  case case2 => exact hk _ _ h.recordBytes.fst
  all_goals exact h.recordBytes.fst

theorem viaRec {c : Ctx} {f : MF} {load : Bool} {k : State → BRec → Nat → Res} (h : s.Canon)
    (hk : ∀ t r n, t.Canon → (k t r n).Canon) : (c.viaRec s f load k).Canon := by
  fun_cases Ctx.viaRec
  · exact h
  · refine h.withRec fun _ _ h => .ite h (.ite h (h.orElse (hk _ _ _ ?_)))
    exact h.ite h.stepStreams

theorem execLdb {f : MF} (h : s.Canon) : Canonical (execLdb f s) := h.issue fun _ _ h => h.viaRec fun _ _ _ h => h.access
theorem execStb {f : MF} (h : s.Canon) : Canonical (execStb f s) := h.issue fun _ _ h => h.viaRec fun _ _ _ h => h.access
theorem execLdt {f : MF} (h : s.Canon) : Canonical (execLdt f s) := h.loadIssue
theorem execStt {f : MF} (h : s.Canon) : Canonical (execStt f s) := h.storeIssue
theorem execLdx {f : MF} (h : s.Canon) : Canonical (execLdx f s) := h.loadIssue
theorem execStx {f : MF} (h : s.Canon) : Canonical (execStx f s) := h.storeIssue
theorem execAtom {f : MF} (h : s.Canon) : Canonical (execAtom f s) := h.issue fun _ _ h => h.access
theorem casIssue {i : Instr} {f : MF} {n : Nat} {virt : Bool} (h : s.Canon) :
    Canonical (casIssue i f n virt s) := h.issue fun _ _ h => h.access
theorem execCas {f : MF} (h : s.Canon) : Canonical (execCas f s) := h.casIssue
theorem execCas128 {f : MF} (h : s.Canon) : Canonical (execCas128 f s) := h.casIssue
theorem execFence {f : MF} (h : s.Canon) : Canonical (execFence f s) := h.issue fun _ _ h => h.orElse (h.acquireDrop.ite h)

theorem execFtag {f : MF} (h : s.Canon) : Canonical (execFtag f s) :=
  h.issue fun _ _ h => by
    split
    · exact h.mapRaft
    · exact .ite trivial h.mapRaft
    · exact .ite trivial (.ite trivial h.mapRaft)
    exact h.withRec fun _ _ h => by
      dsimp only
      split <;> exact h.mapRaft

theorem prefLane {c : Ctx} {f : MF} {lane : Nat} (h : s.Canon) : (c.prefLane f s lane).Canon := by
  fun_cases Ctx.prefLane
  case case2 => exact h.ite h.setL1
  case case7 => exact (h.ite h.fillLine).ite ((h.ite h.fillLine).setL1)
  all_goals exact h.frame

theorem execPref {f : MF} (h : s.Canon) : Canonical (execPref f s) := h.issue fun _ _ h => h.foldl fun _ _ h => h.prefLane
theorem execInvl1 {f : MF} (h : s.Canon) : Canonical (execInvl1 f s) := h.issue fun _ _ h => h.frame
theorem execSetfe {f : MF} (h : s.Canon) : Canonical (execSetfe f s) := h.issue fun _ _ h => h.access
theorem execRrot {f : MF} (h : s.Canon) : Canonical (execRrot f s) := h.issue fun _ _ h => .ite trivial h.access

theorem finishReq {q : Req} (h : s.Canon) : (s.finishReq q).Canon := by
  unfold State.finishReq
  extract_lets s1 first s2
  have h2 : s2.Canon := by
    unfold s2
    split
    · exact h.dropReq.nowReady.deliver
    · exact h.dropReq.nowReady
  split
  · split
    · exact h2.ite h2.dropNamed
    · exact h2
  · exact h2

theorem partsDone {q : Req} {mine : List Part} (h : s.Canon) : (s.partsDone q mine).Canon := by
  fun_cases State.partsDone
  · exact h.finishReq
  · exact h.setReq

theorem stopReq {q : Req} {v : Verdict} {addr : Nat} (h : s.Canon) : (s.stopReq q v addr).Canon := h.failReq

theorem atomLane {q : Req} {p : Part} (h : s.Canon) : (s.atomLane q p).Canon := by
  unfold State.atomLane
  dsimp only
  split
  · split
    · exact h.tilePut.partsDone
    · exact h.partsDone
  split
  · split
    · exact h.ensure.fst.homePut.setL1.partsDone
    · exact h.ensure.fst.setL1.partsDone
  · exact h.ensure.fst.stopReq

theorem arenaLine {asid va : Nat} {data : List Byte} (h : s.Canon) : (s.arenaLine asid va data).1.Canon := by
  fun_cases State.arenaLine
  · exact h.frame
  · exact h

theorem lineForLoad {q : Req} {sp : Space} {line : Nat} (h : s.Canon) : (s.lineForLoad q sp line).1.Canon := by
  fun_cases State.lineForLoad
  · exact h
  · exact h.choose.snd.arenaLine.fst
  · exact h.choose.snd
  · exact h.choose.snd.ensure.fst.arenaLine.fst.setL1
  · exact h.choose.snd.ensure.fst

theorem loadLine {q : Req} {sp : Space} {line : Nat} (h : s.Canon) : (s.loadLine q sp line).Canon := by
  fun_cases State.loadLine
  · exact h.lineForLoad.fst.partsDone
  · exact h.lineForLoad.fst.stopReq

theorem showEarly {q : Req} (h : s.Canon) : (s.showEarly q).Canon := by
  refine setReq (h.foldl fun _ _ h => ?_)
  split
  · split
    · exact h.setL1
    · exact h
  · exact h

theorem storeLine {q : Req} {sp : Space} {line : Nat} (h : s.Canon) : (s.storeLine q sp line).Canon := by
  unfold State.storeLine
  dsimp only
  split
  · exact h.setFull.partsDone
  · exact h.tilePut.partsDone
  split
  · split
    · exact h.ensureAll.fst.homePut.setL1.partsDone
    · exact h.ensureAll.fst.homePut.partsDone
  · exact h.ensureAll.fst.stopReq

theorem advanceReq {q : Req} (h : s.Canon) : (s.advanceReq q).Canon := by
  fun_cases State.advanceReq
  case case1 | case4 => exact h.atomLane
  case case7 => exact h.finishReq
  case case9 | case10 => exact h.draw.snd.loadLine
  case case11 => exact h.draw.snd.choose.snd.showEarly
  case case12 => exact h.draw.snd.choose.snd.storeLine
  case case13 => exact h.draw.snd.storeLine
  all_goals exact h

theorem survey {q : Req} {acc : Acc} {ps : List Part} (h : s.Canon) : (State.survey q acc ps s).1.Canon := by
  induction ps generalizing s with
  | nil => exact h
  | cons p ps ih =>
    rw [State.survey]
    split
    · exact ih h
    · split
      · exact ih h
      · exact ih h.probe

theorem reportReq {q : Req} (h : s.Canon) : (s.reportReq q).Canon := by
  fun_cases State.reportReq
  case case2 | case6 => exact h.survey.fst.parkReq
  case case4 => exact h.survey.fst.setReq
  case case7 => exact h.survey.fst.frame
  all_goals exact h

theorem moveReq {q : Req} (h : s.Canon) : (s.moveReq q).Canon := by
  fun_cases State.moveReq
  · exact h
  · exact h.finishReq
  · exact h.advanceReq
  · exact h.reportReq

theorem execLoadReply {req : Nat} (h : s.Canon) : Canonical (execLoadReply req s) := by
  unfold Machine.execLoadReply
  split
  · split
    · exact h.moveReq
    · exact h.moveReq
    · exact h
  · exact h

theorem execStorePerform {src : StoreSrc} (h : s.Canon) : Canonical (execStorePerform src s) := by
  unfold Machine.execStorePerform
  split
  · split
    · split
      · exact h.moveReq
      · exact h.moveReq
      · exact h
    · exact h
  · exact h.writeAt.ite h

theorem execAtomicPerform {req : Nat} (h : s.Canon) : Canonical (execAtomicPerform req s) := by
  unfold Machine.execAtomicPerform
  split
  · split
    · exact h.moveReq
    · exact h.moveReq
    · exact h
  · exact h

theorem execL2Fill {asid line : Nat} {acc : Acc} (h : s.Canon) : Canonical (execL2Fill asid line acc s) := by
  unfold Machine.execL2Fill
  dsimp only
  split
  · exact h
  split
  · exact h
  split
  · exact h
  split
  · exact h.useEntry
  · exact h

theorem execPageWalk {asid : Nat} {va : DWord} {acc : Acc} (h : s.Canon) : Canonical (execPageWalk asid va acc s) := by
  unfold Machine.execPageWalk
  split
  · exact h.askWalk.ite h
  split
  · exact h
  split
  · exact h.frame
  split
  · exact h.frame
  · split
    · exact h
    · exact h.frame.installWalk.flushPosts
  · exact h.frame.installWalk.flushPosts

theorem execFaultRingPost (h : s.Canon) : Canonical (execFaultRingPost s) := by
  unfold Machine.execFaultRingPost
  split
  · exact h
  dsimp only
  split
  · exact h
  · exact h.physPut.frame

theorem runReq {id n : Nat} (h : s.Canon) : (State.runReq id n s).Canon := by
  induction n generalizing s with
  | zero => exact h
  | succ n ih =>
    rw [State.runReq]
    split
    · exact h
    · split
      · exact h
      · exact ih h.moveReq

theorem performList {ids : List Nat} (h : s.Canon) : (State.performList ids s).Canon := by
  induction ids generalizing s with
  | nil => exact h
  | cons id ids ih =>
    rw [State.performList]
    split
    · exact ih h
    extract_lets q1 arrival s1
    have h1 : s1.Canon := h.setReq.ite h.setReq.runReq
    split
    · exact ih h1
    · split
      · exact ih h1
      · exact h1.setReq

theorem unmoor {rid asid : Nat} (h : s.Canon) : (s.unmoor rid asid).Canon := by
  unfold State.unmoor
  extract_lets again s1
  have h1 : s1.Canon := by
    unfold s1
    cases s.raft? rid
    · exact h
    · exact h.foldl fun _ _ h => h.sendWakes
  exact h1.mapRaft.markMoored

theorem readmit {rid asid : Nat} (h : s.Canon) : (s.readmit rid asid).Canon := by
  fun_cases State.readmit
  · exact h.frame.performList
  · exact h.frame.performList.unmoor

theorem execMooredReadmit {raft : Nat} (h : s.Canon) : Canonical (execMooredReadmit raft s) := by
  unfold Machine.execMooredReadmit
  split
  · exact h
  · exact h.ite h.readmit

theorem execRrotLineWrite {req : Nat} (h : s.Canon) : Canonical (execRrotLineWrite req s) := by
  unfold Machine.execRrotLineWrite
  split
  · split
    · exact h
    split
    · exact h
    split
    · exact h.tilePut.setFull.partsDone
    · exact h
  · exact h

/-! ### Ferries (Ferry) -/

theorem failCheck {c : Ctx} {cause addr : Nat} {place : Nat × Nat} (h : s.Canon) : (c.failCheck s cause addr place).Canon := h

theorem unlessFails {c : Ctx} {checks : List (Bool × Nat × Nat × Nat × Nat)} {go : Res} (h : s.Canon) (hgo : go.Canon) :
    (c.unless s checks go).Canon := by
  fun_cases Ctx.unless
  · exact h.failCheck
  · exact hgo

theorem withOp {o : Op} {fills : List (Nat × Nat)} (h : s.Canon) : (s.withOp o fills).Canon := by
  unfold State.withOp
  extract_lets s1
  have h1 : s1.Canon := h.foldl fun _ _ h => h.setFull
  exact h1.frame

theorem enter {o : Op} {cap : Nat} {fills : List (Nat × Nat)} {after : State → State} (h : s.Canon)
    (ha : ∀ t : State, t.Canon → (after t).Canon) : (Ctx.enter s o cap fills after).Canon := by
  fun_cases Ctx.enter
  · exact ha _ h.withOp
  · exact h

theorem accept {c : Ctx} {o : Op} {cap : Nat} {fills : List (Nat × Nat)} {after : State → State} (h : s.Canon)
    (ha : ∀ t : State, t.Canon → (after t).Canon) : (c.accept s o cap fills after).Canon := h.enter ha

theorem ferryRecs {c : Ctx} {i : Instr} {d : List Word} {k : State → BRec → BRec → BRec → Res} (h : s.Canon)
    (hk : ∀ t a b r, t.Canon → (k t a b r).Canon) : (c.ferryRecs s i d k).Canon := by
  fun_cases Ctx.ferryRecs
  · exact h.failCheck
  · exact h.withRec fun _ _ h => .ite (h.withRec fun _ _ h => hk _ _ _ _ h) (hk _ _ _ _ h)
  · exact h.withRec fun _ _ h => h.withRec fun _ _ h => .ite (h.withRec fun _ _ h => hk _ _ _ _ h) (hk _ _ _ _ h)

theorem ferryIssue {i : Instr} {f : AF} (h : s.Canon) :
    Canonical (ferryIssue i f s) :=
  h.issue fun _ _ h => .ite h.failCheck (h.ferryRecs fun _ _ _ _ h => h.unlessFails (h.orElse (h.stepStreams.accept fun _ h => h)))

theorem execFcopy {f : AF} (h : s.Canon) : Canonical (execFcopy f s) := h.ferryIssue
theorem execFgather {f : AF} (h : s.Canon) : Canonical (execFgather f s) := h.ferryIssue
theorem execFscatter {f : AF} (h : s.Canon) : Canonical (execFscatter f s) := h.ferryIssue
theorem execFfill {f : AF} (h : s.Canon) : Canonical (execFfill f s) := h.ferryIssue
theorem execFqueue {f : AF} (h : s.Canon) :
    Canonical (execFqueue f s) := h.issue fun _ _ h => .ite h.failCheck (h.orElse (h.accept fun _ h => h))

theorem releaseFills {id : Nat} {fills : List (Nat × Nat)} (h : s.Canon) : (s.releaseFills id fills).Canon := by
  induction fills generalizing s with
  | nil => exact h
  | cons x xs ih =>
    obtain ⟨core, line⟩ := x
    exact ih (h.same.ite h.same.setFull)

theorem finishOp {id : Nat} (h : s.Canon) : (s.finishOp id).Canon := by
  fun_cases State.finishOp
  · exact h
  · exact h.releaseFills.dropOp.nowReady.refresh
  · exact h.releaseFills.dropOp

theorem parkOp {o : Op} (h : s.Canon) : (s.parkOp o).Canon := by
  fun_cases State.parkOp
  · cases o.raft
    · exact h.setOp
    · exact h.setOp.refresh
  · exact h.finishOp

theorem failOp {o : Op} {cause addr : Nat} {detail : List Byte} (h : s.Canon) : (s.failOp o cause addr detail).Canon := by
  fun_cases State.failOp
  · exact h.setOp.releaseFills
  · exact h.setOp.releaseFills.parkOp

theorem fqueueDone {o : Op} {x : Word} (h : s.Canon) : (s.fqueueDone o x).Canon := by
  unfold State.fqueueDone
  split
  · exact h.deliver.finishOp
  · exact h.finishOp

theorem askPeer {m : Nat} (h : s.Canon) : (s.askPeer m).1.Canon := by
  fun_cases State.askPeer
  · exact h.choose.snd.sendPeer
  · exact h

theorem dropWritten {o : Op} {va n : Nat} (h : s.Canon) : (s.dropWritten o va n).Canon := h.same
theorem suspendOp {o : Op} {va : Nat} (h : s.Canon) : (s.suspendOp o va).Canon := by
  fun_cases State.suspendOp <;> exact h.parkOp

theorem fqueueClaim {o : Op} (h : s.Canon) : (s.fqueueClaim o).Canon := by
  fun_cases State.fqueueClaim
  · exact h.askPeer.fst.failOp
  · exact h.askPeer.fst.choose.snd.fqueueDone.ite ((h.askPeer.fst.choose.snd.ite h.askPeer.fst.choose.snd.watchFor).setOp)
  · exact h.askPeer.fst.choose.snd.draw.snd.draw.snd.draw.snd.setOp
  · exact h.failOp
  · exact h.readAt.fst.fqueueDone.ite ((h.readAt.fst.ite h.readAt.fst.watchFor).setOp)
  · exact h.readAt.fst.writeAt.dropWritten.setOp
  · exact h.readAt.fst.suspendOp
  · exact h.readAt.fst.failOp
  · exact h.readAt.fst

theorem engineRead {o : Op} {sp : Space} {a n side : Nat} (h : s.Canon) : (s.engineRead o sp a n side).1.Canon := by
  fun_cases State.engineRead
  · exact h
  · exact h
  · exact h.readAt.fst

theorem writePeer {w : PeerOut} (h : s.Canon) : (s.writePeer w).Canon := h.frame.sendPeer

theorem engineWrite {o : Op} {sp : Space} {a : Nat} {bytes : List Byte} {side : Nat} {again : Bool} (h : s.Canon) :
    (s.engineWrite o sp a bytes side again).1.Canon := by
  fun_cases State.engineWrite
  · exact h
  · exact h.tilePut
  · exact h.writeAt.fst.dropWritten
  · exact h.writeAt.fst

theorem fqueueStep {o : Op} (h : s.Canon) : (s.fqueueStep o).Canon := by
  fun_cases State.fqueueStep
  case case2 => exact h.fqueueClaim
  case case3 => exact h.engineRead.fst.writePeer.setOp
  case case4 => exact h.engineRead.fst.engineWrite.fst.setOp
  case case5 => exact h.engineRead.fst.engineWrite.fst.suspendOp
  case case6 => exact h.engineRead.fst.engineWrite.fst.failOp
  case case7 => exact h.engineRead.fst.engineWrite.fst
  case case8 => exact h.engineRead.fst.suspendOp
  case case9 => exact h.engineRead.fst.failOp
  case case10 => exact h.engineRead.fst
  case case12 => exact h.writePeer.fqueueDone
  case case13 => exact h.engineWrite.fst.fqueueDone
  case case14 => exact h.engineWrite.fst.suspendOp
  case case15 => exact h.engineWrite.fst.failOp
  case case16 => exact h.engineWrite.fst
  all_goals exact h

theorem chunkDone {o : Op} (h : s.Canon) : (s.chunkDone o).Canon := by
  unfold State.chunkDone
  extract_lets n last bytes s1 s2
  have h1 : s1.Canon := by
    unfold s1
    split
    · exact h.frame
    · exact h
  exact h1.setOp.releaseFills.finishOp.ite h1.setOp.releaseFills

theorem ferryRead {o : Op} {k : Nat} {idx : Int} {side : Nat} (h : s.Canon) : (s.ferryRead o k idx side).1.Canon := by
  fun_cases State.ferryRead
  · exact h
  · exact h
  · exact h.askPeer.fst
  · exact h.askPeer.fst.draw.snd
  · exact h.engineRead.fst.engineRead.fst
  · exact h.engineRead.fst.engineRead.fst
  · exact h.engineRead.fst
  · exact h.engineRead.fst

theorem blockRead {o : Op} {k n : Nat} (h : s.Canon) : (State.blockRead o k n s).1.Canon := by
  induction n generalizing k s with
  | zero => exact h
  | succ n ih =>
    rw [State.blockRead]
    dsimp only
    split
    · exact ih h.ferryRead.fst
    · exact h.ferryRead.fst

theorem ferryWrite {o : Op} {idx : Int} {code : Nat} (h : s.Canon) : (s.ferryWrite o idx code).1.Canon := by
  fun_cases State.ferryWrite
  · exact h
  · exact h
  · exact h.askPeer.fst
  · exact h.askPeer.fst.writePeer
  · exact h.engineWrite
  · exact h.engineWrite
  · exact h.ensure.fst.engineWrite
  · exact h.ensure.fst

theorem blockWrite {o : Op} {k : Nat} {codes : List Nat} (h : s.Canon) : (State.blockWrite o k codes s).1.Canon := by
  induction codes generalizing k s with
  | nil => exact h
  | cons code codes ih =>
    rw [State.blockWrite]
    split
    · exact ih h.ferryWrite.fst
    · exact h.ferryWrite.fst

theorem ferryBlock {o : Op} {k : Nat} (h : s.Canon) : (s.ferryBlock o k).1.Canon := by
  fun_cases State.ferryBlock
  · exact h.blockRead.fst
  · exact h.blockRead.fst.engineWrite.fst.blockWrite.fst
  · have h1 := h.blockRead.fst
    have h3 := h.blockRead.fst.engineWrite.fst.blockWrite.fst
    exact ⟨h1.pmem, h1.tile, h3.empty, h1.slots⟩
  · exact h.blockRead.fst.engineWrite.fst
  · exact h.blockRead.fst

theorem ferryStop {o : Op} {k : Nat} {r : ERes} (h : s.Canon) : (s.ferryStop o k r).Canon := by
  fun_cases State.ferryStop
  · exact h.suspendOp
  · exact h.failOp
  · exact h

theorem itemIndex {o : Op} {k : Nat} (h : s.Canon) : (s.itemIndex o k).1.Canon := by
  fun_cases State.itemIndex
  · exact h
  · exact h.ferryRead.fst
  · exact h.ferryRead.fst

theorem combineRead {o : Op} {di : Int} (h : s.Canon) : (s.combineRead o di).1.Canon := by
  fun_cases State.combineRead
  case case4 => exact h.ferryRead.fst
  case case5 => exact h.readAt.fst
  all_goals exact h

theorem ferryElem {o : Op} {k : Nat} (h : s.Canon) : (s.ferryElem o k).1.Canon := by
  fun_cases State.ferryElem
  · exact h.itemIndex.fst.ferryWrite
  · exact h.itemIndex.fst.ferryRead.fst.combineRead.fst
  · exact h.itemIndex.fst.ferryRead.fst.combineRead.fst.ferryWrite
  · exact h.itemIndex.fst.ferryRead.fst.combineRead.fst
  · exact h.itemIndex.fst.ferryRead.fst.ferryWrite
  · exact h.itemIndex.fst.ferryRead.fst
  · exact h.itemIndex.fst

theorem ferryRun {o : Op} {n : Nat} (h : s.Canon) : (State.ferryRun o n s).Canon := by
  induction n generalizing o s with
  | zero => exact h.setOp
  | succ n ih =>
    rw [State.ferryRun]
    split
    · exact h.setOp
    dsimp only
    split
    · split
      · exact ih h.ferryBlock.fst
      · exact h.ferryBlock.fst.setOp.ferryStop
    · split
      · exact ih h.ferryElem.fst
      · exact h.ferryElem.fst.setOp.ferryStop

theorem execFerryChunkComplete {op : Nat} (h : s.Canon) : Canonical (execFerryChunkComplete op s) := by
  unfold Machine.execFerryChunkComplete
  split
  · exact h
  split
  · exact h
  split
  · exact h.ite h.fqueueStep
  split
  · exact h
  split
  · exact h.chunkDone.ite h
  split
  dsimp only
  split
  · exact h.chunkDone
  split
  · exact h.draw.snd.ferryRun.chunkDone.ite h.draw.snd.ferryRun
  · exact h.draw.snd.ferryRun

theorem resumeOp {o : Op} (h : s.Canon) : (s.resumeOp o).Canon := by
  fun_cases State.resumeOp
  · exact h
  · exact h
  · exact h.setOp

theorem execFerryResume {op : Nat} (h : s.Canon) : Canonical (execFerryResume op s) := by
  unfold Machine.execFerryResume
  split
  · exact h.resumeOp.ite h
  · exact h

theorem execFqueueRetry {op : Nat} (h : s.Canon) : Canonical (execFqueueRetry op s) := by
  unfold Machine.execFqueueRetry
  split
  · exact h
  split
  · cases ‹Op›.peerOf.isSome
    all_goals exact h.same.fqueueClaim.ite h.same
  · exact h

theorem execFscatterCombine {op : Nat} (h : s.Canon) : Canonical (execFscatterCombine op s) := by
  unfold Machine.execFscatterCombine
  split
  · exact h
  · exact h.ferryRun.ite h

theorem execBarrierCredit {credit : Nat} (h : s.Canon) : Canonical (execBarrierCredit credit s) := by
  unfold Machine.execBarrierCredit
  split
  · exact h
  split
  · split
    exact h.readAt.fst.writeAt.sendWakes.frame
  · exact h.readAt.fst

/-! ### Queues and launches (Scheduler) -/

theorem schedWatch {asid va : Nat} {target : Target} (h : s.Canon) : (s.schedWatch asid va target).Canon := by
  fun_cases State.schedWatch
  · exact h
  · exact h.frame

theorem headerWrite {q : Queue} {off : Nat} {bytes : List Byte} (h : s.Canon) : (s.headerWrite q off bytes).1.Canon := by
  fun_cases State.headerWrite
  · exact h.writeAt.fst.schedWatch.ite h.writeAt.fst
  · exact h.writeAt

theorem setQueue {old new : Queue} (h : s.Canon) : (s.setQueue old new).Canon := h.same

theorem postErrors {es : List ErrRec} (h : s.Canon) : (State.postErrors es s).Canon := by
  induction es generalizing s with
  | nil => rw [State.postErrors]; exact h.frame
  | cons e es ih =>
    rw [State.postErrors]
    dsimp only
    split
    · exact h.frame
    · exact ih h.physPut.frame

theorem postError {e : ErrRec} (h : s.Canon) : (s.postError e).Canon := h.postErrors
theorem unwatch {target : Target} (h : s.Canon) : (s.unwatch target).Canon := h.same
theorem headerBarred {q : Queue} (h : s.Canon) : (s.headerBarred q).Canon := h.unwatch.setQueue.postError

theorem showQueue {q : Queue} (h : s.Canon) : (s.showQueue q).Canon := by
  fun_cases State.showQueue
  · exact (h.readAt.fst.headerWrite.headerWrite.ite h.readAt.fst.headerWrite).setQueue
  · exact h.readAt.fst.setQueue
  · exact h.readAt.fst.headerBarred
  · exact h.readAt.fst
  · exact h.readAt.fst.setQueue
  · exact h.readAt.fst

theorem moveQueue {old new : Queue} (h : s.Canon) : (s.moveQueue old new).Canon := (h.ite h.unwatch).setQueue.showQueue

theorem unpage (h : s.Canon) : s.unpage.Canon :=
  h.foldl fun _ _ h => by
    split
    · split
      · exact h
      · exact h.moveQueue
    · exact h

theorem rangeList {asid va n : Nat} (h : s.Canon) : (State.rangeList asid va n s).1.Canon := by
  induction n generalizing va s with
  | zero => exact h
  | succ n ih =>
    rw [State.rangeList]
    split
    · dsimp only
      split
      · exact h.readAt.fst
      · exact ih h.readAt.fst
    · exact h.readAt.fst

theorem startTeam {l : Launch} {linear : Nat} {place : List (Nat × Nat)} {group : Option Nat} (h : s.Canon) :
    (s.startTeam l linear place group).Canon :=
  ⟨h.pmem, foldl_wf (fun _ _ => sclear_wf _ _) h.tile, foldl_wf (fun _ _ => sclear_wf _ _) h.empty, h.slots⟩

theorem dispatchNext {l : Launch} {place : List (Nat × Nat)} (h : s.Canon) : (s.dispatchNext l place).Canon := by
  unfold State.dispatchNext
  extract_lets n s1 s2
  have h1 : s1.Canon := .ite (h.foldl fun _ _ h => h.startTeam) h.startTeam
  clear_value s1
  have h2 : s2.Canon := .ite h1.frame h1
  exact h2.setLaunch

theorem execTeamDispatch {launch : Nat} (h : s.Canon) : Canonical (execTeamDispatch launch s) := by
  unfold Machine.execTeamDispatch
  split
  · exact h
  split
  · exact h
  split
  · exact h
  · exact h.dispatchNext

theorem qtStatus {st op index : Nat} {busy : Bool} (h : s.Canon) : (s.qtStatus st op index busy).Canon := by
  unfold State.qtStatus
  exact h.frame

theorem execQtEnable {index : BitVec 16} (h : s.Canon) : Canonical (execQtEnable index s) := by
  unfold Machine.execQtEnable
  extract_lets i
  refine ite h (ite h.qtStatus ?_)
  split
  · exact h.qtStatus
  refine ite h.qtStatus ?_
  extract_lets older kept q s1
  have h1 : s1.Canon := h.frame
  clear_value s1
  exact h1.showQueue.schedWatch.qtStatus

theorem untell {target : Target} (h : s.Canon) : (s.untell target).Canon := h.same

theorem execQtDisable {index : BitVec 16} (h : s.Canon) : Canonical (execQtDisable index s) := by
  unfold Machine.execQtDisable
  split
  · exact h
  dsimp only
  split
  · exact h.qtStatus
  · exact h.untell.moveQueue.qtStatus

theorem settleQueue {index : Nat} (h : s.Canon) : (s.settleQueue index).Canon := by
  fun_cases State.settleQueue
  · exact h
  · exact h.moveQueue
  · exact h.moveQueue
  · exact h

theorem queueError {old new : Queue} {cause : Nat} {errSeq expSeq : Word} (h : s.Canon) :
    (s.queueError old new cause errSeq expSeq).Canon := h.moveQueue

theorem queueStop {q : Queue} {v : Verdict} {va : Nat} {header : Bool} {seq : Word} (h : s.Canon) :
    (s.queueStop q v va header seq).Canon := by
  fun_cases State.queueStop
  case case2 => exact h.moveQueue
  case case4 => exact h.headerBarred
  case case6 => exact h.queueError
  all_goals exact h

theorem execPacketConsume {queue : Nat} (h : s.Canon) : Canonical (execPacketConsume queue s) := by
  unfold Machine.execPacketConsume
  split
  · exact h
  refine ite h ?_
  split
  · extract_lets i consumed va
    split
    · extract_lets seq p0 st p q1 done q2
      have h2 := h.readAt.fst.readAt.fst
      exact ite h.settleQueue (ite h2.queueError (ite h2.queueError h2.headerWrite.headerWrite.setQueue))
    · exact h.readAt.fst.readAt.fst.queueStop
  · exact h.readAt.fst.queueStop

theorem readHeader {q : Queue} {fired : Bool} (h : s.Canon) : (s.readHeader q fired).Canon := by
  unfold State.readHeader
  split
  · extract_lets resume
    have h1 : (if resume then State.headerWrite _ q 0x1C (toBytes 4 0) else (_, .ok)).1.Canon :=
      fst_ite h.readAt.fst.headerWrite h.readAt.fst
    split
    · extract_lets s3
      have h3 : s3.Canon := .ite h1.fst.schedWatch h1.fst
      exact .ite (.ite h3 (.ite h3.queueError h3.moveQueue)) (.ite h3.queueError (.ite h3.moveQueue h3))
    · exact h1.fst.queueStop
  · exact h.readAt.fst.queueStop

theorem execQueueResume {queue : Nat} (h : s.Canon) : Canonical (execQueueResume queue s) := by
  unfold Machine.execQueueResume
  split
  · exact h
  · exact h.ite h.untell.setQueue.readHeader

theorem someQueue {index : Nat} {p : Queue → Bool} (h : s.Canon) : (s.someQueue index p).1.Canon := by
  fun_cases State.someQueue
  · exact h
  · exact h
  · exact h.draw.snd

theorem execReadIntervalRead {queue : Nat} (h : s.Canon) : Canonical (execReadIntervalRead queue s) := by
  unfold Machine.execReadIntervalRead
  split
  · exact h
  have h1 := h.someQueue.fst
  refine ite h1.showQueue (ite h1 ?_)
  extract_lets q1 s1
  have h2 : s1.Canon := h1.setQueue.readHeader
  clear_value s1
  split
  · split
    · dsimp only
      split
      · exact ite h2.readAt.fst.readAt.fst.moveQueue h2.readAt.fst.readAt.fst
      · exact h2.readAt.fst.readAt.fst.queueStop
    · exact h2.readAt.fst.queueStop
  · exact h2

theorem execQueueMap (h : s.Canon) : Canonical (execQueueMap s) := by
  unfold Machine.execQueueMap
  split
  · exact h
  split
  · exact h
  · exact h.moveQueue

theorem execQuantumExpiry {queue : Nat} (h : s.Canon) : Canonical (execQuantumExpiry queue s) := by
  unfold Machine.execQuantumExpiry
  split
  · exact h
  split
  · split
    · exact h.moveQueue
    · exact h.setQueue
  · exact h

theorem tryLaunch {q : Queue} {p : Packet} (h : s.Canon) : (s.tryLaunch q p).Canon := by
  unfold State.tryLaunch
  split
  · have h1 := h.rangeList.fst
    split
    · exact h1
    split
    · extract_lets k l
      have h2 := h1.readAt.fst
      split
      · exact h2
      split
      · exact h2
      split
      · exact h2
      split
      · trivial
      · exact h2
    · exact h1.readAt.fst
    · trivial
    · exact h1.readAt.fst
  · exact h.rangeList.fst
  · trivial
  · exact h.rangeList.fst

theorem execLaunchStart {queue : Nat} (h : s.Canon) : Canonical (execLaunchStart queue s) := by
  unfold Machine.execLaunchStart
  have ht {q p} := h.tryLaunch (q := q) (p := p)
  split
  · exact h
  split
  · exact h
  split
  · exact h
  split
  · exact h
  · exact (ht.fails ‹_›).setQueue.settleQueue
  · exact (ht.stops ‹_›).queueStop
  split
  · exact h
  · exact (ht.starts ‹_›).frame.setQueue.dispatchNext.settleQueue

theorem execCopyStart {queue : Nat} (h : s.Canon) : Canonical (execCopyStart queue s) := by
  unfold Machine.execCopyStart
  split
  · exact h
  split
  · exact h
  split
  · exact h
  dsimp only
  split
  · exact h
  · exact h.ite h.frame.setQueue.settleQueue

theorem endPacket {q : Queue} {seq : Word} {status : Nat} (h : s.Canon) : (s.endPacket q seq status).Canon := h.setQueue.settleQueue

theorem endWait {q : Queue} {seq : Word} {status : Nat} (h : s.Canon) : (s.endWait q seq status).Canon := by
  fun_cases State.endWait
  · exact h.moveQueue
  · exact h.endPacket

theorem semRead {q : Queue} {p : Packet} (h : s.Canon) : (s.semRead q p).Canon := by
  fun_cases State.semRead
  · exact h.readAt.fst.endWait
  · exact h.readAt.fst.schedWatch.moveQueue
  · exact h.readAt.fst.schedWatch.setQueue
  · exact h.readAt.fst.endWait
  · exact h.readAt.fst.queueStop

theorem execSemwait {queue : Nat} (h : s.Canon) : Canonical (execSemwait queue s) := by
  unfold Machine.execSemwait
  split
  · exact h
  split
  · exact h
  · exact h.semRead

theorem execSemaphoreReread {queue : Nat} (h : s.Canon) : Canonical (execSemaphoreReread queue s) :=
  h.untell.foldl fun _ _ h => by
    split
    · exact h.semRead
    · exact h

theorem execPassPacket {queue : Nat} (h : s.Canon) : Canonical (execPassPacket queue s) := by
  unfold Machine.execPassPacket
  split
  · exact h
  split
  · exact h
  · exact h.someQueue.fst.endPacket.ite (h.someQueue.fst.setQueue.settleQueue.ite h.someQueue.fst)

theorem signalStep {queue opc : Nat} {perform : Packet → State → Nat → State × Verdict} (h : s.Canon)
    (hperform : ∀ p t asid, t.Canon → (perform p t asid).1.Canon) : (s.signalStep queue opc perform).Canon := by
  fun_cases State.signalStep
  · exact h
  · exact h
  · exact (hperform _ _ _ h.someQueue.fst).fst.endPacket
  · exact (hperform _ _ _ h.someQueue.fst).fst.endPacket
  · exact (hperform _ _ _ h.someQueue.fst).fst.queueStop
  · exact h.someQueue.fst.setQueue.settleQueue
  · exact h.someQueue.fst

theorem tellWaiters {asid va : Nat} (h : s.Canon) : (s.tellWaiters asid va).Canon := h.same

theorem execSemsignal {queue : Nat} (h : s.Canon) : Canonical (execSemsignal queue s) :=
  h.signalStep fun _ _ _ h => by
    dsimp only
    split
    · exact h.readAt.fst.writeAt.tellWaiters
    · exact h.readAt.fst

theorem execMarker {queue : Nat} (h : s.Canon) : Canonical (execMarker queue s) :=
  h.signalStep fun _ _ _ h => by
    split
    · exact h
    · exact h.writeAt

theorem qtSettle (h : s.Canon) : s.qtSettle.Canon := by
  fun_cases State.qtSettle
  · exact h.frame
  · exact h

theorem advance {q : Queue} (h : s.Canon) : (s.advance q).Canon := by
  fun_cases State.advance
  · exact h.settleQueue
  · exact h.readAt.fst.headerWrite.frame.ite h.readAt.fst.headerWrite.setQueue.settleQueue
  · exact h.readAt.fst.frame.ite h.readAt.fst.setQueue.settleQueue
  · exact h.readAt.fst.queueStop

theorem recordStop {q : Queue} {seq : Word} {v : Verdict} {va : Nat} (h : s.Canon) :
    (s.recordStop q seq v va).Canon := h.setQueue.queueStop.qtSettle

theorem recordHigh {q : Queue} {p : Packet} {status : Nat} {detail : Word} (h : s.Canon) : (s.recordHigh q p status detail).Canon := by
  fun_cases State.recordHigh
  · exact h.writeAt.fst.frame.setQueue.settleQueue
  · exact h.writeAt.fst.recordStop

theorem recordLow {q : Queue} {p : Packet} (h : s.Canon) : (s.recordLow q p).Canon := by
  fun_cases State.recordLow
  · exact h.writeAt.fst.setQueue.advance.qtSettle
  · exact h.writeAt.fst.recordStop

theorem execPacketComplete {queue : Nat} {seq : Word} (h : s.Canon) : Canonical (execPacketComplete queue seq s) := by
  unfold Machine.execPacketComplete
  split
  · exact h
  split
  · exact h
  split
  · exact h.someQueue.fst.advance.qtSettle
  split
  · exact h
  · exact h.someQueue.fst.recordHigh.ite h.someQueue.fst.recordLow

theorem execHeaderWatch {queue : Nat} (h : s.Canon) : Canonical (execHeaderWatch queue s) := by
  unfold Machine.execHeaderWatch
  split
  · exact h
  dsimp only
  split
  · exact h.untell
  · exact h.untell.readHeader

/-! ### Stowing, the debug port and what crosses dies (Stow, Debug, Crossings) -/

theorem migrateTo {c : Ctx} {die : Nat} (h : s.Canon) : (migrateTo c s die).Canon := by
  fun_cases Machine.migrateTo <;> exact h
theorem execMigrate {f : CF} (h : s.Canon) : Canonical (execMigrate f s) := h.issue fun _ _ h => .ite trivial h.migrateTo
theorem execMigrateHome {f : CF} (h : s.Canon) : Canonical (execMigrateHome f s) := h.issue fun _ _ h => h.migrateTo
theorem pastSlot {c : Ctx} (h : s.Canon) : (s.pastSlot c).Canon := h.mapRaft.unrun
theorem trapAfter {c : Ctx} {cause : Nat} {imm : BitVec 24} (h : s.Canon) : (trapAfter s c cause imm).Canon := h.pastSlot.takeTrap
theorem execTrapi {f : CF} (h : s.Canon) : Canonical (execTrapi f s) := h.issue fun _ _ h => h.trapAfter
theorem execBkpt {f : CF} (h : s.Canon) :
    Canonical (execBkpt f s) := h.issue fun _ _ h => .ite h.trapAfter h.report.pastSlot.stopTeam.settleStop

theorem execCsrr {f : CF} (h : s.Canon) : Canonical (execCsrr f s) :=
  h.issue fun _ _ h => by
    split
    · exact trivial
    · exact .ite trivial h.put

theorem putDieCounter {die ctr : Nat} {x : BitVec 48} (h : s.Canon) : (s.putDieCounter die ctr x).Canon := h.same

theorem csrPut {core num x : Nat} (h : s.Canon) : (s.csrPut core num x).Canon := by
  fun_cases State.csrPut
  case case9 | case18 => exact h
  case case17 => exact h.putDieCounter
  all_goals exact h.frame

theorem execCsrw {f : CF} (h : s.Canon) : Canonical (execCsrw f s) :=
  h.issue fun _ _ h => by
    dsimp only
    split
    · exact trivial
    · exact .ite trivial h.csrPut

theorem debugDone {c : Ctx} {f : CF} {status : Nat} (h : s.Canon) : (c.debugDone s f status).Canon := h.acquireDrop.put

theorem debugIssue {i : Instr} {f : CF} {policies : List Nat} {stowedToo : Bool} {work : State → Ctx → Nat → Team → Raft → Res}
    (h : s.Canon) (hwork : ∀ t c tref tm r, t.Canon → (work t c tref tm r).Canon) :
    Canonical (debugIssue i f policies stowedToo s work) :=
  h.issue fun _ _ h => by
    split
    · split
      · exact h
      · exact h.frame.debugDone
    refine h.orElse (.ite h.debugDone ?_)
    split
    · exact h.debugDone
    · exact .ite h.debugDone (.ite h.debugDone (.ite h.debugDone (hwork _ _ _ _ _ h)))

theorem beginDebug {c : Ctx} {kind team : Nat} {target : Option Nat} {effect : State → State} (h : s.Canon)
    (heffect : ∀ t, t.Canon → (effect t).Canon) : (s.beginDebug c kind team target effect).Canon := (heffect _ h.frame).conclude
theorem execDbghalt {f : CF} (h : s.Canon) :
    Canonical (execDbghalt f s) := h.debugIssue fun _ _ _ _ _ h => h.beginDebug fun _ h => h.stopTeam.ite h.stopRaft

theorem execDbgres {f : CF} (h : s.Canon) :
    Canonical (execDbgres f s) :=
  h.debugIssue fun _ _ _ _ _ h => .ite h.debugDone (((h.foldl fun _ _ h => h.resumeRaft).ite h.resumeRaft).debugDone)

theorem letStep {t : Team} {r : Raft} {e : Nat} {en : Entry} (h : s.Canon) : (s.letStep t r e en).Canon := h.mapTeam.mapRaft.settleStop

theorem execDbgstep {f : CF} (h : s.Canon) : Canonical (execDbgstep f s) :=
  h.debugIssue fun _ _ _ _ _ h => by
    split
    · exact h.debugDone
    split
    · exact h.debugDone
    split
    · exact h.report.debugDone
    · exact h.beginDebug fun _ h => h.letStep

theorem execDbgrd {f : CF} (h : s.Canon) : Canonical (execDbgrd f s) :=
  h.debugIssue fun _ _ _ _ _ h => by
    dsimp only
    split
    · exact h.debugDone
    split
    · exact h.debugDone
    · exact h.put.debugDone

theorem writePc {r : Raft} {e : Nat} {en : Entry} {pc : DWord} (h : s.Canon) : (s.writePc r e en pc).Canon := by
  unfold State.writePc
  exact h.mapEntry.markMoored.frame

theorem selWrite {tm : Team} {r : Raft} {sel : Nat} {x : DWord} (h : s.Canon)
    (g : s.selWrite tm r sel x = some t := by with_reducible assumption) : t.Canon := by
  unfold State.selWrite at g
  split at g
  · cases g; exact h.mapRaft
  · cases g; exact h.mapRaft
  · cases g; exact h.mapRaft
  · split at g
    · cases g
    · obtain ⟨en, -, rfl⟩ := Option.map_eq_some_iff.1 g
      exact h.writePc
  · cases g; exact h.mapTeam
  · obtain ⟨p, -, rfl⟩ := Option.map_eq_some_iff.1 g
    exact h.tilePut
  · cases g

theorem execDbgwr {f : CF} (h : s.Canon) : Canonical (execDbgwr f s) :=
  h.debugIssue fun _ _ _ _ _ h => by
    dsimp only
    split
    · exact h.debugDone
    split
    · exact h.debugDone
    · exact h.selWrite.debugDone

theorem setPoint {core n : Nat} {p : WatchPoint} (h : s.Canon) : (s.setPoint core n p).Canon := h.same
theorem execWatch {f : CF} (h : s.Canon) :
    Canonical (execWatch f s) := h.issue fun _ _ h => h.orElse (.ite h.debugDone h.setPoint.debugDone)
theorem execKill {f : CF} (h : s.Canon) :
    Canonical (execKill f s) := h.debugIssue fun _ _ _ _ _ h => h.beginDebug fun _ h => h.mapTeam.stopTeam.settleTeam

theorem execMbox {f : CF} (h : s.Canon) : Canonical (execMbox f s) :=
  h.issue fun _ _ h => by
    dsimp only
    split
    · exact trivial
    split
    · exact trivial
    split
    · exact h.orElse h.postMail.fst
    · exact h.orElse h.postMail.fst.put

theorem unstow {g : List Team} (h : s.Canon) : (s.unstow g).Canon := by
  unfold State.unstow
  exact h.frame.foldl fun _ _ h => h.mapTeamRafts.setTeam

theorem clearFrame {lo n : Nat} (h : s.Canon) : Canon { s with pmem := sclear s.pmem lo n } :=
  ⟨sclear_wf _ _ h.pmem, h.tile, h.empty, h.slots⟩

theorem writeFrame {tm : Team} {st : Stow} {i member : Nat} {slots : List Nat} (h : s.Canon) :
    (s.writeFrame tm st i member slots).Canon := by
  unfold State.writeFrame
  extract_lets at_ core base rafts s0 s1 s2 s3 s4 s5
  have h3 : s3.Canon := h.clearFrame.physPut.physPut.foldl fun _ _ h => h.saveRaft
  clear_value s3
  have h5 : s5.Canon := .ite h3.physPut.physPut h3.physPut
  exact h5.physPut

theorem follow {t : Team} {ms : List Move} {ts : List (Nat × Nat)} (h : s.Canon) : (s.follow t ms ts).Canon := h.same
theorem moveGrants {team : Nat} {ts : List (Nat × Nat)} (h : s.Canon) : (s.moveGrants team ts).Canon := h.same

theorem stowTeam {tm : Team} {reason : Nat} {mine slots : List Nat} (h : s.Canon) : (s.stowTeam tm reason mine slots).Canon := by
  unfold State.stowTeam
  split
  exact (h.draw.snd.mapTeamRafts.frame.foldl fun _ _ h => h.writeFrame).follow.moveGrants.mapTeamRafts.setTeam

theorem goOnStow {t : Team} (h : s.Canon) : (s.goOnStow t).Canon := by
  unfold State.goOnStow
  split
  · exact h
  extract_lets g rafts failed slots s1
  have h1 : s1.Canon := foldl_fst h fun _ _ h => h.stowTeam
  clear_value s1
  exact .ite h.unstow (.ite h (.ite h.frame.unstow.mapTeam h1.frame))

theorem beginStow {t : Team} {reason : Nat} (h : s.Canon) : (s.beginStow t reason).Canon := by
  fun_cases State.beginStow
  · exact h
  · exact h.frame.setTeam
  · exact (h.foldl fun _ _ h => h.setTeam).stopGroup

theorem stowFor {t : Team} {reason : Nat} (h : s.Canon) : (s.stowFor t reason).Canon := by
  fun_cases State.stowFor
  · exact h.goOnStow
  · exact h
  · exact h
  · exact h.beginStow

theorem execMoorLimitExpiry {raft : Nat} (h : s.Canon) : Canonical (execMoorLimitExpiry raft s) := by
  unfold Machine.execMoorLimitExpiry
  split
  · exact h
  split
  · exact h.stowFor.ite h
  · exact h

theorem execStowDelayExpiry {team : Nat} (h : s.Canon) : Canonical (execStowDelayExpiry team s) := by
  unfold Machine.execStowDelayExpiry
  split
  · exact h.stowFor
  · exact h

theorem execStowRetry {team : Nat} (h : s.Canon) : Canonical (execStowRetry team s) := by
  unfold Machine.execStowRetry
  split
  · exact h
  split
  · exact h.goOnStow.ite h
  · exact h.setTeam.ite (h.beginStow.ite h)

theorem loadTeam {tm : Team} {st : Stow} {place : List (Nat × Nat)} (h : s.Canon) : (s.loadTeam tm st place).Canon := by
  unfold State.loadTeam
  extract_lets n s1 ts s2 cores coreOf mine s3
  have h1 : s1.Canon := h.foldl fun _ _ h => ⟨h.pmem, ssets_wf _ _ h.tile, ssets_wf _ _ h.empty, h.slots⟩
  clear_value s1
  have h2 : s2.Canon := h1.follow
  clear_value s2
  have h3 : s3.Canon := h2.frame
  exact h3.mapTeamRafts.moveGrants.setTeam

theorem setWaiter {asid va core : Nat} (h : s.Canon) : (s.setWaiter asid va core).Canon := by
  fun_cases State.setWaiter
  · exact h.readAt.fst.writeAt
  · exact h.readAt.fst

theorem remake {t : Team} {r : Raft} {e : Nat} {en : Entry} (h : s.Canon) : (s.remake t r e en).Canon := by
  fun_cases State.remake
  · exact (h.sendWakes.ite h).rereadBarrier.setWaiter
  · exact (h.sendWakes.ite h).rereadBarrier
  · exact (h.sendWakes.ite h).rereadBarrier
  · exact h
  · exact h.rereadWord
  · exact h.mapEntry
  · exact h.mapEntry
  · exact h

theorem remakeAll {t : Team} (h : s.Canon) : (s.remakeAll t).Canon := h.foldl fun _ _ h => (h.foldl fun _ _ h => h.remake)
theorem rereadAll {t : Team} (h : s.Canon) : (s.rereadAll t).Canon := h.foldl fun _ _ h => (h.ite (h.foldl fun _ _ h => h.rereadWord))

theorem execRestore {team : Nat} (h : s.Canon) : Canonical (execRestore team s) := by
  unfold Machine.execRestore
  split
  · exact h
  extract_lets g rafts die
  refine ite h ?_
  split
  · exact h
  extract_lets s1 s2 s3
  have h1 : s1.Canon := h.foldl fun _ (_, _) h => by
    dsimp only
    split
    · exact h.loadTeam
    · exact h
  clear_value s1
  have h2 : s2.Canon := h1.foldl fun _ _ h => .ite h.remakeAll h
  clear_value s2
  have h3 : s3.Canon := (h2.foldl fun _ _ h => h.readmit).foldl fun _ _ h => .ite h.rereadAll h
  exact h3.frame

theorem ship {r : Raft} {e asid : Nat} {landed : Option Nat} (h : s.Canon) :
    (s.ship r e asid landed).Canon := h.setRaft.acquireDrop.passWait
theorem awaitLanding {r : Raft} {e die : Nat} (h : s.Canon) : (s.awaitLanding r e die).Canon := h.same

theorem execMigrateLand {raft : Nat} (h : s.Canon) : Canonical (execMigrateLand raft s) := by
  unfold Machine.execMigrateLand
  split
  · exact h
  split
  · refine ite h ?_
    split
    · exact h
    · exact h.moorIn
    · split
      · exact h.raiseAt
      · exact h
    · split
      · exact h.frame.ship
      · exact h.awaitLanding
    refine ite h ?_
    split
    · exact h
    · exact h.ship
  · exact h

theorem reserve {q : Queue} {p : Packet} (h : s.Canon) : (s.reserve q p).Canon := h.same

theorem execSpatialPreemption {queue : Nat} (h : s.Canon) : Canonical (execSpatialPreemption queue s) := by
  unfold Machine.execSpatialPreemption
  split
  · exact h
  split
  · exact h
  refine ite h ?_
  split
  · extract_lets s1
    have h1 : s1.Canon := h.foldl fun _ _ h => by
      split
      · exact h.goOnStow
      · exact h
    exact h1.reserve
  split
  · exact h
  refine ite h ?_
  extract_lets s1
  have h1 : s1.Canon := h.frame
  clear_value s1
  exact (h1.foldl fun _ _ h => (h.foldl fun _ _ h => h.mapTeam).stopGroup).reserve

theorem execFlitReceive {link : LinkDir} {flit : Flit} (h : s.Canon) :
    Canonical (execFlitReceive link flit s) := h.ite (h.frame.handOver.ite h.frame)
theorem terminate {tid cause : Nat} (h : s.Canon) : (s.terminate tid cause).Canon := h.mapTeam.stopTeam.settleTeam
theorem terminateAll {p : Team → Bool} (h : s.Canon) : (s.terminateAll p).Canon := h.foldl fun _ _ h => h.terminate
theorem dieDown {die pa : Nat} (h : s.Canon) : (s.dieDown die pa).Canon := h.frame.terminateAll.postError
theorem execFlitReplay {link : LinkDir} (h : s.Canon) : Canonical (execFlitReplay link s) := h.ite (h.frame.dieDown.ite h.frame)
theorem execPeerFrame {frame : PeerFrame} (h : s.Canon) :
    Canonical (execPeerFrame frame s) := h.ite (h.foldl fun _ _ h => (h.ite h.frame.flushPeer))

theorem execPeerAccess {module srcAsid : Nat} {req : PeerReq} (h : s.Canon) : Canonical (execPeerAccess module srcAsid req s) := by
  unfold Machine.execPeerAccess
  extract_lets answer refused
  have ha {s st b} (h : s.Canon) : (answer s st b).Canon := h.replyPeer
  have hr {s v} (h : s.Canon) : (refused s v).Canon := by
    unfold refused
    split
    · exact ha h
    · exact h
  split
  · exact ha h
  split
  · refine ite (ha h) ?_
    split
    · exact ha h.readAt.fst
    · exact hr h.readAt.fst
  · refine ite (ha h) ?_
    split
    · exact ha h.writeAt.fst
    · exact hr h.writeAt.fst
  split
  · exact ha h
  split
  · split
    · exact ha h.readAt.fst.watchFor
    · exact ha h.readAt.fst.writeAt
  · exact hr h.readAt.fst

theorem carry {before : State} (h : s.Canon) : (s.carry before).Canon := canon_iff.2 ((memOk_carry ..).trans (canon_iff.1 h))

/-! ### Banks, the swap engine and the vector shapes (Banks, Vector) -/

theorem laneWrite {i : Instr} {d : RegNum} {val : State → Ctx → Nat → List Word} (h : s.Canon) :
    Canonical (laneWrite i s d val) := h.issue fun _ _ h => h.put
theorem lanePred {i : Instr} {d : RegNum} {val : State → Ctx → Nat → Bool} (h : s.Canon) :
    Canonical (lanePred i s d val) := h.issue fun _ _ h => h.putP
theorem execCvt {f : V3} (h : s.Canon) : Canonical (execCvt f s) := h.issue fun _ _ h => h.put.mapRaft.ite h.put
theorem collWrite {i : Instr} {d : RegNum} {val : State → Ctx → List Word} (h : s.Canon) :
    Canonical (collWrite i s d val) := h.issue fun _ _ h => h.mapRaft

theorem execVote {f : V3} (h : s.Canon) : Canonical (execVote f s) := by
  fun_cases Machine.execVote
  · exact h.lanePred
  · exact h.collWrite

theorem execPlop {f : V3} (h : s.Canon) : Canonical (execPlop f s) := by
  fun_cases Machine.execPlop
  · exact h.laneWrite
  · exact h.lanePred

theorem execLane {f : V3} (h : s.Canon) : Canonical (execLane f s) := by
  fun_cases Machine.execLane
  · exact h.laneWrite
  · exact h.collWrite

theorem execPblk {f : PB} (h : s.Canon) : Canonical (execPblk f s) := h.issue fun _ _ h => h.mapEntry

theorem execLathe {f : AF} (h : s.Canon) : Canonical (execLathe f s) :=
  h.issue fun _ _ h => by
    extract_lets d alpha
    split
    · trivial
    · exact h.accept fun _ h => h

theorem dropTranslations {asid lo n : Nat} {glob : Bool} (h : s.Canon) : (s.dropTranslations asid lo n glob).Canon := by
  unfold State.dropTranslations
  exact h.rewalk.frame

theorem evictAll {ls : List L2Line} (h : s.Canon) : (s.evictAll ls).Canon := h.foldl fun _ _ h => h.evict
theorem invalidate {asid lo n : Nat} (h : s.Canon) : (s.invalidate asid lo n).Canon := h.frame.evictAll

theorem tlbinvIssue {i : Instr} {f : CF} {fn : Nat} (h : s.Canon) :
    Canonical (tlbinvIssue i f fn s) :=
  h.issue fun _ _ h => .ite trivial (h.orElse (.ite h.acquireDrop
    (.ite h.frame.dropTranslations.unpage.flushPosts.acquireDrop
      (.ite h (h.frame.ite h).invalidate.dropTranslations.unpage.acquireDrop))))

theorem execTlbinv {f : CF} (h : s.Canon) : Canonical (execTlbinv f s) := h.tlbinvIssue
theorem execTlbinvHold {f : CF} (h : s.Canon) : Canonical (execTlbinvHold f s) := h.tlbinvIssue
theorem execTlbinvFree {f : CF} (h : s.Canon) : Canonical (execTlbinvFree f s) := h.tlbinvIssue

theorem latheReads {o : Op} {i n : Nat} (h : s.Canon) : (State.latheReads o i n s).1.Canon := by
  induction n generalizing i s with
  | zero => exact h
  | succ n ih =>
    rw [State.latheReads]
    split
    · exact ih h.engineRead.fst
    · exact h.engineRead.fst

theorem latheElems {o : Op} {m : Sparse 8} {first n : Nat} (h : s.Canon) : (State.latheElems o m first n s).Canon := by
  induction n with
  | zero => exact h
  | succ n ih =>
    rw [State.latheElems]
    exact ih.engineWrite

theorem latheStop {o : Op} {i : Nat} {r : ERes} (h : s.Canon) : (s.latheStop o i r).Canon := by
  fun_cases State.latheStop
  · exact h.suspendOp
  · exact h.failOp
  · exact h

theorem latheLine {o : Op} (h : s.Canon) : (s.latheLine o).Canon := by
  fun_cases State.latheLine
  · exact h.latheReads.fst.ensure.fst.latheElems.setOp.finishOp
  · exact h.latheReads.fst.ensure.fst.latheElems.setOp
  · exact h.latheReads.fst.ensure.fst.latheStop
  · exact h.latheReads.fst.latheStop

theorem execLatheElement {op : Nat} (h : s.Canon) : Canonical (execLatheElement op s) := by
  unfold Machine.execLatheElement
  split
  · exact h
  · exact h.ite h.latheLine

theorem execLatheResume {op : Nat} (h : s.Canon) : Canonical (execLatheResume op s) := by
  unfold Machine.execLatheResume
  split
  · exact h.resumeOp.ite h
  · exact h

theorem execSwapStart {die : Nat} (h : s.Canon) : Canonical (execSwapStart die s) := by
  unfold Machine.execSwapStart
  refine ite h ?_
  split
  · exact h
  refine ite h ⟨h.pmem, h.tile, h.empty, fun e he => ?_⟩
  rcases List.mem_append.1 he with he | he
  · exact h.slots e he
  · rw [List.mem_singleton.1 he]
    exact ⟨rfl, rfl⟩

theorem setExchange {e : Exchange} (h : s.Canon) (he : Sparse.wf e.slotN ∧ Sparse.wf e.slotF) : (s.setExchange e).Canon := by
  refine ⟨h.pmem, h.tile, h.empty, fun x hx => ?_⟩
  obtain ⟨y, hy, rfl⟩ := List.mem_map.1 hx
  split
  · exact he
  · exact h.slots y hy

theorem slots_of_find {p : Exchange → Bool} {e : Exchange} (h : s.Canon) (g : s.exchanges.find? p = some e) :
    Sparse.wf e.slotN ∧ Sparse.wf e.slotF := h.slots e (List.mem_of_find?_eq_some g)

theorem execSwapPieceCopy {die : Nat} (h : s.Canon) : Canonical (execSwapPieceCopy die s) := by
  unfold Machine.execSwapPieceCopy
  split
  · exact h
  next e he =>
    obtain ⟨hn, hf⟩ := h.slots_of_find he
    refine ite h (h.setExchange ?_)
    dsimp only
    exact ⟨ssets_wf _ _ hn, ssets_wf _ _ hf⟩

theorem rawPut {pa : Nat} {bytes : List Byte} (h : s.Canon) : (s.rawPut pa bytes).Canon :=
  ⟨ssets_wf _ _ h.pmem, h.tile, h.empty, h.slots⟩

theorem execSwapPieceWrite {die : Nat} (h : s.Canon) : Canonical (execSwapPieceWrite die s) := by
  unfold Machine.execSwapPieceWrite
  split
  · exact h
  next e he =>
    have hslots := h.slots_of_find he
    refine ite h ?_
    split
    · exact h
    · exact h.rawPut.rawPut.setExchange hslots

theorem retag {pteAt : Nat} {pte : DWord} (h : s.Canon) : (s.retag pteAt pte).Canon := h.same
theorem filterExchanges {p : Exchange → Bool} (h : s.Canon) : Canon { s with exchanges := s.exchanges.filter p } :=
  ⟨h.pmem, h.tile, h.empty, fun e he => h.slots e (List.mem_filter.1 he).1⟩

theorem execSwapSwitch {die : Nat} (h : s.Canon) : Canonical (execSwapSwitch die s) := by
  unfold Machine.execSwapSwitch
  split
  · exact h
  · exact ite h (ite h.rawPut.rawPut.filterExchanges h.filterExchanges.rewalk.setPhys64.setPhys64.retag.retag)

theorem htRun {op : BitVec 2} {run : State → DWord → State} (h : s.Canon) (hrun : ∀ t e, t.Canon → (run t e).Canon) :
    Canonical (s.htRun op run) := by
  unfold State.htRun
  split
  · exact ite (hrun _ _ h.frame) h
  · exact h

theorem rehome {asid region : Nat} {edit : List HomeEntry → List HomeEntry} (h : s.Canon) :
    (s.rehome asid region edit).Canon := h.evictAll.frame.foldl fun _ _ h => h.fire

theorem execHtSet (h : s.Canon) : Canonical (execHtSet s) :=
  h.htRun fun _ _ h => by
    dsimp only
    split
    · exact h.frame
    · split <;> exact h.frame.ite h.rehome.frame

theorem execHtRemove (h : s.Canon) : Canonical (execHtRemove s) := h.htRun fun _ _ h => h.frame.ite (h.rehome.frame.ite h.frame)
theorem execHtRemoveAsid (h : s.Canon) :
    Canonical (execHtRemoveAsid s) := h.htRun fun _ _ h => h.frame.ite ((h.foldl fun _ _ h => h.rehome).frame)

theorem htCommand {op : BitVec 2} (h : s.Canon) : (s.htCommand op).Canon := by
  fun_cases State.htCommand
  · exact h
  · exact h.frame
  · exact h.frame

/-! ### Matrix work (Matrix) -/

theorem execMacc {f : AF} (h : s.Canon) : Canonical (execMacc f s) := h.issue fun _ _ h => h.unlessFails (h.accept fun _ h => h)
theorem execMloop {f : AF} (h : s.Canon) :
    Canonical (execMloop f s) := h.issue fun _ _ h => h.unlessFails (h.orElse (.ite h (h.accept fun _ h => h)))

theorem execMdrain {f : AF} (h : s.Canon) :
    Canonical (execMdrain f s) :=
  h.issue fun _ _ h => .ite h.failCheck (h.withRec fun _ _ h => h.unlessFails (h.accept fun _ h => h.mapRaft.ite h))

theorem execMscale {f : AF} (h : s.Canon) :
    Canonical (execMscale f s) := h.issue fun _ _ h => .ite trivial (h.orElse (h.unlessFails (h.accept fun _ h => h)))
theorem execMstat {f : AF} (h : s.Canon) : Canonical (execMstat f s) := h.issue fun _ _ h => h.unlessFails (h.accept fun _ h => h)
theorem execWview {f : AF} (h : s.Canon) : Canonical (execWview f s) := h.issue fun _ _ h => h.unlessFails (.ite h.mapRaft h)
theorem execWpool {f : AF} (h : s.Canon) : Canonical (execWpool f s) := h.issue fun _ _ h => h.unlessFails (h.accept fun _ h => h)

theorem homeRead {o : Op} {off n : Nat} {acc : Acc} {again : Bool} (h : s.Canon) : (s.homeRead o off n acc again).1.Canon := by
  fun_cases State.homeRead
  · exact h.engineRead
  · exact h.readAt.fst

theorem matrixStop {o : Op} {r : ERes} {step elem : Nat} (h : s.Canon) : (s.matrixStop o r step elem).Canon := by
  fun_cases State.matrixStop
  · exact h.setOp.suspendOp
  · exact h.failOp
  · exact h.setOp

theorem readAnchor {o next : Op} (h : s.Canon) : (s.readAnchor o next).Canon := by
  fun_cases State.readAnchor
  · exact h.homeRead.fst.setOp
  · exact h.homeRead.fst.matrixStop

theorem execMloopStart {op : Nat} (h : s.Canon) : Canonical (execMloopStart op s) := by
  unfold Machine.execMloopStart
  split
  · exact h
  split
  · exact h.readAnchor.ite h
  · exact h

theorem execMloopStep {op : Nat} (h : s.Canon) : Canonical (execMloopStep op s) := by
  unfold Machine.execMloopStep
  split
  · exact h
  split
  · exact h.ite (h.ite h.setOp)
  · exact h

theorem unitRun {one : Op → State → State × Op × ERes} {elem : Op → Nat} {last n : Nat} {o : Op} (h : s.Canon)
    (hone : ∀ o t, t.Canon → (one o t).1.Canon) : (State.unitRun one elem last n o s).Canon := by
  induction n generalizing o s with
  | zero => exact h.setOp
  | succ n ih =>
    rw [State.unitRun]
    refine ite h.setOp ?_
    split
    · exact ih (hone _ _ h).fst
    · exact (hone _ _ h).fst.matrixStop

theorem elemRead {o : Op} {e : Nat} {acc : Acc} (h : s.Canon) : (s.elemRead o e acc).1.Canon := by
  fun_cases State.elemRead
  · exact h.homeRead.fst.homeRead.fst
  · exact h.homeRead.fst.homeRead.fst
  · exact h.homeRead.fst

theorem homeWrite {o : Op} {off : Nat} {bytes : List Byte} {again : Bool} (h : s.Canon) :
    (s.homeWrite o off bytes again).1.Canon := h.engineWrite

theorem statusUpdate {o : Op} {fl : Fx64Flags} {again : Bool} (h : s.Canon) : (s.statusUpdate o fl again).1.Canon := by
  fun_cases State.statusUpdate
  · exact h.homeRead.fst.homeWrite
  · exact h.homeRead.fst

theorem elemUpdate {o : Op} {e : Nat} {new : DWord → BitVec 2 → Option (DWord × BitVec 2 × Fx64Flags)} (h : s.Canon) :
    (s.elemUpdate o e new).1.Canon := by
  unfold State.elemUpdate
  split
  · split
    · exact h.elemRead.fst
    · extract_lets sh put
      have hput {t} (h : t.Canon) : (put t).1.Canon := by
        unfold put
        split
        · split
          · exact h.homeWrite.fst.homeRead.fst.homeWrite
          · exact h.homeWrite.fst.homeRead.fst
        · exact h.homeWrite
      clear_value put
      refine fst_ite (hput h.elemRead.fst) ?_
      split
      · split
        · exact (hput h.elemRead.fst.homeRead.fst).fst.statusUpdate
        · exact hput h.elemRead.fst.homeRead.fst
      · exact h.elemRead.fst.homeRead.fst
  · exact h.elemRead.fst

theorem mergeElem {o : Op} (h : s.Canon) : (State.mergeElem o s).1.Canon := by
  unfold State.mergeElem
  split
  exact h.elemUpdate.fst

theorem execFx64Merge {op : Nat} (h : s.Canon) : Canonical (execFx64Merge op s) := by
  unfold Machine.execFx64Merge
  split
  · exact h
  split
  · refine ite ?_ h
    split
    exact h.draw.snd.unitRun fun _ _ h => h.mergeElem
  · exact h

theorem matrixEnd {o : Op} (h : s.Canon) : (s.matrixEnd o).Canon := by
  fun_cases State.matrixEnd
  · exact h.statusUpdate.fst.finishOp
  · exact h.statusUpdate.fst.matrixStop
  · exact h.statusUpdate.fst.finishOp
  · exact h.statusUpdate.fst.matrixStop
  · exact h.finishOp

theorem mstatRead {o : Op} (h : s.Canon) : (s.mstatRead o).Canon := by
  unfold State.mstatRead
  split
  · dsimp only
    split
    · exact h.homeRead.fst.deliver.finishOp
    · exact h.homeRead.fst.finishOp
  · exact h.homeRead.fst.matrixStop

theorem maccUnit {o : Op} (h : s.Canon) : (State.maccUnit o s).1.Canon := by
  fun_cases State.maccUnit
  exact h.homeWrite.fst

theorem drainRead {o : Op} {es : List Nat} (h : s.Canon) : (State.drainRead o es s).1.Canon := by
  induction es generalizing s with
  | nil => exact h
  | cons e es ih =>
    rw [State.drainRead]
    split
    · exact ih h.elemRead.fst
    · exact h.elemRead.fst

theorem drainWrite {ws : List (Int × Nat)} {o : Op} (h : s.Canon) : (State.drainWrite ws o s).1.Canon := by
  induction ws generalizing o s with
  | nil => exact h
  | cons w ws ih =>
    rw [State.drainWrite]
    split
    · exact ih h.ferryWrite.fst
    · exact h.ferryWrite.fst

theorem drainUnit {o : Op} (h : s.Canon) : (State.drainUnit o s).1.Canon := by
  fun_cases State.drainUnit
  · exact h.drainRead.fst
  · exact h.drainRead.fst.engineWrite.fst.drainWrite
  · exact h.drainRead.fst.engineWrite.fst
  · exact h.drainRead.fst.drainWrite
  · exact h.drainRead.fst

theorem scaleUnit {o : Op} (h : s.Canon) : (State.scaleUnit o s).1.Canon := by
  unfold State.scaleUnit
  extract_lets i go p
  have hgo {t n} (h : t.Canon) : (go t n).1.Canon := h.elemUpdate
  refine fst_ite (hgo h) ?_
  split
  · exact hgo h.engineRead.fst
  · exact h.engineRead.fst

theorem poolUnit {o : Op} (h : s.Canon) : (State.poolUnit o s).1.Canon := by
  fun_cases State.poolUnit
  · exact h
  · exact h
  · exact h.elemUpdate.fst

theorem matrixWork {o : Op} (h : s.Canon) : (s.matrixWork o).Canon := by
  fun_cases State.matrixWork
  · exact h.matrixEnd
  · exact h
  · exact h.draw.snd.unitRun fun _ _ h => h.maccUnit
  · exact h.draw.snd.unitRun fun _ _ h => h.drainUnit
  · exact h.draw.snd.unitRun fun _ _ h => h.scaleUnit
  · exact h.draw.snd.unitRun fun _ _ h => h.poolUnit
  · exact h

theorem execMatrixComplete {op : Nat} (h : s.Canon) : Canonical (execMatrixComplete op s) := by
  unfold Machine.execMatrixComplete
  split
  · exact h
  split
  · exact h
  split
  · exact h.matrixEnd.ite h
  · exact h.mstatRead.ite h
  · exact (h.readAnchor.ite h).ite h.matrixWork
  · exact (h.readAnchor.ite h).ite h.matrixWork
  · exact (h.setOp.ite h).ite h.matrixWork
  · exact (h.setOp.ite h).ite h.matrixWork
  · exact h

theorem execMatrixResume {op : Nat} (h : s.Canon) : Canonical (execMatrixResume op s) := by
  unfold Machine.execMatrixResume
  split
  · exact h
  split
  · exact h
  split
  · exact h.setOp.ite h.resumeOp
  · exact h.resumeOp

/-! ### Rendering (Render) -/

theorem acceptTagged {c : Ctx} {o : Op} {tags : BitVec 8} {after : State → State} (h : s.Canon)
    (hafter : ∀ t, t.Canon → (after t).Canon) : (c.acceptTagged s o tags after).Canon := h.enter hafter

theorem execEmit {f : AF} (h : s.Canon) :
    Canonical (execEmit f s) :=
  h.issue fun _ _ h => .ite trivial (.ite trivial (.ite trivial (.ite trivial (h.acceptTagged fun _ h => h))))

theorem execTileget {f : AF} (h : s.Canon) : Canonical (execTileget f s) :=
  h.issue fun _ _ h => by
    dsimp only
    split
    · exact trivial
    · exact .ite trivial (h.acceptTagged fun _ h => h)

theorem execTiledone {f : AF} (h : s.Canon) : Canonical (execTiledone f s) :=
  h.issue fun _ _ h => by
    dsimp only
    split
    · exact trivial
    · exact trivial
    · exact h.orElse (h.acceptTagged fun _ h => h.frame)

theorem execVis {f : AF} (h : s.Canon) : Canonical (execVis f s) :=
  h.issue fun _ _ h => by
    extract_lets d va rs
    refine .ite trivial ?_
    split
    · trivial
    · trivial
    split
    · trivial
    refine .ite trivial (.ite trivial ?_)
    split
    · trivial
    · exact h.accept fun _ h => h

theorem execBlend {f : AF} (h : s.Canon) : Canonical (execBlend f s) :=
  h.issue fun _ _ h => by
    extract_lets d va spp plane
    refine .ite trivial ?_
    split
    · trivial
    · trivial
    refine .ite trivial (.ite trivial ?_)
    split
    · trivial
    · exact .ite trivial (.ite h (h.accept fun _ h => h.frame))

theorem execTrace {f : AF} (h : s.Canon) :
    Canonical (execTrace f s) := h.issue fun _ _ h => .ite trivial (.ite trivial (h.acceptTagged fun _ h => h))

theorem passWrite {p : Pass} {who : Option Op} {off : Nat} {bytes : List Byte} (h : s.Canon) : (s.passWrite p who off bytes).1.Canon := by
  unfold State.passWrite
  split
  · cases who
    all_goals dsimp only [Option.elim]
    · exact h.writeAt.fst
    · exact h.writeAt.fst.dropWritten
  · exact h.writeAt.fst
  · exact h.writeAt.fst

theorem setPass {p : Pass} (h : s.Canon) : (s.setPass p).Canon := h.same

theorem emitArrive {o : Op} {p : Pass} (h : s.Canon) : (s.emitArrive o p).Canon := by
  fun_cases State.emitArrive
  · exact h.passWrite.fst.setPass.setOp
  · exact h.passWrite.fst.suspendOp
  · exact h.passWrite.fst

theorem failRender {o : Op} {cause item side addr : Nat} {lanes : LaneMask} (h : s.Canon) :
    (s.failRender o cause item side addr lanes).Canon := h.failOp

theorem emitOpen {o : Op} (h : s.Canon) : (s.emitOpen o).Canon := by
  fun_cases State.emitOpen
  · exact h
  · exact h.readAt.fst.ensure.fst.failRender.frame
  · exact h.readAt.fst.ensure.fst.frame.emitArrive
  · exact h.readAt.fst.ensure.fst.suspendOp
  · exact h.readAt.fst.ensure.fst.failRender.frame
  · exact h.readAt.fst.ensure.fst
  · exact h.readAt.fst.suspendOp
  · exact h.readAt.fst.failRender.frame
  · exact h.readAt.fst

theorem listRun {o : Op} {n : Nat} (h : s.Canon) : (State.listRun o n s).Canon := by
  induction n generalizing o s with
  | zero => exact h.setOp
  | succ n ih =>
    rw [State.listRun]
    split
    · exact h.setOp
    refine ite h.setOp (ite h.setOp (ite h.setOp ?_))
    split
    · exact ite h.readAt.fst.setOp
        (ite h.readAt.fst.setOp (ite h.readAt.fst.setPass.setOp (ih h.readAt.fst.setPass)))
    · exact h.readAt.fst.suspendOp
    · exact h.readAt.fst.setOp
    · exact h.readAt.fst.setOp

theorem renderResult {o : Op} {val : Nat → List Word} (h : s.Canon) : (s.renderResult o val).Canon := by
  fun_cases State.renderResult
  · exact h.deliver
  · exact h

theorem emitEnd {o : Op} (h : s.Canon) : (s.emitEnd o).Canon := by
  fun_cases State.emitEnd
  · exact h.passWrite.fst.setPass.renderResult.finishOp.ite h.passWrite.fst.setPass.renderResult.failRender
  · exact h.passWrite.fst.suspendOp
  · exact h.passWrite.fst
  · exact h.renderResult.finishOp.ite h.renderResult.failRender

theorem execListProcess {op : Nat} (h : s.Canon) : Canonical (execListProcess op s) := by
  unfold Machine.execListProcess
  split
  · exact h
  split
  · exact h
  split
  · split
    · exact h
    split
    · exact h.emitArrive
    · exact h.emitOpen
  · split
    split
    · exact h.ite h.draw.snd.listRun
    · exact h.draw.snd.listRun
  · exact h.emitEnd

theorem execSegmentOpen {passId : Nat} (h : s.Canon) : Canonical (execSegmentOpen passId s) := by
  unfold Machine.execSegmentOpen
  split
  · exact h
  split
  · exact h
  split
  · exact h.passWrite.fst.setPass
  · exact h.passWrite.fst

theorem tilegetEnd {o : Op} {word seg : Nat} (h : s.Canon) : (s.tilegetEnd o word seg).Canon := h.renderResult.finishOp

theorem giveTile {o : Op} {g : Grant} (h : s.Canon) : (s.giveTile o g).Canon := by
  unfold State.giveTile
  extract_lets s1 s2
  have h1 : s1.Canon := h.frame
  have h2 : s2.Canon := by
    unfold s2
    split
    · exact h1.acquireDrop
    · exact h1
  exact h2.tilegetEnd

theorem execTileGrant {op : Nat} (h : s.Canon) : Canonical (execTileGrant op s) := by
  unfold Machine.execTileGrant
  split
  · exact h
  split
  · split
    · exact h
    split
    · exact h.dropOp
    split
    · exact h.tilegetEnd.ite h
    split
    · exact h.ite h.frame.giveTile
    · exact h.ite h.setPass.giveTile
    · exact h.tilegetEnd.ite h
  · exact h

theorem retireTile {o : Op} {g : Grant} {p : Pass} (h : s.Canon) : (s.retireTile o g p).Canon := by
  unfold State.retireTile
  extract_lets left gone
  have hgone {t} (h : t.Canon) : (gone t).Canon := h.frame.finishOp
  clear_value gone
  refine ite ?_ (hgone h.setPass)
  split
  · exact hgone h.passWrite.fst.frame
  · exact h.passWrite.fst.suspendOp
  · exact h.passWrite.fst

theorem execTileRetire {op : Nat} (h : s.Canon) : Canonical (execTileRetire op s) := by
  unfold Machine.execTileRetire
  split
  · exact h
  split
  · split
    · exact h
    split
    · exact h.finishOp
    split
    · exact h.frame.finishOp
    · exact h.retireTile
  · exact h

theorem expectFrags {o : Op} {core base k : Nat} {xs : List Found} (h : s.Canon) : (State.expectFrags o core base k xs s).1.Canon := by
  induction xs generalizing k s with
  | nil => exact h
  | cons x xs ih =>
    rw [State.expectFrags]
    dsimp only
    refine fst_ite h (ih (tilePut ?_))
    split
    · exact h
    · exact h.frame

theorem visFragments {o : Op} {g : Grant} {core base : Nat} {table : List Byte} (h : s.Canon) :
    (s.visFragments o g core base table).Canon := by
  fun_cases State.visFragments
  · exact h.expectFrags.fst.setOp
  · exact h.expectFrags.fst.renderResult.finishOp

theorem visOpaque {o : Op} {g : Grant} {core base : Nat} {table : List Byte} (h : s.Canon) :
    (s.visOpaque o g core base table).Canon := h.tilePut.tilePut.renderResult.finishOp

theorem execVisComplete {op : Nat} (h : s.Canon) : Canonical (execVisComplete op s) := by
  unfold Machine.execVisComplete
  split
  · exact h
  split
  · split
    · exact h
    split
    · split
      · split
        · exact h.engineRead.fst.engineRead.fst.visFragments
        · exact h.engineRead.fst.engineRead.fst
      · exact h.engineRead.fst.visOpaque
    · exact h
  · exact h

theorem execFragmentApply {frag : Nat} (h : s.Canon) : Canonical (execFragmentApply frag s) := by
  unfold Machine.execFragmentApply
  split
  · exact h
  split
  · exact h
  split
  · exact h
  split
  · exact h.ite ((h.ite h.tilePut).frame.ite ((h.ite h.tilePut).frame.finishOp))
  · exact h

theorem traceEnd {o : Op} (h : s.Canon) : (s.traceEnd o).Canon := by
  unfold State.traceEnd
  extract_lets good s1
  have h1 : s1.Canon := by
    unfold s1
    split
    · exact h.deliver
    · exact h
  split
  · exact h1.finishOp
  · exact h1.failRender

theorem traceUnit {o : Op} {any cullBack : Bool} {ray : Ray} {x0 : TraceLane} (h : s.Canon) :
    (s.traceUnit o any cullBack ray x0).1.Canon := by
  unfold State.traceUnit
  extract_lets x read
  have hread {a n side use} : (read a n side use).1.Canon := by
    unfold read
    refine fst_ite h ?_
    split
    · exact fst_ite h.readAt.fst h.readAt.fst
    · exact h.readAt.fst
    · exact h.readAt.fst
    · exact h.readAt.fst
  clear_value read
  split
  · exact hread
  · exact hread
  · exact h

theorem traceUnits {o : Op} {any cullBack : Bool} {ray : Ray} {n : Nat} {x : TraceLane} (h : s.Canon) :
    (State.traceUnits o any cullBack ray n x s).1.Canon := by
  induction n generalizing x s with
  | zero => exact h
  | succ n ih =>
    rw [State.traceUnits]
    split
    · exact ih h.traceUnit.fst
    · exact h.traceUnit

theorem traceMoved {o : Op} {x : TraceLane} {r : TRes} (h : s.Canon) : (s.traceMoved o x r).Canon := by
  fun_cases State.traceMoved
  case case5 => exact h.suspendOp
  all_goals exact h.setOp

theorem execTraceComplete {op : Nat} (h : s.Canon) : Canonical (execTraceComplete op s) := by
  unfold Machine.execTraceComplete
  split
  · exact h
  split
  · refine ite h (ite h.setOp (ite h.traceEnd ?_))
    split
    split
    split
    · exact h
    · split
      exact h.draw.snd.draw.snd.traceUnits.fst.traceMoved
  · exact h

theorem execRenderResume {op : Nat} (h : s.Canon) : Canonical (execRenderResume op s) := by
  unfold Machine.execRenderResume
  split
  · exact h
  split
  · exact h.setOp.ite h
  · exact h

/-! ### Power, management and errors (Power) -/

theorem arbiterIssue {i : Instr} {d : RegNum} {ask : State → Ctx → State × Word} (h : s.Canon)
    (hask : ∀ t c, t.Canon → (ask t c).1.Canon) : Canonical (arbiterIssue i d s ask) :=
  h.issue fun _ c h => by
    have h1 := hask _ c h
    exact .ite h h1.frame

theorem execLease {f : CF} (h : s.Canon) : Canonical (execLease f s) :=
  h.arbiterIssue fun _ _ h => by
    extract_lets cl s2
    have h2 : s2.Canon := h.frame
    clear_value s2
    split
    exact fst_ite h2 (fst_ite h2.draw.snd.frame h2.draw.snd)

theorem execLeaseEnd {f : CF} (h : s.Canon) : Canonical (execLeaseEnd f s) := h.arbiterIssue fun _ _ h => h.frame

theorem inPeriod {cluster : Nat} (h : s.Canon) : (s.inPeriod cluster).Canon := by
  fun_cases State.inPeriod
  · exact h
  · exact h.mapCluster

theorem execArbiterPeriod {cluster : Nat} (h : s.Canon) : Canonical (execArbiterPeriod cluster s) := h.inPeriod

theorem reserveFor {who : Claimant} (h : s.Canon) : (s.reserveFor who).Canon := by
  fun_cases State.reserveFor
  · exact h.frame
  · exact h.mapEntry

theorem execReservationGrant {cluster : Nat} (h : s.Canon) : Canonical (execReservationGrant cluster s) := by
  unfold Machine.execReservationGrant
  dsimp only
  split
  · exact h.inPeriod
  · exact h.inPeriod.reserveFor.mapCluster

theorem putClkPat {c : Nat} {value : BitVec 16} (h : s.Canon) : (s.putClkPat c value).Canon := by
  fun_cases State.putClkPat
  · exact h
  · exact h.mapCluster

theorem execClkPatWrite {cluster : Nat} {value : BitVec 16} (h : s.Canon) : Canonical (execClkPatWrite cluster value s) := h.putClkPat
theorem execClkEffChange {cluster : Nat} (h : s.Canon) : Canonical (execClkEffChange cluster s) := h.mapCluster

theorem putFloor {c : Nat} {value : DWord} (h : s.Canon) : (s.putFloor c value).Canon := by
  fun_cases State.putFloor
  · exact h.mapCluster
  · exact h

theorem execBudFloorWrite {cluster : Nat} {value : DWord} (h : s.Canon) : Canonical (execBudFloorWrite cluster value s) := h.putFloor

theorem putTotal {c : Nat} {value : Word} (h : s.Canon) : (s.putTotal c value).Canon := by
  fun_cases State.putTotal
  · exact h.mapCluster
  · exact h

theorem execBudTotalWrite {cluster : Nat} {value : Word} (h : s.Canon) : Canonical (execBudTotalWrite cluster value s) := h.putTotal

theorem putPlimit {v : Word} (h : s.Canon) : (s.putPlimit v).Canon := by
  fun_cases State.putPlimit
  · exact h.frame
  · exact h

theorem execPlimitWrite {value : Word} (h : s.Canon) : Canonical (execPlimitWrite value s) := h.putPlimit
theorem execFqCtlWrite {value : Word} (h : s.Canon) : Canonical (execFqCtlWrite value s) := h.csrPut

theorem putErrCtl {v : Word} (h : s.Canon) : (s.putErrCtl v).Canon := by
  fun_cases State.putErrCtl
  · exact h.frame
  · exact h

theorem execErrCtlWrite {value : Word} (h : s.Canon) : Canonical (execErrCtlWrite value s) := h.putErrCtl

theorem putAge {which : AgeParam} {v : Word} (h : s.Canon) : (s.putAge which v).Canon := by
  fun_cases State.putAge
  case case2 | case4 | case6 => exact h
  all_goals exact h.frame

theorem execAgeParamWrite {which : AgeParam} {value : Word} (h : s.Canon) : Canonical (execAgeParamWrite which value s) := h.putAge

theorem putPeerRetry {v : Word} (h : s.Canon) : (s.putPeerRetry v).Canon := by
  fun_cases State.putPeerRetry
  · exact h.frame
  · exact h

theorem execPeerRetryWrite {value : Word} (h : s.Canon) : Canonical (execPeerRetryWrite value s) := h.putPeerRetry
theorem execStowSlotsWrite {value : Word} (h : s.Canon) : Canonical (execStowSlotsWrite value s) := h.csrPut

theorem afterOut {o : Out} (h : s.Canon) (ho : Canonical o) : (afterOut s o).Canon := by
  cases o
  case next => exact ho
  all_goals exact h

theorem command {off v : Nat} (h : s.Canon) : (s.command off v).Canon := by
  unfold State.command
  refine ite h.htCommand ?_
  split
  · exact h.afterOut h.execQtEnable
  · exact h.afterOut h.execQtDisable
  · exact h

theorem put64 {off : Nat} {x : DWord} (h : s.Canon) : (s.put64 off x).Canon := by
  fun_cases State.put64
  case case3 => exact h.putFloor
  case case8 => exact h.frame.postErrors
  case case10 => exact h
  all_goals exact h.frame

theorem put32 {off : Nat} {v : Word} (h : s.Canon) : (s.put32 off v).Canon := by
  fun_cases State.put32
  case case1 => exact h.putClkPat
  case case2 => exact h.putTotal
  case case3 | case11 => exact h
  case case7 => exact h.frame
  case case8 => exact h.putPeerRetry
  case case9 => exact h.putPlimit
  case case10 => exact h.putErrCtl
  all_goals exact h.putAge

theorem execRegisterWrite {offset bytes : Nat} {value : DWord} (h : s.Canon) : Canonical (execRegisterWrite offset bytes value s) := by
  unfold Machine.execRegisterWrite
  split
  · exact h
  split
  · dsimp only
    split
    · exact h.csrPut.ite h
    · exact h
  split
  · exact h.command
  split
  · exact h.put64.ite h
  split
  · exact h.put64
  · exact h.put64.ite h.put32
  · exact h.put32

theorem execLeaseExpiry {raft : Nat} (h : s.Canon) : Canonical (execLeaseExpiry raft s) := h.same

theorem execPowerWindow {draw : Nat} (h : s.Canon) : Canonical (execPowerWindow draw s) := by
  unfold Machine.execPowerWindow
  extract_lets _ s1
  have h1 : s1.Canon := h.frame
  clear_value s1
  refine ite h (ite h1 ?_)
  split
  exact h1.draw.snd.frame

theorem execHeadroomZero {cluster : Nat} (h : s.Canon) : Canonical (execHeadroomZero cluster s) := by
  unfold Machine.execHeadroomZero
  extract_lets die
  have h1 := h.mapCluster (c := cluster) (f := fun x => { x with headroom := 0 })
  exact ite h h1.frame

theorem clearBit {c : Nat} (h : s.Canon) : (s.clearBit c).Canon := by
  fun_cases State.clearBit
  · exact h
  · exact h.draw.snd.mapCluster

theorem execPatternBitClear {die : Nat} (h : s.Canon) : Canonical (execPatternBitClear die s) := by
  unfold Machine.execPatternBitClear
  split
  · exact h
  · exact h.ite ((h.foldl fun _ _ h => h.clearBit).frame)

theorem execPatternRestore {cluster : Nat} {headroom : BitVec 8} (h : s.Canon) : Canonical (execPatternRestore cluster headroom s) := by
  unfold Machine.execPatternRestore
  split
  · exact h.execHeadroomZero
  · extract_lets s1
    have h1 : s1.Canon := h.mapCluster
    clear_value s1
    exact ite h (.ite h1.frame h1)

theorem execRollbackRaise {command : RollbackCommand} (h : s.Canon) : Canonical (execRollbackRaise command s) := by
  unfold Machine.execRollbackRaise
  split
  · exact h
  split
  · exact h.frame
  · exact h.frame
  · exact h

theorem lostTeam {die : Nat} {t : Team} (h : s.Canon) : (s.lostTeam die t).Canon := by
  fun_cases State.lostTeam
  · exact h.frame.mapTeam.mapTeamRafts
  · exact h.frame.endTeam

theorem execComputeDieReset {die : Nat} (h : s.Canon) : Canonical (execComputeDieReset die s) := by
  unfold Machine.execComputeDieReset
  extract_lets on s1 lost s2 kept
  have h1 : s1.Canon := h.foldl fun _ _ h => h.lostTeam
  clear_value s1
  have h2 : s2.Canon := h1.foldl fun _ _ h => h.lostTeam
  clear_value s2
  exact ite h ⟨h2.pmem, filter_wf _ h2.tile, filter_wf _ h2.empty, fun e he => h2.slots e (List.mem_filter.1 he).1⟩

theorem respond {f : MgmtFrame} {type status : Nat} {body : List Byte} (h : s.Canon) : (s.respond f type status body).Canon := h.same

theorem repeatFor {f : MgmtFrame} (h : s.Canon) (g : s.repeatFor f = some t := by with_reducible assumption) : t.Canon := by
  obtain ⟨k, -, rfl⟩ := Option.map_eq_some_iff.1 g
  exact h.frame

theorem request {f : MgmtFrame} {type reply : Nat} {recovery : Bool} {work : State → State} (h : s.Canon)
    (hwork : ∀ t, t.Canon → (work t).Canon) : (s.request f type reply recovery work).Canon := by
  unfold State.request
  refine ite h ?_
  split
  · exact h.repeatFor
  · exact ite h.respond (ite h.respond (ite h.respond (ite h.respond (hwork _ h))))

theorem execAttestReq {frame : MgmtFrame} (h : s.Canon) :
    Canonical (execAttestReq frame s) := h.request fun _ h => h.respond.ite h.respond
theorem execTelemReq {frame : MgmtFrame} (h : s.Canon) : Canonical (execTelemReq frame s) := h.request fun _ h => h.respond.ite h.respond
theorem execRecovHello {frame : MgmtFrame} (h : s.Canon) :
    Canonical (execRecovHello frame s) := h.request fun _ h => h.respond.ite h.respond
theorem execRecovWrite {frame : MgmtFrame} (h : s.Canon) :
    Canonical (execRecovWrite frame s) := h.request fun _ h => h.respond.ite h.frame.respond

theorem endCommit {frame : MgmtFrame} (h : s.Canon) : (s.endCommit frame).Canon := by
  fun_cases State.endCommit
  · exact h.frame.respond
  · exact h.frame.respond
  · exact h.frame.respond

theorem execRecovCommit {frame : MgmtFrame} (h : s.Canon) :
    Canonical (execRecovCommit frame s) := h.endCommit.ite (h.request fun _ h => h.respond.ite h.frame)

theorem place {img : List Byte} (h : s.Canon) : (s.place img).Canon := by
  fun_cases State.place
  · exact h.physPut
  · exact h

theorem reset : State.reset.Canon := ⟨rfl, rfl, rfl, fun _ he => nomatch he⟩

theorem rebooted : s.rebooted.Canon := by
  unfold State.rebooted
  exact reset.frame.foldl fun _ _ h => h.place

theorem execRecovReset {frame : MgmtFrame} (h : s.Canon) :
    Canonical (execRecovReset frame s) := h.request fun _ h => h.respond.ite rebooted

theorem execMgmtBadMessage {frame : MgmtFrame} (h : s.Canon) : Canonical (execMgmtBadMessage frame s) := by
  unfold Machine.execMgmtBadMessage
  refine ite h ?_
  split
  · exact h.repeatFor
  · exact h.draw.respond

theorem execCorrectedError {pa : Nat} (h : s.Canon) : Canonical (execCorrectedError pa s) := h.same

theorem markPage {asid va : Nat} (h : s.Canon) : (s.markPage asid va).Canon := by
  unfold State.markPage
  exact h.frame

theorem spoil {asid va : Nat} (h : s.Canon) : (s.spoil asid va).Canon := by
  unfold State.spoil
  dsimp only
  split
  · exact h.draw.frame
  split
  · exact h.draw.physPut
  · exact h.draw

theorem stopAll (h : s.Canon) : s.stopAll.Canon := ⟨h.pmem, h.tile, h.empty, fun _ he => nomatch he⟩

theorem execUncorrectableError {place : ErrorPlace} {pa die : Nat} (h : s.Canon) : Canonical (execUncorrectableError place pa die s) := by
  unfold Machine.execUncorrectableError
  split
  · exact h.terminate.postError
  · exact h.terminate.postError
  · exact h.frame.postError
  · exact h.spoil.markPage.terminateAll.postError
  · exact h.terminate.postError
  · exact h.dieDown.ite h
  · exact h.postError.stopAll

theorem execModuleReset (_ : s.Canon) : Canonical (execModuleReset s) := rebooted
theorem settleClocks (h : s.Canon) : s.settleClocks.Canon := h.same

/-! ### Every instruction and event, and a step -/

theorem exec {i : Instr} (h : s.Canon) : Canonical (exec i s) := by
  cases i with
  | iadd | isub | imul | imad | imin | imax | iabs | and | or | xor | andn | shl | shr | sar | rotl | popc | clz | brev | bfe | bfi | sel
    | mov | iaddi | andi | ori | xori | shi | movi | dot4 | fadd | fsub | fmul | ffma | fmin | fmax | fclass | frcp | frsq | fexp2 | flog2
    | fsin | fcos | fsqrt | fdiv | hadd2 | hmul2 | hfma2 | hmin2 | hmax2 | dadd | dmul | dfma | fdot2h | shfl | scan => exact h.laneWrite
  | icmp | icmpi | fcmp => exact h.lanePred
  | redux => exact h.collWrite
  | cvt => exact h.execCvt
  | vote => exact h.execVote
  | plop => exact h.execPlop
  | lane => exact h.execLane
  | pblk => exact h.execPblk
  | ld => exact h.execLd
  | st => exact h.execSt
  | ldb => exact h.execLdb
  | stb => exact h.execStb
  | ldt => exact h.execLdt
  | stt => exact h.execStt
  | ldx => exact h.execLdx
  | stx => exact h.execStx
  | atom => exact h.execAtom
  | cas => exact h.execCas
  | cas128 => exact h.execCas128
  | fence => exact h.execFence
  | ftag => exact h.execFtag
  | pref => exact h.execPref
  | invl1 => exact h.execInvl1
  | setfe => exact h.execSetfe
  | rrot => exact h.execRrot
  | macc => exact h.execMacc
  | mloop => exact h.execMloop
  | mdrain => exact h.execMdrain
  | mscale => exact h.execMscale
  | mstat => exact h.execMstat
  | wview => exact h.execWview
  | wpool => exact h.execWpool
  | fcopy => exact h.execFcopy
  | fgather => exact h.execFgather
  | fscatter => exact h.execFscatter
  | ffill => exact h.execFfill
  | fqueue => exact h.execFqueue
  | emit => exact h.execEmit
  | tileget => exact h.execTileget
  | tiledone => exact h.execTiledone
  | vis => exact h.execVis
  | blend => exact h.execBlend
  | trace => exact h.execTrace
  | lathe => exact h.execLathe
  | batch => exact h.execBatch
  | nop => exact h.execNop
  | bru => exact h.execBru
  | brd => exact h.execBrd
  | join => exact h.execJoin
  | jmp => exact h.execJmp
  | jmpi => exact h.execJmpi
  | jmpiDiv => exact h.execJmpiDiv
  | call => exact h.execCall
  | callInd => exact h.execCallInd
  | ret => exact h.execRet
  | exit => exact h.execExit
  | waitc => exact h.execWaitc
  | waitb => exact h.execWaitb
  | waitbKeep => exact h.execWaitbKeep
  | barSync => exact h.execBarSync
  | barArrive => exact h.execBarArrive
  | loop => exact h.execLoop
  | loopUntil => exact h.execLoopUntil
  | strm => exact h.execStrm
  | strmOff => exact h.execStrmOff
  | reorder => exact h.execReorder
  | migrate => exact h.execMigrate
  | migrateHome => exact h.execMigrateHome
  | quota => exact h.execQuota
  | yield => exact h.execYield
  | trapi => exact h.execTrapi
  | bkpt => exact h.execBkpt
  | lease => exact h.execLease
  | leaseEnd => exact h.execLeaseEnd
  | waitmem => exact h.execWaitmem
  | csrr => exact h.execCsrr
  | csrw => exact h.execCsrw
  | dbghalt => exact h.execDbghalt
  | dbgres => exact h.execDbgres
  | dbgstep => exact h.execDbgstep
  | dbgrd => exact h.execDbgrd
  | dbgwr => exact h.execDbgwr
  | watch => exact h.execWatch
  | tlbinv => exact h.execTlbinv
  | tlbinvHold => exact h.execTlbinvHold
  | tlbinvFree => exact h.execTlbinvFree
  | kill => exact h.execKill
  | mbox => exact h.execMbox
  | clauseFetch => exact h.execClauseFetch
  | clauseStart => exact h.execClauseStart
  | yieldExpiry => exact h.execYieldExpiry
  | quotaGrant => exact h.execQuotaGrant
  | raftFree => exact h.execRaftFree
  | teamDispatch => exact h.execTeamDispatch
  | loadReply => exact h.execLoadReply
  | storePerform => exact h.execStorePerform
  | atomicPerform => exact h.execAtomicPerform
  | l2Fill => exact h.execL2Fill
  | pageWalk => exact h.execPageWalk
  | faultRingPost => exact h.execFaultRingPost
  | mooredReadmit => exact h.execMooredReadmit
  | moorLimitExpiry => exact h.execMoorLimitExpiry
  | stowDelayExpiry => exact h.execStowDelayExpiry
  | stowRetry => exact h.execStowRetry
  | restore => exact h.execRestore
  | migrateLand => exact h.execMigrateLand
  | ferryChunkComplete => exact h.execFerryChunkComplete
  | ferryResume => exact h.execFerryResume
  | fqueueRetry => exact h.execFqueueRetry
  | fscatterCombine => exact h.execFscatterCombine
  | barrierArrive => exact h.execBarrierArrive
  | barrierCredit => exact h.execBarrierCredit
  | wakeNotice => exact h.execWakeNotice
  | writeNotice => exact h.execWriteNotice
  | waitmemRetry => exact h.execWaitmemRetry
  | mloopStart => exact h.execMloopStart
  | mloopStep => exact h.execMloopStep
  | fx64Merge => exact h.execFx64Merge
  | matrixComplete => exact h.execMatrixComplete
  | matrixResume => exact h.execMatrixResume
  | latheElement => exact h.execLatheElement
  | latheResume => exact h.execLatheResume
  | rrotLineWrite => exact h.execRrotLineWrite
  | listProcess => exact h.execListProcess
  | segmentOpen => exact h.execSegmentOpen
  | tileGrant => exact h.execTileGrant
  | tileRetire => exact h.execTileRetire
  | visComplete => exact h.execVisComplete
  | fragmentApply => exact h.execFragmentApply
  | traceComplete => exact h.execTraceComplete
  | swapStart => exact h.execSwapStart
  | swapPieceCopy => exact h.execSwapPieceCopy
  | swapPieceWrite => exact h.execSwapPieceWrite
  | swapSwitch => exact h.execSwapSwitch
  | htSet => exact h.execHtSet
  | htRemove => exact h.execHtRemove
  | htRemoveAsid => exact h.execHtRemoveAsid
  | qtEnable => exact h.execQtEnable
  | qtDisable => exact h.execQtDisable
  | packetConsume => exact h.execPacketConsume
  | queueResume => exact h.execQueueResume
  | readIntervalRead => exact h.execReadIntervalRead
  | queueMap => exact h.execQueueMap
  | quantumExpiry => exact h.execQuantumExpiry
  | launchStart => exact h.execLaunchStart
  | copyStart => exact h.execCopyStart
  | semwait => exact h.execSemwait
  | semaphoreReread => exact h.execSemaphoreReread
  | passPacket => exact h.execPassPacket
  | semsignal => exact h.execSemsignal
  | marker => exact h.execMarker
  | packetComplete => exact h.execPacketComplete
  | spatialPreemption => exact h.execSpatialPreemption
  | arbiterPeriod => exact h.execArbiterPeriod
  | reservationGrant => exact h.execReservationGrant
  | clkPatWrite => exact h.execClkPatWrite
  | clkEffChange => exact h.execClkEffChange
  | budFloorWrite => exact h.execBudFloorWrite
  | budTotalWrite => exact h.execBudTotalWrite
  | plimitWrite => exact h.execPlimitWrite
  | fqCtlWrite => exact h.execFqCtlWrite
  | errCtlWrite => exact h.execErrCtlWrite
  | ageParamWrite => exact h.execAgeParamWrite
  | peerRetryWrite => exact h.execPeerRetryWrite
  | stowSlotsWrite => exact h.execStowSlotsWrite
  | registerWrite => exact h.execRegisterWrite
  | leaseExpiry => exact h.execLeaseExpiry
  | powerWindow => exact h.execPowerWindow
  | headroomZero => exact h.execHeadroomZero
  | patternBitClear => exact h.execPatternBitClear
  | patternRestore => exact h.execPatternRestore
  | rollbackRaise => exact h.execRollbackRaise
  | computeDieReset => exact h.execComputeDieReset
  | attestReq => exact h.execAttestReq
  | telemReq => exact h.execTelemReq
  | recovHello => exact h.execRecovHello
  | recovWrite => exact h.execRecovWrite
  | recovCommit => exact h.execRecovCommit
  | recovReset => exact h.execRecovReset
  | mgmtBadMessage => exact h.execMgmtBadMessage
  | flitReceive => exact h.execFlitReceive
  | flitReplay => exact h.execFlitReplay
  | peerFrame => exact h.execPeerFrame
  | peerAccess =>
    unfold Machine.exec
    exact h.execPeerAccess
  | correctedError pa => exact execCorrectedError (pa := pa) h
  | uncorrectableError => exact h.execUncorrectableError
  | renderResume => exact h.execRenderResume
  | headerWatch => exact h.execHeaderWatch
  | moduleReset => exact h.execModuleReset

theorem issueSlot (h : s.Canon) : Canonical s.issueSlot := by
  unfold State.issueSlot
  split
  · exact h.frame
  split
  · exact h.holdAt
  split
  · exact h.exec
  · exact h.trapAt
  · exact h.trapAt

theorem turn (h : s.Canon) : Canonical s.turn := by
  fun_cases State.turn
  · exact h.exec
  · exact h
  · exact h.issueSlot

theorem move (h : s.Canon) : Canonical s.move := by
  fun_cases State.move
  · exact h.frame.turn
  · exact h.frame.exec
  · exact h.turn

theorem tick (h : s.Canon) : s.tick.Canon := h.same

theorem settleSteps (h : s.Canon) : s.settleSteps.Canon :=
  h.foldl fun _ tm h => by
    cases tm.stepping
    · exact h
    · exact h.settleStop

theorem readied (h : s.Canon) : s.readied.Canon := h.same

/-- Every step keeps every memory's form: the tick and the settling after the step's one instruction or event write no memory. -/
theorem step (h : s.Canon) : Canonical (step s) := by
  have hmove := h.tick.move
  unfold Machine.step
  split
  next t ht =>
    rw [ht] at hmove
    exact hmove.carry.readied.settleSteps.settleClocks
  · exact hmove

end State.Canon

/-- Settles O58: `State.Canon`, which every step keeps, is `State.memOk` part by part. -/
theorem stepKeepsMemoryCanonical : Obligations.StepKeepsMemoryCanonical := by
  unfold Obligations.StepKeepsMemoryCanonical
  intro s t hs ht
  have h := (State.canon_iff.2 hs).step
  rw [ht] at h
  exact State.canon_iff.1 h

end Sys2Proof.Machine

namespace Sys2Proof.Machine

open Sys2Proof

/-!
Matrix work whose home lies in tile memory (O42). `TileHome` says that nothing holds an access to the home back; under it
every operation on the home has one equation. A run of units is followed by induction on the units it has done, and one
step of a loop is a fold over the cells of the working accumulator, which stand at distinct places.
-/

variable {s t u : State} {o : Op} {core base : Nat} {f : AF}

/-! ### Bytes and runs of keys -/

@[simp] theorem toBytes_length (n : Nat) : ∀ x, (toBytes n x).length = n := by
  induction n with
  | zero => intro _; rfl
  | succ n ih => intro x; rw [toBytes, List.length_cons, ih]

theorem ofBytes_toBytes (n : Nat) : ∀ x, ofBytes (toBytes n x) = x % 256 ^ n := by
  induction n with
  | zero => intro x; simp [toBytes, ofBytes, Nat.mod_one]
  | succ n ih =>
    intro x
    rw [toBytes, ofBytes, ih, Nat.pow_succ', Nat.mod_mul, BitVec.toNat_ofNat]

theorem ofNat_ofBytes_toBytes (x : DWord) : BitVec.ofNat 64 (ofBytes (toBytes 8 x.toNat)) = x := by
  have hx : x.toNat < 256 ^ 8 := x.isLt
  rw [ofBytes_toBytes, Nat.mod_eq_of_lt hx, BitVec.ofNat_toNat, BitVec.setWidth_eq]

theorem sgets_ssets_same {n : Nat} (m : Sparse n) (lo : Nat) (xs : List (BitVec n)) : sgets (ssets m lo xs) lo xs.length = xs := by
  refine List.ext_getElem (by simp [sgets]) fun i _ hi => ?_
  have hk : lo + i - lo = i := by omega
  simp [sgets, sget_ssets_in xs m lo (lo + i) (by omega) (by omega), hk]

theorem sgets_ssets_out {n : Nat} (m : Sparse n) {lo a c : Nat} (xs : List (BitVec n)) (h : a + c ≤ lo ∨ lo + xs.length ≤ a) :
    sgets (ssets m lo xs) a c = sgets m a c := by
  refine List.map_congr_left fun j hj => sget_ssets_out xs m lo (a + j) ?_
  have := List.mem_range.1 hj
  omega

/-! ### Tile memory of a core -/

/-- A state that differs in tile memory alone. -/
def onlyTile (s t : State) : Prop := t = { s with tile := t.tile }
theorem onlyTile_trans (h : onlyTile s t) (g : onlyTile t u) : onlyTile s u := by unfold onlyTile at *; rw [g, h]

theorem onlyTile_tilePut (hc : core < 256) (a : Nat) (bs : List Byte) : onlyTile s (s.tilePut core a bs) := by
  simp [onlyTile, State.tilePut, hc]
theorem tileGet_of_tile_eq (hc : core < 256) (h : t.tile = s.tile) (a n : Nat) : t.tileGet core a n = s.tileGet core a n := by
  simp [State.tileGet, hc, h]
theorem tileGet_tilePut_same (hc : core < 256) (a : Nat) {bs : List Byte} {n : Nat} (hn : bs.length = n) :
    (s.tilePut core a bs).tileGet core a n = bs := by
  subst hn
  simp [State.tileGet, State.tilePut, hc, sgets_ssets_same]
theorem tileGet_tilePut_out (hc : core < 256) {a b n : Nat} (bs : List Byte) (h : b + n ≤ a ∨ a + bs.length ≤ b) :
    (s.tilePut core a bs).tileGet core b n = s.tileGet core b n := by
  simp only [State.tileGet, State.tilePut, hc, if_true]
  exact sgets_ssets_out _ _ (by simp only [tileKey]; omega)

/-! ### Operations looked up after a change -/

theorem op?_id {id : Nat} (h : s.op? id = some o) : o.id = id := by simpa using List.find?_some h

theorem op?_setOp {x : Op} (h : s.op? x.id = some o) : (s.setOp x).op? x.id = some x := by
  have hp : (fun y : Op => y.id == x.id) ∘ (fun y => if y.id = x.id then x else y) = fun y => y.id == x.id := by
    funext y
    by_cases hy : y.id = x.id <;> simp [hy]
  have hx : s.ops.find? (fun y => y.id == x.id) = some o := h
  rw [State.op?, State.setOp, List.find?_map, hp, hx]
  simp [op?_id h]

theorem op?_dropOp (s : State) (id : Nat) : (s.dropOp id).op? id = none := by
  simp [State.op?, State.dropOp]

theorem op?_of_ops_eq (h : t.ops = s.ops) (id : Nat) : t.op? id = s.op? id := by rw [State.op?, h]; rfl

/-! ### An operation's end and a result delivered: what they leave of tile memory, rafts and operations -/

theorem Side.foldl {α : Type} {f : State → α → State} (hf : ∀ s x, Side s (f s x)) : ∀ (xs : List α) (s : State), Side s (xs.foldl f s)
  | [], s => Side.refl s
  | x :: xs, s => (hf s x).trans (Side.foldl hf xs (f s x))

/-- A stowed raft's frame stands in physical memory. -/
theorem refresh_side (s : State) (rid : Nat) : Side s (s.refresh rid) := by
  unfold State.refresh
  split
  · exact Side.refl s
  · split
    · exact Side.refl s
    · exact Side.foldl (fun s _ => Side.foldl (fun s _ => (physPut_side _ _ _).trans (physPut_side _ _ _)) _ s) _ s

theorem Side.tile (h : Side s t) : t.tile = s.tile := by rw [h.frame]
theorem Side.rafts (h : Side s t) : t.rafts = s.rafts := by rw [h.frame]
theorem Side.ops (h : Side s t) : t.ops = s.ops := by rw [h.frame]

theorem setFull_tile (s : State) (k line : Nat) (full : Bool) : (s.setFull k line full).tile = s.tile := by
  unfold State.setFull
  split
  · rfl
  · exact (setFrameByte_side _ _ _).tile
theorem setFull_rafts (s : State) (k line : Nat) (full : Bool) : (s.setFull k line full).rafts = s.rafts := by
  unfold State.setFull
  split
  · rfl
  · exact (setFrameByte_side _ _ _).rafts

theorem releaseFills_keeps (id : Nat) (fills : List (Nat × Nat)) : ∀ s : State,
    (s.releaseFills id fills).tile = s.tile ∧ (s.releaseFills id fills).rafts = s.rafts := by
  induction fills with
  | nil => intro s; exact ⟨rfl, rfl⟩
  | cons x fills ih =>
    intro s
    obtain ⟨k, line⟩ := x
    rw [State.releaseFills]
    split
    · exact ih _
    · exact ⟨(ih _).1.trans (setFull_tile _ _ _ _), (ih _).2.trans (setFull_rafts _ _ _ _)⟩

theorem raft?_nowReady {k : Nat} {r : Raft} (rid : Nat) (h : t.raft? k = some r) :
    ∃ sp, (s.nowReady t rid).raft? k = some { r with split := sp } := by
  unfold State.nowReady
  by_cases hk : k = rid
  · subst hk; exact ⟨_, raft?_mapRaft_same (fun _ hx => hx) h⟩
  · exact ⟨r.split, (raft?_mapRaft_other (by exact fun _ hx => hx) hk).trans h⟩

theorem op?_finishOp (h : s.op? o.id = some o) : (s.finishOp o.id).op? o.id = none := by
  rw [State.finishOp, h]
  dsimp only
  split
  · exact (op?_of_ops_eq (refresh_side _ _).ops _).trans (op?_dropOp _ _)
  · exact op?_dropOp _ _

theorem finishOp_tile (s : State) (id : Nat) : (s.finishOp id).tile = s.tile := by
  unfold State.finishOp
  split
  · rfl
  · dsimp only
    split
    · exact (refresh_side _ _).tile.trans (releaseFills_keeps _ _ _).1
    · exact (releaseFills_keeps _ _ _).1

theorem raft?_finishOp {k : Nat} {r : Raft} (id : Nat) (h : s.raft? k = some r) :
    ∃ sp, (s.finishOp id).raft? k = some { r with split := sp } := by
  unfold State.finishOp
  split
  · exact ⟨r.split, h⟩
  · rename_i o _
    have hd : ((s.releaseFills id o.fills).dropOp id).raft? k = some r := by
      rw [← h]; simp only [State.raft?, State.dropOp, (releaseFills_keeps id o.fills s).2]
    dsimp only
    split
    · rename_i rid _
      obtain ⟨sp, hsp⟩ := raft?_nowReady (s := s) rid hd
      exact ⟨sp, by rw [← hsp, State.raft?, (refresh_side _ _).rafts]; rfl⟩
    · exact ⟨r.split, hd⟩

/-- One word delivered to an s register. -/
theorem raft?_deliver_scl {rid : Nat} {r : Raft} {d : Dest} {x : Word} (hr : s.raft? rid = some r) (hk : Kind.of d.first = .scl)
    (hl : lanesOf 64 d.lanes ≠ []) :
    ∃ y, (s.deliver rid d (fun _ => [x])).raft? rid = some y ∧ y.sreg (d.first.toNat - 384) = x ∧ y.v = r.v ∧ y.p = r.p := by
  obtain ⟨l, ls, hls⟩ := List.exists_cons_of_ne_nil hl
  rw [State.deliver, State.raft?, (refresh_side _ _).rafts]
  refine ⟨_, raft?_mapRaft_same ?_ hr, ?_⟩
  · intro y hy
    rw [hls]
    simp [hk, Raft.setGroup, Raft.setS, hy]
  · rw [hls]
    simp [hk, Raft.setGroup, Raft.setS, Raft.sreg]

theorem deliver_ops (s : State) (rid : Nat) (d : Dest) (val : Nat → List Word) : (s.deliver rid d val).ops = s.ops :=
  (refresh_side _ _).ops

/-! ### A home in tile memory (R39, R44, R90) -/

/-- The operation's home lies in a core's tile memory, and nothing holds an access to it back: no line is empty for the
operation, and no earlier operation has a fill pending. -/
structure TileHome (s : State) (o : Op) (core base : Nat) : Prop where
  place : o.place 0 = (.tile core, base)
  lt : core < 256
  full : ∀ k l, s.emptyFor o.id k l = false
  noFill : ∀ y ∈ s.ops, y.id < o.id → y.fills = []

namespace TileHome

theorem homeRead (h : TileHome s o core base) (off n : Nat) (acc : Acc) (again : Bool) :
    s.homeRead o off n acc again = (s, .done, s.tileGet core (base + off) n) := by
  simp [State.homeRead, h.place, State.engineRead, h.full]

theorem homeWrite (h : TileHome s o core base) (off : Nat) (bytes : List Byte) (again : Bool) :
    s.homeWrite o off bytes again = (s.tilePut core (base + off) bytes, .done) := by
  simp only [State.homeWrite, h.place, State.engineWrite]
  refine if_neg ?_
  simp only [List.any_eq_true, Bool.and_eq_true, decide_eq_true_eq, not_exists, not_and]
  intro _ _ y hy hid
  simp [h.noFill y hy hid]

/-- Bytes of tile memory do not bear on what holds an access back. -/
theorem of_onlyTile (h : TileHome s o core base) (ht : onlyTile s t) : TileHome t o core base := by
  rw [ht]; exact ⟨h.place, h.lt, h.full, h.noFill⟩

/-- Its own entry replaced does not hold the operation back. -/
theorem setOp (h : TileHome s o core base) {x : Op} (hx : x.id = o.id) : TileHome (s.setOp x) o core base where
  place := h.place
  lt := h.lt
  full k l := by
    have hlater (xs : List Op) : (xs.map (fun y => if y.id = x.id then x else y)).any (fun y => decide (o.id < y.id) && y.marked.contains (k, l)) =
        xs.any (fun y => decide (o.id < y.id) && y.marked.contains (k, l)) := by
      rw [List.any_map]
      congr 1
      funext y
      by_cases hy : y.id = x.id
      · simp [hx, hy]
      · simp [hy]
    have hfull := h.full k l
    unfold State.emptyFor at hfull ⊢
    rw [← hlater] at hfull
    exact hfull
  noFill y hy hid := by
    obtain ⟨z, hz, rfl⟩ := List.mem_map.1 hy
    by_cases hzx : z.id = x.id
    · simp only [hzx, if_true] at hid
      omega
    · simp only [hzx, if_false] at hid ⊢
      exact h.noFill z hz hid

end TileHome

/-- X of element e of the home at a base, and its tag (R44). -/
def State.homeX (s : State) (core base e : Nat) : DWord := BitVec.ofNat 64 (ofBytes (s.tileGet core (base + 8 * e) 8))
def State.homeTag (s : State) (core base e : Nat) : BitVec 2 :=
  BitVec.ofNat 2 (ofBytes (s.tileGet core (base + tagByte e) 1) / 4 ^ (e % 4))

theorem TileHome.elemRead (h : TileHome s o core base) (e : Nat) (acc : Acc) :
    s.elemRead o e acc = (s, .done, s.homeX core base e, s.homeTag core base e) := by
  simp [State.elemRead, h.homeRead, State.homeX, State.homeTag]

/-- A byte of tags with the tag at place j replaced, as `elemUpdate` writes it. -/
def tagPut (b : Byte) (j : Nat) (t : BitVec 2) : Byte := (b &&& ~~~(3#8 <<< (2 * j))) ||| (t.setWidth 8 <<< (2 * j))
theorem getLsbD_three (n : Nat) : (3#8).getLsbD n = decide (n < 2) := by
  have h3 : (3#8) = (BitVec.allOnes 2).setWidth 8 := rfl
  have hlt : n < 2 → n < 8 := by omega
  rw [h3, BitVec.getLsbD_setWidth, BitVec.getLsbD_allOnes, ← Bool.decide_and]
  exact decide_eq_decide.2 ⟨And.right, fun h => ⟨hlt h, h⟩⟩
theorem tagPut_tag (b : Byte) {j k : Nat} (hj : j < 4) (hk : k < 4) (t : BitVec 2) :
    BitVec.ofNat 2 ((tagPut b j t).toNat / 4 ^ k) = if k = j then t else BitVec.ofNat 2 (b.toNat / 4 ^ k) := by
  have tagAt (x : Byte) : BitVec.ofNat 2 (x.toNat / 4 ^ k) = x.extractLsb' (2 * k) 2 := by
    apply BitVec.eq_of_toNat_eq
    simp [BitVec.extractLsb'_toNat, Nat.shiftRight_eq_div_pow, Nat.pow_mul]
  rw [tagAt, tagAt]
  ext i hi
  rw [BitVec.getElem_extractLsb']
  simp only [tagPut, BitVec.getLsbD_or, BitVec.getLsbD_and, BitVec.getLsbD_not, BitVec.getLsbD_shiftLeft, BitVec.getLsbD_setWidth,
    getLsbD_three]
  have h8 : 2 * k + i < 8 := by omega
  have hi8 : i < 8 := by omega
  by_cases hkj : k = j
  · have hlo : ¬2 * j + i < 2 * j := by omega
    have hat : 2 * j + i - 2 * j = i := by omega
    subst hkj
    simp [h8, hlo, hat, hi, hi8, ← BitVec.getLsbD_eq_getElem]
  · have hout : 2 * k + i < 2 * j ∨ 2 ≤ 2 * k + i - 2 * j := by omega
    rw [if_neg hkj, BitVec.getElem_extractLsb']
    rcases hout with hlt | hge
    · simp [h8, hlt]
    · have hge' : ¬2 * k + i - 2 * j < 2 := by omega
      simp [h8, hge', BitVec.getLsbD_of_ge t _ hge]

/-- An element of the home replaced: X, then the tag in its byte. -/
def State.putElem (s : State) (core base e : Nat) (x : DWord) (tag : BitVec 2) : State :=
  let s1 := s.tilePut core (base + 8 * e) (toBytes 8 x.toNat)
  s1.tilePut core (base + tagByte e) [tagPut ((s1.tileGet core (base + tagByte e) 1).headD 0) (e % 4) tag]

theorem onlyTile_putElem (hc : core < 256) (e : Nat) (x : DWord) (tag : BitVec 2) : onlyTile s (s.putElem core base e x tag) :=
  onlyTile_trans (onlyTile_tilePut hc _ _) (onlyTile_tilePut hc _ _)

theorem tileGet_one (hc : core < 256) (a : Nat) : s.tileGet core a 1 = [sget s.tile (tileKey core a)] := by
  simp [State.tileGet, hc, sgets]

theorem homeX_putElem (hc : core < 256) {e k : Nat} (he : e < 16384) (hk : k < 16384) (x : DWord) (tag : BitVec 2) :
    (s.putElem core base e x tag).homeX core base k = if k = e then x else s.homeX core base k := by
  have h8 : (toBytes 8 x.toNat).length = 8 := toBytes_length _ _
  rw [State.putElem, State.homeX, tileGet_tilePut_out hc _ (by simp only [tagByte]; omega)]
  split
  next hek => rw [hek, tileGet_tilePut_same hc _ h8, ofNat_ofBytes_toBytes]
  next hek => rw [tileGet_tilePut_out hc _ (by omega), State.homeX]

theorem homeTag_putElem (hc : core < 256) {e : Nat} (he : e < 16384) (k : Nat) (x : DWord) (tag : BitVec 2) :
    (s.putElem core base e x tag).homeTag core base k = if k = e then tag else s.homeTag core base k := by
  have h8 : (toBytes 8 x.toNat).length = 8 := toBytes_length _ _
  have hX (j : Nat) : (s.tilePut core (base + 8 * e) (toBytes 8 x.toNat)).tileGet core (base + tagByte j) 1 =
      s.tileGet core (base + tagByte j) 1 := tileGet_tilePut_out hc _ (by simp only [tagByte]; omega)
  rw [State.putElem, State.homeTag]
  by_cases hb : e / 4 = k / 4
  · have htag : tagByte k = tagByte e := by simp only [tagByte, hb]
    have hmod : k % 4 = e % 4 ↔ k = e := by omega
    rw [hX, htag, tileGet_tilePut_same hc _ (List.length_singleton), State.homeTag, htag, tileGet_one hc]
    simp only [ofBytes, List.headD_cons, Nat.mul_zero, Nat.add_zero]
    rw [tagPut_tag _ (Nat.mod_lt _ (by decide)) (Nat.mod_lt _ (by decide))]
    simp only [hmod]
  · have hne : k ≠ e := fun hke => hb (by rw [hke])
    rw [tileGet_tilePut_out hc _ (by simp only [tagByte, List.length_singleton]; omega), hX, if_neg hne, State.homeTag]

/-- An element replaced without flags. -/
theorem TileHome.elemUpdate (h : TileHome s o core base) (e : Nat) (f : DWord → BitVec 2 → DWord) (g : DWord → BitVec 2 → BitVec 2) :
    s.elemUpdate o e (fun x t => some (f x t, g x t, 0)) =
      (s.putElem core base e (f (s.homeX core base e) (s.homeTag core base e)) (g (s.homeX core base e) (s.homeTag core base e)), .done) := by
  have h1 := h.of_onlyTile (onlyTile_tilePut h.lt (base + 8 * e) (toBytes 8 (f (s.homeX core base e) (s.homeTag core base e)).toNat))
  simp [State.elemUpdate, h.elemRead, h.homeWrite, h1.homeRead, h1.homeWrite, State.putElem, tagPut]

/-- A status update (R39, R45). -/
theorem TileHome.statusUpdate (h : TileHome s o core base) (fl : Fx64Flags) (again : Bool) :
    s.statusUpdate o fl again = (s.tilePut core (base + 0x21000)
      (toBytes 8 (statusOr (BitVec.ofNat 64 (ofBytes (s.tileGet core (base + 0x21000) 8))) fl).toNat), .done) := by
  simp [State.statusUpdate, h.homeRead, h.homeWrite]

/-! ### Runs of units (R404) -/

/-- The operation after n units of a run, each paid from its reservation. -/
def Op.ran (o : Op) (n now : Nat) : Op := { o.spend n now with pos := o.pos + n }

theorem Op.ran_zero (now : Nat) (hr : o.resv ≠ 0) : o.ran 0 now = o := by simp [Op.ran, Op.spend, hr]
theorem Op.ran_succ {n now : Nat} (hn : n < o.resv) :
    ({ o.ran n now with pos := (o.ran n now).pos + 1 } : Op).spend 1 now = o.ran (n + 1) now := by
  have hnot : ¬o.resv ≤ n := Nat.not_le_of_lt hn
  have hlast : o.resv - n ≤ 1 ↔ o.resv ≤ n + 1 := by omega
  simp only [Op.ran, Op.spend, hnot, hlast, if_false, Nat.sub_sub, Nat.add_assoc]

/-- A run whose units all complete, each keeping `P` of the number done, does as many as its length and the work left allow. -/
theorem unitRun_done {one : Op → State → State × Op × ERes} {elem : Op → Nat} {last now : Nat} {P : Nat → State → Prop}
    (unit : ∀ n s, n < o.resv → o.pos + n < last → P n s → s.clock = now →
      ∃ u, one (o.ran n now) s = (u, o.ran n now, .done) ∧ P (n + 1) u ∧ u.clock = now) :
    ∀ (fuel n : Nat) (s : State), n + fuel ≤ o.resv → P n s → s.clock = now →
      ∃ u, State.unitRun one elem last fuel (o.ran n now) s = u.setOp (o.ran (n + min fuel (last - (o.pos + n))) now) ∧
        P (n + min fuel (last - (o.pos + n))) u := by
  intro fuel
  induction fuel with
  | zero => intro n s _ hP _; exact ⟨s, by simp [State.unitRun], by simpa using hP⟩
  | succ fuel ih =>
    intro n s hfuel hP hclock
    rw [State.unitRun]
    split
    next hlast =>
      have h0 : last - (o.pos + n) = 0 := Nat.sub_eq_zero_of_le hlast
      rw [h0]
      exact ⟨s, rfl, hP⟩
    next hlast =>
      have hpos : o.pos + n < last := Nat.lt_of_not_le hlast
      obtain ⟨s1, hone, hP1, hc1⟩ := unit n s (by omega) hpos hP hclock
      obtain ⟨u, hrun, hPu⟩ := ih (n + 1) s1 (by omega) hP1 hc1
      have hlen : n + 1 + min fuel (last - (o.pos + (n + 1))) = n + min (fuel + 1) (last - (o.pos + n)) := by omega
      rw [hlen] at hrun hPu
      rw [hone]
      dsimp only
      rw [hc1, Op.ran_succ (by omega)]
      exact ⟨u, hrun, hPu⟩

/-- A run started by a step draws its length, and does at least one unit and at most what the reservation covers. -/
theorem unitRun_drawn {one : Op → State → State × Op × ERes} {elem : Op → Nat} {last : Nat} {P : Nat → State → Prop}
    (hs : s.op? o.id = some o) (hr : o.resv ≠ 0) (hlast : o.pos < last) (h0 : P 0 s.draw.2) (hP : ∀ n t, P n t → onlyTile s.draw.2 t)
    (unit : ∀ n t, n < o.resv → o.pos + n < last → P n t →
      ∃ u, one (o.ran n s.clock) t = (u, o.ran n s.clock, .done) ∧ P (n + 1) u) :
    ∃ u n, State.unitRun one elem last (1 + s.draw.1 % o.resv) o s.draw.2 = u.setOp (o.ran n s.clock) ∧
      1 ≤ n ∧ n ≤ o.resv ∧ o.pos + n ≤ last ∧ P n u ∧ (u.setOp (o.ran n s.clock)).op? o.id = some (o.ran n s.clock) := by
  have hclock (n : Nat) (t : State) (h : P n t) : t.clock = s.clock := by rw [hP n t h]; rfl
  have hmod : s.draw.1 % o.resv < o.resv := Nat.mod_lt _ (Nat.pos_of_ne_zero hr)
  obtain ⟨u, hrun, hPu⟩ := unitRun_done (elem := elem) (now := s.clock) (P := P)
    (fun n t hn hl hPt _ => by
      obtain ⟨u, hone, hPu⟩ := unit n t hn hl hPt
      exact ⟨u, hone, hPu, hclock _ _ hPu⟩)
    (1 + s.draw.1 % o.resv) 0 s.draw.2 (by omega) h0 rfl
  rw [Op.ran_zero _ hr] at hrun
  refine ⟨u, _, hrun, by omega, by omega, by omega, hPu, op?_setOp (o := o) ?_⟩
  exact (op?_of_ops_eq (by rw [hP _ _ hPu]; rfl) _).trans hs

/-! ### Merges and images: what a run has done (R39, R241) -/

theorem TileHome.ran (h : TileHome s o core base) (n now : Nat) : TileHome s (o.ran n now) core base :=
  ⟨h.place, h.lt, h.full, h.noFill⟩
theorem TileHome.draw (h : TileHome s o core base) : TileHome s.draw.2 o core base := ⟨h.place, h.lt, h.full, h.noFill⟩

/-- The elements of the home once n of a merge's have been merged from where it stood (R39). -/
structure Merged (s : State) (o : Op) (core base n : Nat) (t : State) : Prop where
  only : onlyTile s t
  x : ∀ e, e < 16384 → t.homeX core base e =
    if o.pos ≤ e ∧ e < o.pos + n then s.homeX core base e + sget o.work e else s.homeX core base e
  tag : ∀ e, e < 16384 → t.homeTag core base e =
    if o.pos ≤ e ∧ e < o.pos + n then s.homeTag core base e ||| sget o.wtag e else s.homeTag core base e

theorem merged_zero (s : State) (o : Op) (core base : Nat) : Merged s o core base 0 s where
  only := rfl
  x e _ := by rw [if_neg (by omega)]
  tag e _ := by rw [if_neg (by omega)]

/-- A range that grows by its next element. -/
theorem ite_range_succ {α : Type} (lo n e : Nat) (a b : α) : (if lo ≤ e ∧ e < lo + (n + 1) then a else b) =
    if e = lo + n then a else if lo ≤ e ∧ e < lo + n then a else b := by
  by_cases he : e = lo + n
  · rw [if_pos he, if_pos (by omega)]
  · have hiff : lo ≤ e ∧ e < lo + (n + 1) ↔ lo ≤ e ∧ e < lo + n := by omega
    simp only [he, if_false, hiff]

theorem Merged.mergeElem {n : Nat} (h : TileHome s o core base) (m : Merged s o core base n t) (hn : o.pos + n < 16384) (now : Nat) :
    ∃ u, State.mergeElem (o.ran n now) t = (u, o.ran n now, .done) ∧ Merged s o core base (n + 1) u := by
  have ht := (h.of_onlyTile m.only).ran n now
  have hx := m.x _ hn
  have htag := m.tag _ hn
  rw [if_neg (by omega)] at hx htag
  refine ⟨t.putElem core base (o.pos + n) (s.homeX core base (o.pos + n) + sget o.work (o.pos + n))
    (s.homeTag core base (o.pos + n) ||| sget o.wtag (o.pos + n)), ?_, onlyTile_trans m.only (onlyTile_putElem h.lt _ _ _), ?_, ?_⟩
  · rw [← hx, ← htag, State.mergeElem, ht.elemUpdate]
    rfl
  · intro e he
    rw [homeX_putElem h.lt hn he, m.x e he, ite_range_succ]
    split
    next hek => rw [hek]
    next => rfl
  · intro e he
    rw [homeTag_putElem h.lt hn, m.tag e he, ite_range_succ]
    split
    next hek => rw [hek]
    next => rfl

/-- 8-byte unit k of MACC's image (R241): the status word with the anchor, and zero elsewhere. -/
def imageUnit (o : Op) (k : Nat) : List Byte := toBytes 8 (if k = 0x21000 / 8 then (statusOf o.anchor).toNat else 0)

/-- The home once n units of MACC's image have been written from where it stood. -/
structure Imaged (s : State) (o : Op) (core base n : Nat) (t : State) : Prop where
  only : onlyTile s t
  unit : ∀ i, i < n → t.tileGet core (base + 8 * (o.pos + i)) 8 = imageUnit o (o.pos + i)

theorem Imaged.maccUnit {n : Nat} (h : TileHome s o core base) (m : Imaged s o core base n t) (now : Nat) :
    ∃ u, State.maccUnit (o.ran n now) t = (u, o.ran n now, .done) ∧ Imaged s o core base (n + 1) u := by
  have ht := (h.of_onlyTile m.only).ran n now
  have h8 : (imageUnit o (o.pos + n)).length = 8 := toBytes_length _ _
  refine ⟨t.tilePut core (base + 8 * (o.pos + n)) (imageUnit o (o.pos + n)), ?_, onlyTile_trans m.only (onlyTile_tilePut h.lt _ _), ?_⟩
  · rw [State.maccUnit, ht.homeWrite]
    rfl
  · intro i hi
    rcases Nat.lt_succ_iff_lt_or_eq.1 hi with hlt | rfl
    · rw [tileGet_tilePut_out h.lt _ (by omega), m.unit i hlt]
    · exact tileGet_tilePut_same h.lt _ h8

/-! ### One step into the working accumulator (R38, R236) -/

/-- A row of A and a column of B at their place of the working accumulator. -/
abbrev Cell := (Nat × List (Option (FVal × FVal))) × (Nat × List (FVal × FVal))
def Cell.key (c : Cell) : Nat := c.1.1 * 128 + c.2.1
/-- The products of one cell added. -/
def Op.addCell (o : Op) (c : Cell) : Op :=
  let r := dotRow o.anchor c.1.2 c.2.2 (sget o.work c.key, sget o.wtag c.key, o.flags)
  { o with work := sset o.work c.key r.1, wtag := sset o.wtag c.key r.2.1, flags := r.2.2 }

/-- The cells of a step: every row of A with every column of B. -/
def stepCells (a : List (List (Option (FVal × FVal)))) (b : List (List (FVal × FVal))) : List Cell :=
  (numbered a).flatMap (fun x => (numbered b).map (Prod.mk x))

/-- A step adds its cells one after the other. -/
theorem stepInto_eq_foldl (o : Op) (a : List (List (Option (FVal × FVal)))) (b : List (List (FVal × FVal))) :
    stepInto o a b = (stepCells a b).foldl Op.addCell o := by
  rw [stepCells, List.foldl_flatMap]
  simp only [List.foldl_map]
  rfl

theorem mem_numbered {α : Type} {xs : List α} {i : Nat} {x : α} : (i, x) ∈ numbered xs ↔ xs[i]? = some x := by
  simp only [numbered, List.mem_iff_getElem?, List.getElem?_zip_eq_some]
  constructor
  · rintro ⟨k, hi, hx⟩
    obtain ⟨_, rfl⟩ := List.getElem?_eq_some_iff.1 hi
    simpa using hx
  · intro hx
    obtain ⟨hi, _⟩ := List.getElem?_eq_some_iff.1 hx
    exact ⟨i, by simp [hi], hx⟩

theorem numbered_pairwise {α : Type} (xs : List α) : (numbered xs).Pairwise (fun x y => x.1 < y.1) := by
  rw [← List.pairwise_map (f := Prod.fst) (R := (· < ·)), numbered, List.map_fst_zip (Nat.le_of_eq List.length_range)]
  exact List.pairwise_lt_range

theorem mem_stepCells {a : List (List (Option (FVal × FVal)))} {b : List (List (FVal × FVal))} {m n : Nat}
    {row : List (Option (FVal × FVal))} {col : List (FVal × FVal)} (hm : a[m]? = some row) (hn : b[n]? = some col) :
    ((m, row), (n, col)) ∈ stepCells a b :=
  List.mem_flatMap.2 ⟨(m, row), mem_numbered.2 hm, List.mem_map.2 ⟨(n, col), mem_numbered.2 hn, rfl⟩⟩

/-- No two cells of a step stand at one place: the columns of a row differ, and every row ends before the next begins. -/
theorem stepCells_pairwise (a : List (List (Option (FVal × FVal)))) {b : List (List (FVal × FVal))} (hb : b.length ≤ 128) :
    (stepCells a b).Pairwise (fun c d => c.key ≠ d.key) := by
  have hcol {n : Nat} {col : List (FVal × FVal)} (h : (n, col) ∈ numbered b) : n < 128 := by
    obtain ⟨hn, _⟩ := List.getElem?_eq_some_iff.1 (mem_numbered.1 h)
    omega
  refine List.pairwise_flatMap.2 ⟨fun x _ => ?_, (numbered_pairwise a).imp fun {x y} hxy c hc d hd => ?_⟩
  · refine List.pairwise_map.2 ((numbered_pairwise b).imp fun {c d} hcd => ?_)
    simp only [Cell.key]
    omega
  · obtain ⟨p, hp, rfl⟩ := List.mem_map.1 hc
    obtain ⟨q, hq, rfl⟩ := List.mem_map.1 hd
    have hp' := hcol hp
    have hq' := hcol hq
    simp only [Cell.key]
    omega

/-- The flags that a row starts with do not bear on its sum and tag. -/
theorem dotRow_flags (anc : Int) (x : DWord) (t : BitVec 2) (fl fl' : Fx64Flags) (as : List (Option (FVal × FVal))) (bs : List (FVal × FVal)) :
    (dotRow anc as bs (x, t, fl)).1 = (dotRow anc as bs (x, t, fl')).1 ∧
    (dotRow anc as bs (x, t, fl)).2.1 = (dotRow anc as bs (x, t, fl')).2.1 := by
  induction as generalizing bs x t fl fl' with
  | nil => exact ⟨rfl, rfl⟩
  | cons a as ih =>
    cases bs with
    | nil => cases a <;> exact ⟨rfl, rfl⟩
    | cons b bs => cases a with
      | none => exact ih ..
      | some a => exact ih ..

/-- Where A is omitted, B does not bear on the row (R236). -/
theorem dotRow_omitted {α : Type} (anc : Int) (fa : α → Option (FVal × FVal)) (fb fb' : α → FVal × FVal) (ks : List α)
    (h : ∀ k ∈ ks, fa k ≠ none → fb k = fb' k) (acc : DWord × BitVec 2 × Fx64Flags) :
    dotRow anc (ks.map fa) (ks.map fb) acc = dotRow anc (ks.map fa) (ks.map fb') acc := by
  induction ks generalizing acc with
  | nil => rfl
  | cons k ks ih =>
    have hk := h k List.mem_cons_self
    have hks := ih (fun j hj => h j (List.mem_cons_of_mem _ hj))
    simp only [List.map_cons]
    cases ha : fa k with
    | none => exact hks acc
    | some a =>
      rw [hk (by simp [ha])]
      exact hks _

theorem addCells_frame (cs : List Cell) : ∀ o : Op, cs.foldl Op.addCell o =
    { o with work := (cs.foldl Op.addCell o).work, wtag := (cs.foldl Op.addCell o).wtag, flags := (cs.foldl Op.addCell o).flags } := by
  induction cs with
  | nil => intro o; rfl
  | cons c cs ih => intro o; rw [List.foldl_cons, ih]; rfl

theorem addCells_out {k : Nat} (cs : List Cell) : ∀ o : Op, (∀ c ∈ cs, c.key ≠ k) →
    sget (cs.foldl Op.addCell o).work k = sget o.work k ∧ sget (cs.foldl Op.addCell o).wtag k = sget o.wtag k := by
  induction cs with
  | nil => intro o _; exact ⟨rfl, rfl⟩
  | cons c cs ih =>
    intro o hk
    have hc : k ≠ c.key := (hk c List.mem_cons_self).symm
    obtain ⟨hw, ht⟩ := ih (o.addCell c) (fun d hd => hk d (List.mem_cons_of_mem _ hd))
    exact ⟨hw.trans (sget_sset_other _ _ hc), ht.trans (sget_sset_other _ _ hc)⟩

/-- Of cells at distinct places, each adds its products to what stood at its own. -/
theorem addCells_in {c : Cell} (cs : List Cell) : ∀ o : Op, cs.Pairwise (fun c d => c.key ≠ d.key) → c ∈ cs →
    let r := dotRow o.anchor c.1.2 c.2.2 (sget o.work c.key, sget o.wtag c.key, 0)
    sget (cs.foldl Op.addCell o).work c.key = r.1 ∧ sget (cs.foldl Op.addCell o).wtag c.key = r.2.1 := by
  induction cs with
  | nil => intro o _ hc; exact absurd hc List.not_mem_nil
  | cons x cs ih =>
    intro o hpair hc
    obtain ⟨hx, hcs⟩ := List.pairwise_cons.1 hpair
    rw [List.foldl_cons]
    rcases List.mem_cons.1 hc with rfl | hc
    · obtain ⟨hw, ht⟩ := addCells_out cs (o.addCell c) (fun d hd => (hx d hd).symm)
      obtain ⟨hf, hf'⟩ := dotRow_flags o.anchor (sget o.work c.key) (sget o.wtag c.key) o.flags 0 c.1.2 c.2.2
      exact ⟨(hw.trans (sget_sset_same _ _ _)).trans hf, (ht.trans (sget_sset_same _ _ _)).trans hf'⟩
    · have hne : c.key ≠ x.key := (hx c hc).symm
      have h := ih (o.addCell x) hcs hc
      have hw : sget (o.addCell x).work c.key = sget o.work c.key := sget_sset_other _ _ hne
      have ht : sget (o.addCell x).wtag c.key = sget o.wtag c.key := sget_sset_other _ _ hne
      rw [hw, ht] at h
      exact h

theorem stepInto_frame (o : Op) (a : List (List (Option (FVal × FVal)))) (b : List (List (FVal × FVal))) :
    stepInto o a b = { o with work := (stepInto o a b).work, wtag := (stepInto o a b).wtag, flags := (stepInto o a b).flags } := by
  rw [stepInto_eq_foldl]
  exact addCells_frame _ o

/-- Element (m, n) of the working accumulator after a step: the products of its row and column added. -/
theorem stepInto_elem {a : List (List (Option (FVal × FVal)))} {b : List (List (FVal × FVal))} (hb : b.length ≤ 128) {m n : Nat}
    {row : List (Option (FVal × FVal))} {col : List (FVal × FVal)} (hm : a[m]? = some row) (hn : b[n]? = some col) (o : Op) :
    let r := dotRow o.anchor row col (sget o.work (m * 128 + n), sget o.wtag (m * 128 + n), 0)
    sget (stepInto o a b).work (m * 128 + n) = r.1 ∧ sget (stepInto o a b).wtag (m * 128 + n) = r.2.1 := by
  rw [stepInto_eq_foldl]
  have h := addCells_in _ o (stepCells_pairwise a hb) (mem_stepCells hm hn)
  simpa only [Cell.key] using h

/-! ### A loop starts and steps (R236, R237, R244) -/

/-- The status word of the home at a base (R45). -/
def State.homeStatus (s : State) (core base : Nat) : DWord := BitVec.ofNat 64 (ofBytes (s.tileGet core (base + 0x21000) 8))

theorem mloopStart_next (h : TileHome s o core base) (hs : s.op? o.id = some o) (hi : o.instr = .mloop f) (hturn : s.startTurn o = true)
    (hroom : (s.accums o.core).length < 2) (hidle : ∀ x ∈ s.accums o.core, x.phase ≠ 1) :
    exec (.mloopStart o.id) s = .next (s.setOp { o with
      phase := 1, asked := s.clock, pos := 0, work := [], wtag := [], flags := 0, anchor := statusAnchor (s.homeStatus core base) }) := by
  have hall : (s.accums o.core).all (fun x => x.phase != 1) = true := by simpa using hidle
  show execMloopStart o.id s = _
  rw [execMloopStart, hs]
  dsimp only
  rw [hi]
  simp [hturn, hroom, hall, State.readAnchor, h.homeRead, State.homeStatus]

/-- The core whose tile memory a step's operands lie in. -/
def Op.stepCore (o : Op) : Nat := match (o.place 1).1 with
  | .tile k => k
  | .virt _ => o.core
/-- A's elements of the step that the operation stands at, whether some product takes element k along K, and B's elements. -/
def Op.stepA (o : Op) : List (List MElem) :=
  (List.range (mlMext o.desc)).map (fun m => (List.range (mlK o.desc o.pos)).map (fun k => o.aElem o.pos m k))
def Op.stepUses (o : Op) (k : Nat) : Bool := o.stepA.any (fun row => row.getD k .omitted != .omitted)
def Op.stepB (o : Op) (w : Nat) : List (List MElem) :=
  (List.range (mlNext o.desc)).map (fun n =>
    (List.range (mlK o.desc o.pos)).map (fun k => if o.stepUses k then o.bElem w o.pos n k else .omitted))
/-- The value of an element of A, and its scale; none where it is omitted. -/
def State.aVal (s : State) (o : Op) (e : MElem) : Option (FVal × FVal) :=
  if e = .omitted then none else some (s.melem o.stepCore (mlAfmt o.desc) e)
/-- The operation with the step's products in its working accumulator. -/
def State.stepped (s : State) (o : Op) : Op :=
  stepInto o (o.stepA.map (fun row => row.map (s.aVal o)))
    ((o.stepB (s.opWidth o)).map (fun row => row.map (s.melem o.stepCore (mlBfmt o.desc))))
/-- The locks that a step leaves: those of B registers that a later step reads (R235). -/
def State.stepLocks (s : State) (o : Op) : List (Nat × Nat) :=
  let later := ((if mlRegs o.desc then mlRegsRead o.desc (s.opWidth o) else []).filter (fun x => decide (o.pos < x.2))).map (·.1)
  o.locks.filter (fun x => later.contains x.2)

theorem mloopStep_next (h : TileHome s o core base) (hs : s.op? o.id = some o) (hi : o.instr = .mloop f) (hphase : o.phase = 1)
    (hgoes : s.opGoes o = true) (hr : o.resv ≠ 0) :
    exec (.mloopStep o.id) s = .next (s.setOp
      { (s.stepped o).spend (if o.pos + 1 = mlSteps o.desc then o.resv else 1) s.clock with
        pos := if o.pos + 1 = mlSteps o.desc then 0 else o.pos + 1
        phase := if o.pos + 1 = mlSteps o.desc then 2 else 1
        locks := s.stepLocks o }) := by
  have hgo : (o.phase != 1 || !s.opGoes o || o.resv == 0) = false := by simp [hphase, hgoes, hr]
  have hdry (rows : List (List MElem)) (k : Nat) : rows.any (fun row => row.any (fun e => e.lines.any (fun l => s.emptyFor o.id k l))) = false := by
    simp [h.full]
  show execMloopStep o.id s = _
  rw [execMloopStep, hs]
  dsimp only
  rw [hi]
  dsimp only
  rw [hgo, hdry]
  rfl

theorem stepped_frame (s : State) (o : Op) :
    s.stepped o = { o with work := (s.stepped o).work, wtag := (s.stepped o).wtag, flags := (s.stepped o).flags } := stepInto_frame _ _ _

/-- An element of B that meets an element of A which is not omitted is read. -/
theorem stepUses_of_ne {m k : Nat} (hm : m < mlMext o.desc) (hk : k < mlK o.desc o.pos) (h : o.aElem o.pos m k ≠ .omitted) :
    o.stepUses k = true := by
  simp only [Op.stepUses, Op.stepA, List.any_map, List.any_eq_true, List.mem_range, Function.comp_apply]
  exact ⟨m, hm, by simpa [hk] using h⟩

/-- Element (m, n) of the working accumulator after a step: the products along K, none where A is omitted (R236). -/
theorem stepped_elem {m n : Nat} (hm : m < mlMext o.desc) (hn : n < mlNext o.desc) (hnext : mlNext o.desc ≤ 128) :
    let r := dotRow o.anchor
      ((List.range (mlK o.desc o.pos)).map (fun k => s.aVal o (o.aElem o.pos m k)))
      ((List.range (mlK o.desc o.pos)).map (fun k => s.melem o.stepCore (mlBfmt o.desc) (o.bElem (s.opWidth o) o.pos n k)))
      (sget o.work (m * 128 + n), sget o.wtag (m * 128 + n), 0)
    sget (s.stepped o).work (m * 128 + n) = r.1 ∧ sget (s.stepped o).wtag (m * 128 + n) = r.2.1 := by
  have hcol : ∀ k ∈ List.range (mlK o.desc o.pos), s.aVal o (o.aElem o.pos m k) ≠ none →
      s.melem o.stepCore (mlBfmt o.desc) (o.bElem (s.opWidth o) o.pos n k) =
      s.melem o.stepCore (mlBfmt o.desc) (if o.stepUses k then o.bElem (s.opWidth o) o.pos n k else .omitted) := by
    intro k hk ha
    have hne : o.aElem o.pos m k ≠ .omitted := fun he => ha (by simp [State.aVal, he])
    rw [if_pos (stepUses_of_ne hm (List.mem_range.1 hk) hne)]
  intro r
  simp only [r, dotRow_omitted o.anchor _ _ _ _ hcol]
  refine stepInto_elem (by simpa [Op.stepB] using hnext) ?_ ?_ o
  · simp [Op.stepA, hm, Function.comp_def]
  · simp [Op.stepB, hn, Function.comp_def]

/-! ### A loop merges and ends (R39, R92) -/

theorem fx64Merge_next (h : TileHome s o core base) (hs : s.op? o.id = some o) (hi : o.instr = .mloop f) (hphase : o.phase = 2)
    (hgoes : s.opGoes o = true) (hr : o.resv ≠ 0) (hpos : o.pos < 16384) :
    ∃ u n, exec (.fx64Merge o.id) s = .next (u.setOp (o.ran n s.clock)) ∧ 1 ≤ n ∧ n ≤ o.resv ∧ o.pos + n ≤ 16384 ∧
      Merged s.draw.2 o core base n u ∧ (u.setOp (o.ran n s.clock)).op? o.id = some (o.ran n s.clock) := by
  obtain ⟨u, n, hrun, h1, hn, hend, hm, hop⟩ := unitRun_drawn (elem := fun o => o.pos) hs hr hpos (merged_zero s.draw.2 o core base)
    (fun _ _ hm => hm.only) (fun n t _ hl hm => hm.mergeElem h.draw hl s.clock)
  refine ⟨u, n, ?_, h1, hn, hend, hm, hop⟩
  have hgo : (o.phase == 2 && s.opGoes o && o.resv != 0) = true := by simp [hphase, hgoes, hr]
  show execFx64Merge o.id s = _
  rw [← hrun, execFx64Merge, hs]
  dsimp only
  rw [hi]
  dsimp only
  rw [hgo]
  rfl

theorem mloopEnd_next (h : TileHome s o core base) (hs : s.op? o.id = some o) (hi : o.instr = .mloop f) (hcls : o.cls = 0) (hphase : o.phase = 2)
    (hgoes : s.opGoes o = true) (hpos : 16384 ≤ o.pos) :
    exec (.matrixComplete o.id) s = .next ((s.tilePut core (base + 0x21000)
      (toBytes 8 (statusOr (s.homeStatus core base) o.flags).toNat)).finishOp o.id) := by
  have hhome : o.homeVirt = false := by simp [Op.homeVirt, h.place]
  show execMatrixComplete o.id s = _
  rw [execMatrixComplete, hs]
  dsimp only
  rw [hi]
  simp [hcls, hgoes, hphase, hpos, hhome, State.matrixEnd, hi, h.statusUpdate, State.homeStatus]

/-! ### MACC and MSTAT (R241, R249) -/

/-- An operation in its turn has not started, and nothing holds it. -/
theorem startTurn_goes (h : s.startTurn o = true) : o.phase = 0 ∧ s.opGoes o = true := by
  simp only [State.startTurn, Bool.and_eq_true, beq_iff_eq] at h
  exact h.1.1

theorem maccStart_next (hs : s.op? o.id = some o) (hi : o.instr = .macc f) (hcls : o.cls = 0) (hturn : s.startTurn o = true) :
    exec (.matrixComplete o.id) s = .next (s.setOp { o with phase := 1, asked := s.clock }) := by
  obtain ⟨hphase, hgoes⟩ := startTurn_goes hturn
  show execMatrixComplete o.id s = _
  rw [execMatrixComplete, hs]
  dsimp only
  rw [hi]
  simp [hcls, hgoes, hphase, hturn]

/-- A MACC that has started does a run of its image, or ends. -/
theorem macc_next (hs : s.op? o.id = some o) (hi : o.instr = .macc f) (hcls : o.cls = 0) (hphase : o.phase = 1) (hgoes : s.opGoes o = true) :
    exec (.matrixComplete o.id) s = .next (s.matrixWork o) := by
  show execMatrixComplete o.id s = _
  rw [execMatrixComplete, hs]
  dsimp only
  rw [hi]
  simp [hcls, hgoes, hphase]

theorem maccWork_run (h : TileHome s o core base) (hs : s.op? o.id = some o) (hi : o.instr = .macc f) (hr : o.resv ≠ 0)
    (hpos : o.pos < imageBytes / 8) :
    ∃ u n, s.matrixWork o = u.setOp (o.ran n s.clock) ∧ 1 ≤ n ∧ n ≤ o.resv ∧
      Imaged s.draw.2 o core base n u ∧ (u.setOp (o.ran n s.clock)).op? o.id = some (o.ran n s.clock) := by
  have hunits : o.units = imageBytes / 8 := by rw [Op.units, hi]
  obtain ⟨u, n, hrun, h1, hn, _, hm, hop⟩ := unitRun_drawn (elem := fun _ => 0) hs hr hpos
    (P := Imaged s.draw.2 o core base) ⟨rfl, fun i hi => absurd hi (Nat.not_lt_zero i)⟩
    (fun _ _ hm => hm.only) (fun n t _ _ hm => hm.maccUnit h.draw s.clock)
  refine ⟨u, n, ?_, h1, hn, hm, hop⟩
  rw [← hrun, State.matrixWork, hunits, if_neg (Nat.not_le_of_lt hpos), if_neg hr, hi]

theorem maccWork_end (hi : o.instr = .macc f) (hpos : imageBytes / 8 ≤ o.pos) : s.matrixWork o = s.finishOp o.id := by
  have hunits : o.units ≤ o.pos := by rw [Op.units, hi]; exact hpos
  rw [State.matrixWork, if_pos hunits, State.matrixEnd, hi]

theorem mstat_next (h : TileHome s o core base) (hs : s.op? o.id = some o) (hi : o.instr = .mstat f) (hcls : o.cls = 0)
    (hturn : s.startTurn o = true) {rid : Nat} {d : Dest} (hraft : o.raft = some rid) (hdest : o.dest = some d) :
    exec (.matrixComplete o.id) s =
      .next ((s.deliver rid d (fun _ => [(s.homeStatus core base).setWidth 32])).finishOp o.id) := by
  obtain ⟨_, hgoes⟩ := startTurn_goes hturn
  have hword : BitVec.ofNat 32 (ofBytes (s.tileGet core (base + 0x21000) 8)) = (s.homeStatus core base).setWidth 32 := by
    rw [State.homeStatus, BitVec.setWidth_ofNat_of_le (by decide)]
  show execMatrixComplete o.id s = _
  rw [execMatrixComplete, hs]
  dsimp only
  rw [hi]
  simp [hcls, hgoes, hturn, State.mstatRead, h.homeRead, hraft, hdest, hword]

/-! ### A suspended operation goes on (R257) -/

theorem matrixResume_next (hs : s.op? o.id = some o) (hcls : o.cls = 0) {va : Nat} (hsusp : o.susp = some va)
    (hhere : s.absent o.asid va = false) (hstow : s.opStowed o = false) (hdying : s.opDying o = false) :
    exec (.matrixResume o.id) s = .next (s.setOp { o with susp := none, replay := false }) := by
  have hresume : s.resumeOp o = s.setOp { o with susp := none, replay := false } := by
    simp [State.resumeOp, hsusp, hhere, hstow, hdying]
  have hcls' : (o.cls != 0) = false := by simp [hcls]
  show execMatrixResume o.id s = _
  rw [execMatrixResume, hs]
  dsimp only
  rw [hcls', hsusp, hresume]
  split
  · contradiction
  · split
    · split <;> rfl
    · rfl

/-! ### The parts of O42 -/

/-- The operation after a step, in the fields that a step may change. -/
theorem mloopStep_op (s : State) (o : Op) (n now pos phase : Nat) (locks : List (Nat × Nat)) :
    ({ (s.stepped o).spend n now with pos := pos, phase := phase, locks := locks } : Op) =
      { o with
        work := (s.stepped o).work, wtag := (s.stepped o).wtag, flags := (s.stepped o).flags, locks := locks, pos := pos, phase := phase
        resv := (o.spend n now).resv, asked := (o.spend n now).asked } := by
  rw [stepped_frame]
  rfl

/-- What the home's elements read as once a merge has done n of them. -/
theorem elemRead_merged {n now : Nat} (h : TileHome s o core base) (m : Merged s.draw.2 o core base n t) {e : Nat} (he : e < 16384) :
    (t.setOp (o.ran n now)).elemRead o e .read =
      if o.pos ≤ e ∧ e < o.pos + n then
        (t.setOp (o.ran n now), .done, s.homeX core base e + sget o.work e, s.homeTag core base e ||| sget o.wtag e)
      else (t.setOp (o.ran n now), .done, s.homeX core base e, s.homeTag core base e) := by
  have ht : TileHome (t.setOp (o.ran n now)) o core base := (h.draw.of_onlyTile m.only).setOp rfl
  have hx : (t.setOp (o.ran n now)).homeX core base e = _ := m.x e he
  have htag : (t.setOp (o.ran n now)).homeTag core base e = _ := m.tag e he
  rw [ht.elemRead, hx, htag]
  split <;> rfl

/-- A loop's end leaves its one status update in the home (log entry 34). -/
theorem mloopEnd_status (h : TileHome s o core base) (x : DWord) (id : Nat) :
    ((s.tilePut core (base + 0x21000) (toBytes 8 x.toNat)).finishOp id).tileGet core (base + 0x21000) 8 = toBytes 8 x.toNat :=
  (tileGet_of_tile_eq h.lt (finishOp_tile _ _) _ _).trans (tileGet_tilePut_same h.lt _ (toBytes_length _ _))

/-- Settles O42: in a tile home every access goes through, so that each event's result can be written out; a run's length is
drawn, and the home after it follows by induction on the units it has done. -/
theorem matrixEvents : Obligations.MatrixEvents := by
  unfold Obligations.MatrixEvents
  intro s o core base hs hcls hplace hlt hfull hfills
  have h : TileHome s o core base := ⟨hplace, hlt, hfull, hfills⟩
  refine ⟨fun f hi => ⟨?start, ?step, ?merge, ?loopEnd⟩, fun f hi => ⟨?maccStart, ?image, ?maccEnd⟩, ?mstat, ?resume⟩
  case start => exact mloopStart_next h hs hi
  case step =>
    intro hphase hgoes hr hnext
    refine ⟨_, mloopStep_next h hs hi hphase hgoes hr, mloopStep_op .., fun m n hm hn => ?_⟩
    exact stepped_elem hm hn hnext
  case merge =>
    intro hphase hgoes hr hpos
    obtain ⟨t, n, hexec, h1, hn, hend, hm, hop⟩ := fx64Merge_next h hs hi hphase hgoes hr hpos
    refine ⟨_, n, hexec, h1, hn, hend, hop, ?_, ?_, fun e he => ⟨_, _, h.elemRead e .read, elemRead_merged h hm he⟩⟩
    · rw [hm.only]; rfl
    · rw [hm.only]; rfl
  case loopEnd =>
    intro hphase hgoes hpos
    refine ⟨_, mloopEnd_next h hs hi hcls hphase hgoes hpos, ?_, mloopEnd_status h _ _⟩
    exact op?_finishOp ((op?_of_ops_eq (by rw [onlyTile_tilePut hlt]) _).trans hs)
  case maccStart => exact maccStart_next hs hi hcls
  case image =>
    intro hphase hgoes hr hpos
    obtain ⟨t, n, hwork, h1, hn, hm, hop⟩ := maccWork_run h hs hi hr hpos
    exact ⟨_, n, (macc_next hs hi hcls hphase hgoes).trans (congrArg _ hwork), h1, hn, hop, hm.unit⟩
  case maccEnd =>
    intro hphase hgoes hpos
    rw [macc_next hs hi hcls hphase hgoes, maccWork_end hi hpos]
  case mstat =>
    intro f rid r d hi hturn hraft hr _ hdest hscl hlanes
    obtain ⟨y, hy, hs', hv, hp⟩ := raft?_deliver_scl (x := (s.homeStatus core base).setWidth 32) hr hscl hlanes
    obtain ⟨sp, hsp⟩ := raft?_finishOp o.id hy
    exact ⟨_, _, mstat_next h hs hi hcls hturn hraft hdest,
      op?_finishOp ((op?_of_ops_eq (deliver_ops ..) _).trans hs), hsp, hs', hv, hp⟩
  case resume => exact fun va => matrixResume_next hs hcls

end Sys2Proof.Machine

namespace Sys2Proof

/-!
Decoding and encoding (O57, O56). A format's `toWord` and `ofWord` are inverse to each other, and `opOf` reads OP back; OP
selects the arm of `decodeFields` whose form `encode` lays out under the same OP, and FN tells apart the forms that share one.
-/

/-! ### The six formats, there and back (R58, R60 to R64) -/

theorem ofBool_getLsbD (w : DWord) (n : Nat) : BitVec.ofBool (w.getLsbD n) = w.extractLsb' n 1 := by
  ext i hi
  obtain rfl : i = 0 := by omega
  simp

@[simp] theorem V3.opOf_toWord (op : BitVec 8) (f : V3) : opOf (f.toWord op) = op := BitVec.extractLsb'_append_eq_right
@[simp] theorem VI.opOf_toWord (op : BitVec 8) (f : VI) : opOf (f.toWord op) = op := BitVec.extractLsb'_append_eq_right
@[simp] theorem MF.opOf_toWord (op : BitVec 8) (f : MF) : opOf (f.toWord op) = op := BitVec.extractLsb'_append_eq_right
@[simp] theorem AF.opOf_toWord (op : BitVec 8) (f : AF) : opOf (f.toWord op) = op := BitVec.extractLsb'_append_eq_right
@[simp] theorem CF.opOf_toWord (op : BitVec 8) (f : CF) : opOf (f.toWord op) = op := BitVec.extractLsb'_append_eq_right
@[simp] theorem PB.opOf_toWord (op : BitVec 8) (f : PB) : opOf (f.toWord op) = op := BitVec.extractLsb'_append_eq_right

@[simp] theorem V3.ofWord_toWord (op : BitVec 8) (f : V3) : V3.ofWord (f.toWord op) = f := by
  simp (disch := decide) only [V3.ofWord, V3.toWord, BitVec.extractLsb'_append_eq_of_le, BitVec.extractLsb'_append_eq_right,
    Nat.reduceSub, BitVec.getLsbD_append]
  cases f
  simp
@[simp] theorem VI.ofWord_toWord (op : BitVec 8) (f : VI) : VI.ofWord (f.toWord op) = f := by
  simp (disch := decide) only [VI.ofWord, VI.toWord, BitVec.extractLsb'_append_eq_of_le, BitVec.extractLsb'_append_eq_right,
    Nat.reduceSub, BitVec.extractLsb'_eq_self]
@[simp] theorem MF.ofWord_toWord (op : BitVec 8) (f : MF) : MF.ofWord (f.toWord op) = f := by
  simp (disch := decide) only [MF.ofWord, MF.toWord, BitVec.extractLsb'_append_eq_of_le, BitVec.extractLsb'_append_eq_right,
    Nat.reduceSub, BitVec.extractLsb'_eq_self]
@[simp] theorem AF.ofWord_toWord (op : BitVec 8) (f : AF) : AF.ofWord (f.toWord op) = f := by
  simp (disch := decide) only [AF.ofWord, AF.toWord, BitVec.extractLsb'_append_eq_of_le, BitVec.extractLsb'_append_eq_right,
    Nat.reduceSub, BitVec.extractLsb'_eq_self]
@[simp] theorem CF.ofWord_toWord (op : BitVec 8) (f : CF) : CF.ofWord (f.toWord op) = f := by
  simp (disch := decide) only [CF.ofWord, CF.toWord, BitVec.extractLsb'_append_eq_of_le, BitVec.extractLsb'_append_eq_right,
    Nat.reduceSub, BitVec.extractLsb'_eq_self]
@[simp] theorem PB.ofWord_toWord (op : BitVec 8) (f : PB) : PB.ofWord (f.toWord op) = f := by
  simp (disch := decide) only [PB.ofWord, PB.toWord, BitVec.extractLsb'_append_eq_of_le, BitVec.extractLsb'_append_eq_right,
    Nat.reduceSub, BitVec.extractLsb'_eq_self]

@[simp] theorem V3.toWord_ofWord (w : DWord) : (V3.ofWord w).toWord (opOf w) = w := by
  simp (disch := rfl) only [V3.ofWord, V3.toWord, opOf, ofBool_getLsbD, BitVec.extractLsb'_append_extractLsb'_eq_extractLsb']
  exact BitVec.extractLsb'_eq_self
@[simp] theorem VI.toWord_ofWord (w : DWord) : (VI.ofWord w).toWord (opOf w) = w := by
  simp (disch := rfl) only [VI.ofWord, VI.toWord, opOf, BitVec.extractLsb'_append_extractLsb'_eq_extractLsb']
  exact BitVec.extractLsb'_eq_self
@[simp] theorem MF.toWord_ofWord (w : DWord) : (MF.ofWord w).toWord (opOf w) = w := by
  simp (disch := rfl) only [MF.ofWord, MF.toWord, opOf, BitVec.extractLsb'_append_extractLsb'_eq_extractLsb']
  exact BitVec.extractLsb'_eq_self
@[simp] theorem AF.toWord_ofWord (w : DWord) : (AF.ofWord w).toWord (opOf w) = w := by
  simp (disch := rfl) only [AF.ofWord, AF.toWord, opOf, BitVec.extractLsb'_append_extractLsb'_eq_extractLsb']
  exact BitVec.extractLsb'_eq_self
@[simp] theorem CF.toWord_ofWord (w : DWord) : (CF.ofWord w).toWord (opOf w) = w := by
  simp (disch := rfl) only [CF.ofWord, CF.toWord, opOf, BitVec.extractLsb'_append_extractLsb'_eq_extractLsb']
  exact BitVec.extractLsb'_eq_self
@[simp] theorem PB.toWord_ofWord (w : DWord) : (PB.ofWord w).toWord (opOf w) = w := by
  simp (disch := rfl) only [PB.ofWord, PB.toWord, opOf, BitVec.extractLsb'_append_extractLsb'_eq_extractLsb']
  exact BitVec.extractLsb'_eq_self

/-! ### OP and FN select the form (R65) -/

/-- The FN by which the decoder tells this form from the others of its OP; true of a form that has its OP alone. -/
def Instr.FnSelects : Instr → Prop
  | .jmpi f | .call f | .waitb f | .barSync f | .loop f | .migrate f | .lease f | .tlbinv f => f.fn = 0
  | .jmpiDiv f | .callInd f | .waitbKeep f | .barArrive f | .loopUntil f | .migrateHome f | .leaseEnd f | .tlbinvHold f => f.fn = 1
  | .tlbinvFree f => f.fn = 2
  | .strm f => f.fn.toNat ≤ 3
  | .strmOff f => 4 ≤ f.fn.toNat ∧ f.fn.toNat ≤ 7
  | _ => True

/-- The encoding checks of a form that shares its OP hold FN to the values of that form. -/
theorem fnSelects_of_wellFormed {i : Instr} (h : WellFormed i = true) : i.FnSelects := by
  obtain ⟨hf, -⟩ := Bool.and_eq_true_iff.1 h
  cases i with
  | jmpi f | call f | waitb f | migrate f | tlbinv f | lease f | barSync f | loop f
  | jmpiDiv f | callInd f | waitbKeep f | barArrive f | loopUntil f | migrateHome f | leaseEnd f | tlbinvHold f | tlbinvFree f
  | strm f | strmOff f =>
    simp only [Machine.formatOk, Machine.cfOk, Bool.and_eq_true, beq_iff_eq, decide_eq_true_eq] at hf
    simp only [Instr.FnSelects, hf, and_self]
  | _ => trivial

theorem opOf_eq_ofNat {w : DWord} {n : Nat} (h : (opOf w).toNat = n) : opOf w = BitVec.ofNat 8 n := by
  rw [← h, BitVec.ofNat_toNat, BitVec.setWidth_eq]

/-- What the decoder answers is laid out under the OP of the word, with the fields of the word. -/
theorem encode_of_decodeFields {w : DWord} {i : Instr} (h : decodeFields w = .ok i) : encode i = some w := by
  dsimp only [decodeFields] at h
  -- one goal for each form that an OP, or an OP and an FN, select; the refusals go
  repeat' split at h
  all_goals cases h
  all_goals
    have hop := opOf_eq_ofNat ‹(opOf w).toNat = _›
    simp only [encode, BitVec.ofNat_eq_ofNat, ← hop, V3.toWord_ofWord, VI.toWord_ofWord, MF.toWord_ofWord, AF.toWord_ofWord,
      CF.toWord_ofWord, PB.toWord_ofWord]

/-- A form's word decodes to it, where FN is one of its own. -/
theorem decodeFields_of_encode {w : DWord} {i : Instr} (hfn : i.FnSelects) (h : encode i = some w) : decodeFields w = .ok i := by
  cases i with
  | iadd f | isub f | imul f | imad f | imin f | imax f | iabs f | and f | or f | xor f | andn f | shl f | shr f | sar f | rotl f
  | popc f | clz f | brev f | bfe f | bfi f | icmp f | sel f | mov f | dot4 f | fadd f | fsub f | fmul f | ffma f | fmin f | fmax f
  | fcmp f | fclass f | frcp f | frsq f | fexp2 f | flog2 f | fsin f | fcos f | fsqrt f | fdiv f | hadd2 f | hmul2 f | hfma2 f
  | hmin2 f | hmax2 f | dadd f | dmul f | dfma f | fdot2h f | cvt f | shfl f | vote f | redux f | scan f | plop f | lane f =>
    cases h
    rw [decodeFields, V3.opOf_toWord, V3.ofWord_toWord]
    rfl
  | iaddi f | andi f | ori f | xori f | shi f | movi f | icmpi f =>
    cases h
    rw [decodeFields, VI.opOf_toWord, VI.ofWord_toWord]
    rfl
  | pblk f =>
    cases h
    rw [decodeFields, PB.opOf_toWord, PB.ofWord_toWord]
    rfl
  | ld f | st f | ldb f | stb f | ldt f | stt f | ldx f | stx f | atom f | cas f | cas128 f | fence f | ftag f | pref f | invl1 f
  | setfe f | rrot f =>
    cases h
    rw [decodeFields, MF.opOf_toWord, MF.ofWord_toWord]
    rfl
  | macc f | mloop f | mdrain f | mscale f | mstat f | wview f | wpool f | fcopy f | fgather f | fscatter f | ffill f | fqueue f
  | emit f | tileget f | tiledone f | vis f | blend f | trace f | lathe f | batch f =>
    cases h
    rw [decodeFields, AF.opOf_toWord, AF.ofWord_toWord]
    rfl
  | nop f | bru f | brd f | join f | jmp f | ret f | exit f | waitc f | reorder f | quota f | yield f | trapi f | bkpt f | waitmem f
  | csrr f | csrw f | dbghalt f | dbgres f | dbgstep f | dbgrd f | dbgwr f | watch f | kill f | mbox f =>
    cases h
    rw [decodeFields, CF.opOf_toWord, CF.ofWord_toWord]
    rfl
  | jmpi f | jmpiDiv f | call f | callInd f | waitb f | waitbKeep f | barSync f | barArrive f | loop f | loopUntil f | migrate f
  | migrateHome f | lease f | leaseEnd f | tlbinv f | tlbinvHold f | tlbinvFree f =>
    cases h
    have hfn : f.fn = _ := hfn
    rw [decodeFields, CF.opOf_toWord, CF.ofWord_toWord]
    dsimp only
    rw [hfn]
    rfl
  | strm f =>
    cases h
    rw [decodeFields, CF.opOf_toWord, CF.ofWord_toWord]
    exact if_pos hfn
  | strmOff f =>
    cases h
    rw [decodeFields, CF.opOf_toWord, CF.ofWord_toWord]
    exact (if_neg (Nat.not_le.2 hfn.1)).trans (if_pos hfn.2)
  | _ => cases h

theorem decode_ok_iff {w : DWord} {i : Instr} : decode w = .ok i ↔ decodeFields w = .ok i ∧ WellFormed i = true := by
  unfold decode
  cases decodeFields w with
  | error e => simp
  | ok j =>
    by_cases hj : WellFormed j = true
    · simp only [hj, if_true, Except.ok.injEq]
      exact ⟨fun h => ⟨h, h ▸ hj⟩, And.left⟩
    · simp only [hj, Except.ok.injEq]
      exact ⟨fun h => (nomatch h), fun ⟨h, hi⟩ => absurd (h ▸ hi) hj⟩

theorem decode_of_encode {w : DWord} {i : Instr} (hwf : WellFormed i = true) (henc : encode i = some w) : decode w = .ok i :=
  decode_ok_iff.2 ⟨decodeFields_of_encode (fnSelects_of_wellFormed hwf) henc, hwf⟩

/-- Settles O57: OP and FN select the one form under which the word's fields are laid out, and the form's checks hold FN to it. -/
theorem decodeAndEncodeAgree : Obligations.DecodeAndEncodeAgree := by
  unfold Obligations.DecodeAndEncodeAgree
  refine ⟨fun _ _ => decode_of_encode, fun w i hdec => ?_, fun w e herr i hwf henc => ?_⟩
  · obtain ⟨hfields, hwf⟩ := decode_ok_iff.1 hdec
    exact ⟨hwf, encode_of_decodeFields hfields⟩
  · rw [decode_of_encode hwf henc] at herr
    cases herr

/-- Settles O56: each word is the one that its well-formed instruction encodes to, and no form has OP 0. -/
theorem wordsDecode : Obligations.WordsDecode := by
  unfold Obligations.WordsDecode
  refine ⟨?_, ?_, ?_, ?_, ?_, ?_, ?_, ?_, ?_, ?unassigned⟩
  case unassigned => rfl
  all_goals exact decode_of_encode (by decide +kernel) (by decide +kernel)
end Sys2Proof

namespace Sys2Proof.Machine

open Sys2Proof

/-!
What issues without its team's right to it (O20): `issue` asks `Ctx.refuse` first, and `Ctx.refuse` asks the OP first.
-/

theorem issue_refused {s : State} {c : Ctx} {i : Instr} {body : State → Ctx → Res} {cause : Nat} (h : s.ctx = some c)
    (hr : c.refuse i = some cause) : issue i s body = .next (s.trapAt c cause c.active 0 0) := by
  simp only [issue, State.issueWith, h, hr]

theorem refuse_privileged {c : Ctx} {i : Instr} (hs : c.t.supv = false) (hop : 0xE0 ≤ opNum i) : c.refuse i = some 3 := by
  simp [Ctx.refuse, hs, hop]

/-- R55 step 2 comes before every other check: its OP alone makes a SYS instruction trap in a user team. -/
theorem traps_privileged {s : State} {c : Ctx} {i : Instr} {body : State → Ctx → Res} (hc : s.ctx = some c) (hs : c.t.supv = false)
    (hop : 0xE0 ≤ opNum i) (hexec : exec i s = issue i s body) : Traps s c i 3 c.active 0 0 :=
  hexec.trans (issue_refused hc (refuse_privileged hs hop))

/-- The OP of a SYS instruction reads back from its word. -/
theorem sys_opNum {op : BitVec 8} {f : CF} {i : Instr} (h : encode i = some (f.toWord op)) (hop : 0xE0 ≤ op.toNat) : 0xE0 ≤ opNum i := by
  rw [opNum, h]
  exact Nat.le_trans hop (Nat.le_of_eq (congrArg BitVec.toNat (CF.opOf_toWord op f).symm))

/-- Settles O20: each SYS instruction issues through `issue`, under an OP of 0xE0 or above. -/
theorem systemInstructionsArePrivileged : Obligations.SystemInstructionsArePrivileged := by
  unfold Obligations.SystemInstructionsArePrivileged
  intro s c f hc hs i hi
  simp only [List.mem_cons, List.not_mem_nil, or_false] at hi
  rcases hi with rfl | rfl | rfl | rfl | rfl | rfl | rfl | rfl | rfl | rfl | rfl | rfl | rfl
  all_goals exact traps_privileged hc hs (sys_opNum rfl (by decide)) rfl

end Sys2Proof.Machine

namespace Sys2Proof.Machine

open Sys2Proof

/-!
The events of sub-rafts and rafts outside a slot (O34): a fetch reads memory alone, the quadrant's choice is of least `since`,
and the end of a team that nothing holds back changes no raft, team or launch but its own.
-/

variable {s t u : State}

/-! ### Lookups -/

theorem raft?_of_rafts_eq (h : t.rafts = s.rafts) (id : Nat) : t.raft? id = s.raft? id := by rw [State.raft?, h]; rfl

theorem raft?_mapEntry_same {id e : Nat} {f : Entry → Entry} {r : Raft} {en : Entry} (h : s.raft? id = some r)
    (he : r.entry? e = some en) : (s.mapEntry id e f).raft? id = some (r.setEntry e (some (f en))) := by
  refine (raft?_mapRaft_same (fun x hx => ?_) h).trans (by rw [he]; rfl)
  exact hx

theorem raft?_mapEntry_other {id e k : Nat} {f : Entry → Entry} (h : k ≠ id) : (s.mapEntry id e f).raft? k = s.raft? k :=
  raft?_mapRaft_other (fun _ hx => hx) h

theorem mapEntry_onlyRaft (s : State) (id e : Nat) (f : Entry → Entry) : onlyRaft s (s.mapEntry id e f) id :=
  ⟨onlyRafts_mapEntry .., fun _ h => raft?_mapEntry_other h⟩

/-! ### Fetching a clause reads memory (R49) -/

theorem fetchWord_side (s : State) (asid : Nat) (pc : DWord) : Side s (s.fetchWord asid pc).1 := by
  have h := readAt_side s asid pc.toNat 8 .fetch false
  unfold State.fetchWord
  split
  all_goals
    rename_i hr
    rw [hr] at h
    exact h

theorem fetchWords_side (asid : Nat) : ∀ (n : Nat) (pc : DWord) (s : State), Side s (State.fetchWords asid pc n s).1
  | 0, _, s => Side.refl s
  | n + 1, pc, s => by
    have h := fetchWord_side s asid pc
    unfold State.fetchWords
    split
    · rename_i s1 _ hw
      rw [hw] at h
      exact h.trans (fetchWords_side asid n (pc + 8) s1)
    · rename_i hw
      rw [hw] at h
      exact h

theorem fetchClause_side (s : State) (asid : Nat) (pc : DWord) : Side s (s.fetchClause asid pc).1 := by
  have h := fetchWord_side s asid pc
  unfold State.fetchClause
  split
  case h_1 s1 hdr hw =>
    rw [hw] at h
    have h2 := h.trans (fetchWords_side asid (hdrCount hdr) (pc + 8) s1)
    split
    all_goals
      rename_i hws
      rw [hws] at h2
      exact h2
  all_goals
    rename_i hw
    rw [hw] at h
    exact h

/-! ### The quadrant's choice (R105) -/

theorem lexLt_head_le {a b : Nat} {as bs : List Nat} (h : lexLt (a :: as) (b :: bs) = true) : a ≤ b := by
  simp only [lexLt, Bool.or_eq_true, decide_eq_true_eq, Bool.and_eq_true, beq_iff_eq] at h
  omega

theorem lexLt_head_ge {a b : Nat} {as bs : List Nat} (h : lexLt (a :: as) (b :: bs) = false) : b ≤ a := by
  simp only [lexLt, Bool.or_eq_false_iff, decide_eq_false_iff_not] at h
  omega

/-- A list with an element has one of least key list, and no other has a smaller first key. -/
theorem leastByKeys_first {α : Type} (first : α → Nat) (rest : α → List Nat) : ∀ (xs : List α), xs ≠ [] →
    ∃ x ∈ xs, leastByKeys (fun y => first y :: rest y) xs = some x ∧ ∀ y ∈ xs, first x ≤ first y
  | [x], _ => ⟨x, by simp [leastByKeys]⟩
  | x :: z :: zs, _ => by
    obtain ⟨y, hy, hleast, hmin⟩ := leastByKeys_first first rest (z :: zs) (by simp)
    rw [leastByKeys, hleast]
    by_cases hlt : lexLt (first y :: rest y) (first x :: rest x) = true
    · refine ⟨y, List.mem_cons_of_mem _ hy, by simp [hlt], fun w hw => ?_⟩
      rcases List.mem_cons.1 hw with rfl | hw
      · exact lexLt_head_le hlt
      · exact hmin w hw
    · have hlt : lexLt (first y :: rest y) (first x :: rest x) = false := by simpa using hlt
      refine ⟨x, List.mem_cons_self, by simp [hlt], fun w hw => ?_⟩
      rcases List.mem_cons.1 hw with rfl | hw
      · exact Nat.le_refl _
      · exact Nat.le_trans (lexLt_head_ge hlt) (hmin w hw)

/-- What a quadrant may take up belongs to a team. -/
theorem team?_of_startable {core quad : Nat} {x : Raft × Nat × Entry} (h : x ∈ s.startable core quad) : ∃ y, s.team? x.1.team = some y := by
  unfold State.startable at h
  obtain ⟨r, hr, hx⟩ := List.mem_flatMap.1 h
  obtain ⟨z, -, rfl⟩ := List.mem_map.1 hx
  simp only [List.mem_filter, Bool.and_eq_true] at hr
  obtain ⟨-, -, hteam⟩ := hr
  revert hteam
  cases s.team? r.team with
  | none => intro h; cases h
  | some y => exact fun _ => ⟨y, rfl⟩

/-! ### An idle quadrant starts the ready sub-raft that has waited longest -/

theorem clauseStart_next {core quad : Nat} (hidle : ∀ x ∈ s.running, ∀ y, s.raft? x.1 = some y → y.here ≠ core ∨ y.quad ≠ quad)
    (hsome : s.startable core quad ≠ [])
    (hfree : ∀ x ∈ s.startable core quad, s.startBlock x.1 x.2.2 = .free ∧ ∀ y, s.team? x.1.team = some y → s.breakHit y x.2.2 = none) :
    ∃ x ∈ s.startable core quad, (∀ y ∈ s.startable core quad, x.2.2.since ≤ y.2.2.since) ∧
      ∃ u, exec (.clauseStart core quad) s = .next u ∧ u.running = (x.1.id, x.2.1) :: s.running ∧
        u = { s with running := u.running, rafts := u.rafts, teams := u.teams } := by
  obtain ⟨⟨r, e, en⟩, hx, hleast, hmin⟩ := leastByKeys_first (fun x : Raft × Nat × Entry => x.2.2.since)
    (fun x => [if x.1.landed.isSome then 1 else 0, x.1.index, lowestLane x.2.2.mask, x.1.id]) _ hsome
  obtain ⟨tm, htm⟩ := team?_of_startable hx
  obtain ⟨hblock, hbreak⟩ := hfree _ hx
  refine ⟨_, hx, hmin, ?_⟩
  dsimp only at hleast htm hblock hbreak
  show ∃ u, execClauseStart core quad s = _ ∧ _
  unfold execClauseStart
  split
  case h_1 z hz =>
    exfalso
    have hat := List.find?_some hz
    split at hat
    · rename_i y hy
      have := hidle z (List.mem_of_find?_eq_some hz) y hy
      simp only [Bool.and_eq_true, beq_iff_eq] at hat
      omega
    · cases hat
  case h_2 =>
    simp only [hleast, htm, hbreak tm htm, hblock]
    refine ⟨_, rfl, ?_⟩
    cases tm.stepping <;> exact ⟨rfl, rfl⟩

/-! ### One raft's events: the answer where the guard is met -/

/-- No request for more registers of the raft's pool stands before one made at `since` (R139). -/
def State.FirstInPool (s : State) (r : Raft) (since : Nat) : Prop :=
  ∀ x ∈ s.poolRafts r, ∀ y ∈ x.subs, ∀ m t0, y.2.wait = .quota m t0 → since < t0 ∨ since = t0 ∧ r.id ≤ x.id

/-- The state without a raft and its lease. -/
def State.withoutRaft (s : State) (rid : Nat) : State :=
  { s with rafts := s.rafts.filter (fun y => y.id != rid), leases := s.leases.filter (fun l => l.raft != rid) }

theorem mem_raftsOf_withoutRaft {rid team : Nat} {y : Raft} :
    y ∈ (s.withoutRaft rid).raftsOf team ↔ y ∈ s.rafts ∧ y.id ≠ rid ∧ y.team = team := by
  simp [State.raftsOf, State.withoutRaft, and_comm]

section
variable {rid e n since : Nat} {r : Raft} {en : Entry} {tm : Team}
  (hr : s.raft? rid = some r) (htm : s.team? r.team = some tm) (hst : tm.stowed = none)
include hr htm hst

/-- A fetch whose words have come (R49, R51). -/
theorem clauseFetch_next {s1 : State} {cl : Clause} (he : r.entry? e = some en) (hcl : en.clause = none) (hw : en.wait = .none)
    (hh : r.halted = false) (hm : r.migrating = false) (hs : r.stopping = none) (hf : s.fetchClause tm.asid en.pc = (s1, .clause cl)) :
    exec (.clauseFetch rid e) s = .next (if cl.ok then s1.mapEntry rid e (fun x => { x with clause := some cl, since := s.clock })
      else s1.trapHeader r e en 2 0 cl.hdr) := by
  show execClauseFetch rid e s = _
  simp [execClauseFetch, hr, htm, he, hcl, hw, hh, hm, hs, hst, hf]

/-- A YIELD whose cycles are over (R140). -/
theorem yieldExpiry_next (he : r.entry? e = some en) (hw : en.wait = .yield n since) (hn : n ≤ s.elapsed r.here since)
    (hh : r.hears = true) :
    exec (.yieldExpiry rid e) s = .next (s.mapEntry rid e (fun x => { x with wait := .none, since := s.clock })) := by
  show execYieldExpiry rid e s = _
  simp [execYieldExpiry, hr, he, hw, htm, hn, hh, hst]

/-- A granted increase sets the count, and the sub-raft goes on (R139). -/
theorem quotaGrant_next (he : r.entry? e = some en) (hw : en.wait = .quota n since) (hh : r.hears = true) (hl : r.landed = none)
    (hle : r.count ≤ n) (hpool : n - r.count ≤ s.poolFree tm r) (hfirst : s.FirstInPool r since) :
    exec (.quotaGrant rid e) s = .next ((s.mapRaft rid (fun x => { x with count := n })).passWait rid e) := by
  show execQuotaGrant rid e s = _
  unfold execQuotaGrant
  simp only [hr, htm, he, hw, hh, hst, hl]
  rw [if_neg (by simp), if_neg (by simp), if_neg ?older, if_neg (by omega)]
  case older =>
    have hroom : ¬ s.poolFree tm r < n - r.count := by omega
    simp only [hroom, decide_false, Bool.or_false, List.any_eq_true, not_exists, not_and, Bool.not_eq_true]
    intro x hx y hy
    split
    · rename_i m t0 hm
      have hlater := hfirst x hx y hy m t0 hm
      simp only [Bool.or_eq_false_iff, decide_eq_false_iff_not, Bool.and_eq_false_iff, beq_eq_false_iff_ne]
      omega
    · rfl

/-- An exited raft that nothing is outstanding for goes, and with the last one its team (R121). -/
theorem raftFree_next {x : DWord × Nat} (hd : tm.dying = none) (hx : r.exitAt = some x) (hh : r.halted = false) (hs : r.stopping = none)
    (hreqs : ∀ q ∈ s.reqs, q.raft ≠ rid) (hops : ∀ o ∈ s.ops, o.raft ≠ some rid) :
    exec (.raftFree rid) s = .next (if ((s.withoutRaft rid).raftsOf tm.id).isEmpty then (s.withoutRaft rid).endTeam tm false
      else s.withoutRaft rid) := by
  have hq : s.reqs.filter (fun q => q.raft == rid) = [] := by simpa [List.filter_eq_nil_iff] using hreqs
  have ho : s.ops.filter (fun o => o.raft == some rid) = [] := by simpa [List.filter_eq_nil_iff] using hops
  show execRaftFree rid s = _
  simp [execRaftFree, hr, htm, hd, hx, hh, hs, hst, hq, ho, worst, State.withoutRaft]

end

/-! ### The end of a team (R121) -/

/-- A state that differs in its debug operations alone. -/
def onlyDebugs (s t : State) : Prop := t = { s with debugs := t.debugs }

theorem concludeOne_gone {d : DebugOp} (h : s.team? d.team = none) : onlyDebugs s (s.concludeOne d) := by
  unfold State.concludeOne
  split
  · rfl
  · rfl
  · rename_i x _ hx
    rw [h] at hx
    cases hx

theorem onlyDebugs_trans (h : onlyDebugs s t) (g : onlyDebugs t u) : onlyDebugs s u := by unfold onlyDebugs at *; rw [g, h]

/-- Debug operations on a team that is gone are told so, and nothing else changes. -/
theorem conclude_gone {id : Nat} (h : s.team? id = none) : onlyDebugs s (s.conclude id) := by
  unfold State.conclude
  have hall : ∀ d ∈ s.debugs.filter (fun d => d.team == id), d.team = id := fun d hd => by simpa using (List.mem_filter.1 hd).2
  generalize s.debugs.filter (fun d => d.team == id) = ds at hall
  induction ds generalizing s with
  | nil => rfl
  | cons d ds ih =>
    have hone := concludeOne_gone (s := s) (d := d) (by rw [hall d List.mem_cons_self]; exact h)
    refine onlyDebugs_trans hone (ih ?_ fun x hx => hall x (List.mem_cons_of_mem _ hx))
    rw [hone]
    exact h

/-- A team outside any group that ends of itself: its rafts and its context go, and its launch is told. -/
theorem endTeam_alone {tm : Team} (h : tm.group = none) :
    (s.endTeam tm false).rafts = s.rafts.filter (fun y => y.team != tm.id) ∧
    (s.endTeam tm false).teams = s.teams.filter (fun y => y.id != tm.id) ∧
    (s.endTeam tm false).launches = s.launches.map (fun l => if l.id = tm.launch then { l with ended := l.ended + 1 } else l) := by
  unfold State.endTeam
  simp only [h]
  rw [conclude_gone]
  · simp
  · simp [State.team?]

/-! ### O34 -/

/-- Settles O34: each event's guard is met, so that its one update is what it answers. -/
theorem subRaftEvents : Obligations.SubRaftEvents := by
  unfold Obligations.SubRaftEvents
  intro s rid e r tm hr htm
  refine ⟨?fetch, fun core quad hidle hsome hfree => clauseStart_next hidle hsome hfree, ?expiry, ?grant, ?free⟩
  case fetch =>
    intro en s1 cl he hcl hw hh hm hs hst hf
    have hnext := clauseFetch_next hr htm hst he hcl hw hh hm hs hf
    have hrafts : s1.rafts = s.rafts := by
      have hside := fetchClause_side s tm.asid en.pc
      rw [hf] at hside
      exact hside.rafts
    refine ⟨fun hok => ?_, fun hok => ?_⟩
    · rw [if_pos hok] at hnext
      refine ⟨_, hnext, rfl, ?_, fun id hne => ?_⟩
      · exact raft?_mapEntry_same ((raft?_of_rafts_eq hrafts rid).trans hr) he
      · rw [raft?_mapEntry_other hne, raft?_of_rafts_eq hrafts]
    · rw [hnext, if_neg (by simp [hok])]
  case expiry =>
    intro en n since he hw hn hh hst
    exact ⟨_, yieldExpiry_next hr htm hst he hw hn hh, mapEntry_onlyRaft .., raft?_mapEntry_same hr he⟩
  case grant =>
    intro en n since he hw hh hs hst hl hle hpool hfirst
    have hhears : r.hears = true := by simp [Raft.hears, hh, hs]
    have hkeepsId : ∀ x : Raft, x.id = rid → ({ x with count := n } : Raft).id = rid := fun _ hx => hx
    have hcount := raft?_mapRaft_same hkeepsId hr
    obtain ⟨honly, q, hq, hkeeps⟩ := passSlot_keeps (e := e) (fl := .next) (issued := false) hcount hs
    refine ⟨_, q, quotaGrant_next hr htm hst he hw hhears hl hle hpool hfirst,
      onlyRaft_trans (mapRaft_only hkeepsId) honly, hq, ?_⟩
    rw [hkeeps]
    exact ⟨rfl, rfl, fun _ _ => rfl, rfl⟩
  case free =>
    intro x hd hx hh hs hst hreqs hops
    have hnext := raftFree_next hr htm hst hd hx hh hs hreqs hops
    refine ⟨fun ⟨y, hother⟩ => ?_, fun hlast hg => ?_⟩
    · rw [hnext, if_neg]
      · rfl
      · rw [List.isEmpty_iff]
        exact List.ne_nil_of_mem (mem_raftsOf_withoutRaft.2 hother)
    · have hnone : (s.withoutRaft rid).raftsOf tm.id = [] := List.eq_nil_iff_forall_not_mem.2 fun y hy => by
        obtain ⟨hy, hne, hyt⟩ := mem_raftsOf_withoutRaft.1 hy
        exact hne (hlast y hy hyt)
      rw [hnone, List.isEmpty_nil, if_pos rfl] at hnext
      obtain ⟨hrafts, hteams, hlaunches⟩ := endTeam_alone (s := s.withoutRaft rid) hg
      refine ⟨_, hnext, hrafts.trans (List.filter_eq_self.2 fun y hy => ?_), hteams, hlaunches⟩
      have hyt := List.filter_eq_nil_iff.1 hnone y hy
      simpa using hyt

end Sys2Proof.Machine

namespace Sys2Proof.Machine

open Sys2Proof

/-!
BAR and its arrival (O17): what `barrierIssue` answers where the arrival may set out, and where it may not.
-/

section Barriers

variable {s s1 u : State} {c : Ctx} {i : Instr} {f : CF} {q : Raft} {fl : Flow} {ent : Ctx → Option Nat} {dest : Ctx → Option Dest}

/-! ### A slot that cannot start, and one that ends with nothing written -/

theorem holdAt_waits (h : Issues s c i) (he : exec i s = .next (s.holdAt c.r.id c.e .slot)) : Waits s c i .slot := by
  obtain ⟨hr, -, hen, -⟩ := ctx_parts h.ctx
  have hheld := raft?_mapEntry_same (f := fun en => { en with wait := .slot, since := s.clock, inside := true, able := false }) hr hen
  have hstop := settleStop_going (s := (s.mapEntry c.r.id c.e _).unrun c.r.id c.e) hheld h.going
  have hnext := he.trans (congrArg Host.Outcome.next hstop)
  refine ⟨_, _, hnext, ?_, hheld, rfl, rfl, rfl, rfl, ?_, ?_, rfl⟩
  · exact ⟨onlyRafts_trans (onlyRafts_mapEntry ..) (onlyRafts_unrun ..), fun id hne => raft?_mapEntry_other hne⟩
  · rw [entry?_setEntry_same _ hen]; rfl
  · rw [entry?_setEntry_same _ hen]; rfl

theorem leads_of_passSlot (h : Issues s c i) (he : exec i s = .next (u.passSlot c.r.id c.e fl)) (hq : u.raft? c.r.id = some q)
    (hk : keeps (c.stepped i) q) (hothers : ∀ id, id ≠ c.r.id → u.raft? id = s.raft? id)
    (hu : u = { s1 with rafts := u.rafts, running := u.running }) : Leads s s1 c i := by
  have hsame := stepped_same c i
  have hgoing : q.stopping = none := by rw [hk, hsame]; exact h.going
  obtain ⟨⟨honly, hother⟩, q', hq', hk'⟩ := passSlot_keeps (e := c.e) (fl := fl) (issued := true) hq hgoing
  have hkeeps := keeps_trans hk hk'
  refine ⟨_, q', he, by rw [honly, hu], fun id hne => (hother id hne).trans (hothers id hne), hq', ?_, ?_, ?_, fun k hks => ?_⟩
  · unfold sameRaft; rw [hkeeps, hsame]
  · rw [hkeeps, hsame]
  · rw [hkeeps, hsame]
  · have hs : q'.sreg k = (c.stepped i).sreg k := by rw [hkeeps]; rfl
    exact hs.trans (foldl_stepStream_sreg _ _ hks)

theorem passSlot_gone {rid e : Nat} (hq : s.raft? rid = some q) (hs : q.stopping = none) : (s.passSlot rid e .gone).raft? rid = some q := by
  have hid := raft?_id hq
  have hset : (s.setRaft q).raft? rid = some q := by
    rw [← hid] at hq ⊢; exact raft?_setRaft_same hq
  have hskid : ({ q with skid := if q.stopping.isSome && true then q.skid + 1 else q.skid } : Raft) = q := by
    rw [show (if q.stopping.isSome && true then q.skid + 1 else q.skid) = q.skid by simp [hs]]
  have hstop : (((s.setRaft q).unrun rid e).settleStop rid).raft? rid = some q := by
    rw [settleStop_going (s := (s.setRaft q).unrun rid e) hset hs]; exact hset
  simp only [State.passSlot, hq, hskid]
  split
  · exact hstop
  · split <;> exact hstop

/-! ### BAR -/

/-- The arrival that a BAR sends to its object (R129, R131). -/
def State.arrival (s : State) (c : Ctx) (f : CF) (ent : Option Nat) (dest : Option Dest) : Req :=
  { id := s.nextId, raft := c.r.id, core := c.r.here, kind := .arrive (c.sval (nextReg f.a 2)).toNat ent, acq := false, rel := true
    scope := field f.off.toNat 2 0, mask := 0xFF, lanes := c.active, dest := dest
    parts := [⟨0, .virt c.t.asid, (c.sval64 f.a).toNat, 64, 0, none⟩], data := [], got := [], tags := 0, tagLanes := []
    binds := [], missed := [], twin := none, born := s.nextId, early := false, checked := false
    replay := false, fault := none, pc := c.cl.pc, slot := c.en.slot, instr := c.word }

/-- A BAR whose checks pass, and whose release has been performed (R85, R91, R131). -/
structure BarReady (s : State) (c : Ctx) (f : CF) : Prop where
  converged : c.r.converged = true
  canonical : canonical (c.sval64 f.a).toNat = true
  aligned : (c.sval64 f.a).toNat % 64 = 0
  released : worst (s.releaseWork c.r.id 0xFF) = .free

theorem issue_stall {body : State → Ctx → Res} (h : Issues s c i)
    (hb : body (s.stepStreams c.r.id (c.streamsRead i)) c = .stall (s.stepStreams c.r.id (c.streamsRead i)) .slot) :
    issue i s body = .next (s.holdAt c.r.id c.e .slot) := by
  simp only [issue, h.ctx, State.issueWith, h.legal, h.free, hb]
  rfl

/-- Where the loads counter is full for a BAR.arrive, or a link on the way is backed up, the BAR waits at its slot. -/
theorem barrierIssue_unsent (h : Issues s c i) (hb : BarReady s c f)
    (hfull : ((ent c).isNone = true ∧ 65535 ≤ s.counter c.r.id 4) ∨ s.sendable (s.arrival c f (ent c) (dest c)) = false) :
    barrierIssue i f s ent dest = .next (s.holdAt c.r.id c.e .slot) := by
  refine issue_stall h <| (if_neg (by simp [hb.converged])).trans <| (if_neg (by simp [hb.canonical])).trans <|
    (if_neg (by simp [hb.aligned])).trans ?_
  show (if ((ent c).isNone && decide (65535 ≤ s.counter c.r.id 4)) = true then _ else _) = _
  by_cases hroom : (ent c).isNone = true ∧ 65535 ≤ s.counter c.r.id 4
  · exact if_pos (by simpa using hroom)
  · refine (if_neg (by simpa using hroom)).trans <| (congrArg (Block.orElse · _ _) hb.released).trans ?_
    exact if_pos (show (!s.sendable (s.arrival c f (ent c) (dest c))) = true by rw [hfull.resolve_left hroom]; rfl)

/-- The state with a BAR's arrival on its way, its streams having advanced. -/
def State.withArrival (s : State) (c : Ctx) (i : Instr) (f : CF) (ent : Option Nat) (dest : Option Dest) : State :=
  (s.withReq (s.arrival c f ent dest)).stepStreams c.r.id (c.streamsRead i)

theorem barArrive_sent (h : Issues s c (.barArrive f)) (hb : BarReady s c f) (hroom : s.counter c.r.id 4 < 65535)
    (hsend : s.sendable (s.arrival c f none (some ⟨f.d, 1, c.active, true, 384⟩)) = true) :
    exec (.barArrive f) s =
      .next ((s.withArrival c (.barArrive f) f none (some ⟨f.d, 1, c.active, true, 384⟩)).passSlot c.r.id c.e .next) := by
  refine issue_done h <| (if_neg (by simp [hb.converged])).trans <| (if_neg (by simp [hb.canonical])).trans <|
    (if_neg (by simp [hb.aligned])).trans <| (if_neg ?_).trans <| (congrArg (Block.orElse · _ _) hb.released).trans <| if_neg ?_
  · show ¬(decide (65535 ≤ s.counter c.r.id 4)) = true
    simpa using hroom
  · show ¬(!s.sendable (s.arrival c f none (some ⟨f.d, 1, c.active, true, 384⟩))) = true
    simp [hsend]

theorem barSync_sent (h : Issues s c (.barSync f)) (hb : BarReady s c f) (hsend : s.sendable (s.arrival c f (some c.e) none) = true) :
    exec (.barSync f) s = .next ((((s.withArrival c (.barSync f) f (some c.e) none).mapEntry c.r.id c.e
      (fun en => { en with wait := .barrier (c.sval64 f.a).toNat none })).unrun c.r.id c.e).passSlot c.r.id c.e .gone) := by
  refine issue_done h <| (if_neg (by simp [hb.converged])).trans <| (if_neg (by simp [hb.canonical])).trans <|
    (if_neg (by simp [hb.aligned])).trans <| (if_neg (by simp)).trans <| (congrArg (Block.orElse · _ _) hb.released).trans <| if_neg ?_
  show ¬(!s.sendable (s.arrival c f (some c.e) none)) = true
  simp [hsend]

theorem withArrival_raft? (h : s.ctx = some c) (ent : Option Nat) (dest : Option Dest) :
    (s.withArrival c i f ent dest).raft? c.r.id = some (c.stepped i) :=
  raft?_stepStreams h i
theorem withArrival_raft?_other {id : Nat} (hne : id ≠ c.r.id) (ent : Option Nat) (dest : Option Dest) :
    (s.withArrival c i f ent dest).raft? id = s.raft? id := raft?_stepStreams_other s _ _ hne

theorem barArrive_leads (h : Issues s c (.barArrive f)) (hb : BarReady s c f) (hroom : s.counter c.r.id 4 < 65535)
    (hsend : s.sendable (s.arrival c f none (some ⟨f.d, 1, c.active, true, 384⟩)) = true) :
    Leads s (s.withReq (s.arrival c f none (some ⟨f.d, 1, c.active, true, 384⟩))) c (.barArrive f) :=
  leads_of_passSlot h (barArrive_sent h hb hroom hsend) (withArrival_raft? h.ctx _ _) (keeps_refl _)
    (fun _ hne => withArrival_raft?_other hne _ _) rfl

theorem barSync_leads (h : Issues s c (.barSync f)) (hb : BarReady s c f) (hsend : s.sendable (s.arrival c f (some c.e) none) = true) :
    Leads s (s.withReq (s.arrival c f (some c.e) none)) c (.barSync f) ∧
    ∃ t q, exec (.barSync f) s = .next t ∧ t.raft? c.r.id = some q ∧
      q.entry? c.e = some { c.en with wait := .barrier (c.sval64 f.a).toNat none } := by
  obtain ⟨-, -, hen, -⟩ := ctx_parts h.ctx
  have hsame := stepped_same c (.barSync f)
  have hentry : (c.stepped (.barSync f)).entry? c.e = some c.en := by rw [hsame]; exact hen
  have hgoing : (c.stepped (.barSync f)).stopping = none := by rw [hsame]; exact h.going
  have hq := raft?_mapEntry_same (f := fun en => { en with wait := .barrier (c.sval64 f.a).toNat none })
    (withArrival_raft? (i := .barSync f) (f := f) h.ctx (some c.e) none) hentry
  have hnext := barSync_sent h hb hsend
  refine ⟨leads_of_passSlot h hnext hq (keeps_setEntry _ _ _) (fun id hne => ?_) rfl, _, _, hnext, passSlot_gone hq hgoing,
    entry?_setEntry_same _ hentry⟩
  exact (raft?_mapEntry_other hne).trans (withArrival_raft?_other hne _ _)

end Barriers

/-- Settles O17: past its checks and its release a BAR either stalls or adds its arrival to the requests, and of its raft changes
the place alone. -/
theorem barriersSendArrivals : Obligations.BarriersSendArrivals := by
  unfold Obligations.BarriersSendArrivals
  intro s c f hconv hcanon halign hrel
  have hb : BarReady s c f := ⟨hconv, hcanon, halign, hrel⟩
  refine ⟨fun h hsend => ?_, fun h hsend => barSync_leads h hb hsend, fun h hfull => ?_, fun h hroom hsend => barArrive_leads h hb hroom hsend⟩
  · exact holdAt_waits h (barrierIssue_unsent h hb (.inr hsend))
  · exact holdAt_waits h (barrierIssue_unsent h hb (hfull.imp_left fun hfull => ⟨rfl, hfull⟩))

end Sys2Proof.Machine

namespace Sys2Proof.Machine

open Sys2Proof

/-!
MOORED_READMIT performs nothing of a team that is being terminated (R374), which the statement of O38 leaves out.
-/

/-- A raft of a team that has been killed, with an FCOPY that has been suspended at address 0, whose line L2 holds by now (R93, R387). -/
def State.killedSuspended : State :=
  let s := State.reset.withClause (probeClause 0)
  { s with
    teams := s.teams.map (fun t => { t with dying := some 42 })
    ops := [{ Op.blank 3 (.fcopy ⟨0, 0, 384#9, 0, 0, 0, 0⟩) with raft := some 2, team := some 1, cls := 1, susp := some 0, replay := true }]
    lines := [⟨0, 0, List.replicate 128 0, false, true, true, true, false, false, []⟩] }

theorem mooredReadmit_dying {s : State} {rid : Nat} {r : Raft} {t : Team} (hr : s.raft? rid = some r) (ht : s.team? r.team = some t)
    (hd : t.dying.isSome = true) : exec (.mooredReadmit rid) s = .next s := by
  show execMooredReadmit rid s = _
  simp [execMooredReadmit, hr, ht, hd]

/-- Refutes O38: the team of its second clause may be one that is being terminated. The suspended operations of such a team are
abandoned (R374), so that MOORED_READMIT leaves the one of `State.killedSuspended` in the replay list, from which the clause has it go. -/
theorem not_mooredAndMigratingRafts : ¬ Obligations.MooredAndMigratingRafts := by
  unfold Obligations.MooredAndMigratingRafts
  intro h
  let s := State.killedSuspended
  obtain ⟨r, hr, t, ht, hstowed, hdying⟩ : ∃ r, s.raft? 2 = some r ∧ ∃ t, s.team? r.team = some t ∧ t.stowed = none ∧
      t.dying.isSome = true := ⟨_, rfl, _, rfl, rfl, rfl⟩
  obtain ⟨o, ho, hraft, hreplay⟩ : ∃ o ∈ s.ops, o.raft = some 2 ∧ o.replay = true := ⟨_, List.mem_singleton.2 rfl, rfl, rfl⟩
  have hready : s.replayReady 2 = true := by decide
  have hreqs : ∀ q ∈ s.reqs, q.raft = 2 → q.replay = false := by simp [s, State.killedSuspended, State.withClause, State.reset]
  obtain ⟨-, hsuspended, -⟩ := h s 2 r t hr ht hstowed
  obtain ⟨u, q, hexec, -, -, hleft, -⟩ := hsuspended hready hreqs (.inl ⟨o, ho, hraft, hreplay⟩)
  rw [mooredReadmit_dying hr ht hdying] at hexec
  obtain rfl := Host.Outcome.next.inj hexec
  simp [hleft o ho hraft] at hreplay

end Sys2Proof.Machine

namespace Sys2Proof.Machine

open Sys2Proof

/-!
Requests that are performed (O36). `Finished` says what the end of a request leaves; a clause's event then is the operation on its
line, tile memory or home, followed by that end.
-/

section Performance

variable {s t u : State} {q : Req} {r : Raft} {d : Dest}

/-! ### Bytes written over bytes -/

theorem overlay_length {α : Type} {xs ys : List α} {i : Nat} (h : i + ys.length ≤ xs.length) : (overlay xs i ys).length = xs.length := by
  simp only [overlay, List.length_append, List.length_take, List.length_drop]
  omega

theorem overlay_slice {α : Type} {xs : List α} {i n : Nat} (h : i + n ≤ xs.length) : overlay xs i ((xs.drop i).take n) = xs := by
  have hn : ((xs.drop i).take n).length = n := by simp; omega
  rw [overlay, hn, List.append_assoc, ← List.drop_drop, List.take_append_drop, List.take_append_drop]

theorem overlay_whole {α : Type} {xs ys : List α} (h : ys.length = xs.length) : overlay xs 0 ys = ys := by
  simp [overlay, h]

theorem Part.give_length {p : Part} {val : Sparse 8} {data : List Byte} (h : p.addr % 128 + p.len ≤ 128) (hd : data.length = 128) :
    (p.give val data).length = 128 := by
  unfold Part.give
  cases p.nibble with
  | none => exact (overlay_length (by simpa [sgets, hd] using h)).trans hd
  | some h => exact (overlay_length (by simp only [List.length_singleton]; omega)).trans hd

theorem gives_length {val : Sparse 8} {ps : List Part} : ∀ {data : List Byte}, (∀ p ∈ ps, p.addr % 128 + p.len ≤ 128) →
    data.length = 128 → (ps.foldl (fun d p => p.give val d) data).length = 128 := by
  induction ps with
  | nil => exact fun _ hd => hd
  | cons p ps ih =>
    exact fun h hd => ih (fun x hx => h x (List.mem_cons_of_mem _ hx)) (Part.give_length (h p (List.mem_cons_self ..)) hd)

/-! ### A reply written to its destination (R53, R124) -/

theorem setGroup_regs (xs : List Word) : ∀ (r : Raft) (first : RegNum) (l : Nat), r.setGroup first l xs =
    { r with v := (r.setGroup first l xs).v, s := (r.setGroup first l xs).s, streams := (r.setGroup first l xs).streams } := by
  induction xs with
  | nil => intros; rfl
  | cons x xs ih =>
    intro r first l
    simp only [Raft.setGroup]
    cases Kind.of first with
    | vec => simp only [reduceCtorEq, if_false]; rw [ih, setV_same]
    | scl => simp only [reduceCtorEq, if_false]; rw [ih]; rfl
    | zero => rfl
    | special | pred | none => simp only [reduceCtorEq, if_false]; exact ih ..

theorem setLanes_regs (ls : List Nat) : ∀ (r : Raft) (first : RegNum) (val : Nat → List Word), r.setLanes first val ls =
    { r with v := (r.setLanes first val ls).v, s := (r.setLanes first val ls).s, streams := (r.setLanes first val ls).streams } := by
  induction ls with
  | nil => intros; rfl
  | cons l ls ih => intro r first val; rw [Raft.setLanes, ih, setGroup_regs]

/-- A raft as a reply to a destination finds it: registers above the cap of a v destination are gone (R139). -/
def Dest.capped (d : Dest) (r : Raft) : Raft := { r with count := min r.count (if Kind.of d.first = Kind.vec then d.cap else r.count) }
/-- A raft with a reply written to its destination. -/
def Dest.receive (d : Dest) (val : Nat → List Word) (r : Raft) : Raft :=
  match lanesOf 64 d.lanes with
  | [] => r
  | l :: ls =>
    { (if Kind.of d.first = .scl then (d.capped r).setGroup d.first l (val l)
       else (d.capped r).setLanes d.first (if d.uniform then fun _ => val l else val) (l :: ls)) with count := r.count }

theorem deliver_eq (s : State) (rid : Nat) (d : Dest) (val : Nat → List Word) :
    s.deliver rid d val = (s.mapRaft rid (d.receive val)).refresh rid := by
  unfold State.deliver
  congr 2
  funext r
  unfold Dest.receive
  cases lanesOf 64 d.lanes <;> rfl

theorem receive_regs (d : Dest) (val : Nat → List Word) (r : Raft) : d.receive val r =
    { r with v := (d.receive val r).v, s := (d.receive val r).s, streams := (d.receive val r).streams } := by
  unfold Dest.receive
  cases lanesOf 64 d.lanes with
  | nil => rfl
  | cons l ls =>
    dsimp only
    split
    · rw [setGroup_regs]; rfl
    · rw [setLanes_regs]; rfl

theorem receive_vec {val : Nat → List Word} {n : Nat} (hk : Kind.of d.first = .vec) (hu : d.uniform = true → ∀ l m, val l = val m)
    (hn : ∀ l, (val l).length = n) (hfit : d.first.toNat + n ≤ min 384 (min r.count d.cap)) :
    (d.receive val r).s = r.s ∧
    ∀ l ∈ lanesOf 64 d.lanes, ∀ j x, (val l)[j]? = some x → (d.receive val r).vreg (d.first.toNat + j) l = x := by
  have hlanes : ∀ l ∈ lanesOf 64 d.lanes, l < 64 := fun l hl => lanes_lt hl
  have hcount : (d.capped r).count = min r.count d.cap := by simp [Dest.capped, hk]
  unfold Dest.receive
  cases hls : lanesOf 64 d.lanes with
  | nil => simp
  | cons l ls =>
    rw [hls] at hlanes
    have hvals : (if d.uniform then fun _ => val l else val) = val := by
      split
      · rename_i hun; exact funext fun m => hu hun l m
      · rfl
    obtain ⟨hframe, hval⟩ := setLanes_vec (l :: ls) (d.capped r) d.first val n (fun m hm => ⟨hlanes m hm, hn m⟩)
      (by omega) (by omega)
    dsimp only
    rw [if_neg (by simp [hk]), hvals]
    refine ⟨(congrArg Raft.s hframe).trans rfl, fun m hm j x hx => (hval _ m (hlanes m hm)).trans ?_⟩
    rw [if_pos ⟨hm, by omega⟩, Nat.add_sub_cancel_left, hx, Option.getD_some]

theorem receive_scl {val : Nat → List Word} (hk : Kind.of d.first = .scl) (hl : lanesOf 64 d.lanes ≠ [])
    (hfit : d.first.toNat + (val ((lanesOf 64 d.lanes).headD 0)).length ≤ 448) :
    (d.receive val r).v = r.v ∧
    ∀ j x, (val ((lanesOf 64 d.lanes).headD 0))[j]? = some x → (d.receive val r).sreg (d.first.toNat - 384 + j) = x := by
  unfold Dest.receive
  cases hls : lanesOf 64 d.lanes with
  | nil => exact absurd hls hl
  | cons l ls =>
    rw [hls] at hfit
    obtain ⟨hframe, hval⟩ := setGroup_scl (val l) (d.capped r) d.first l (kind_scl.1 hk).1 hfit
    dsimp only
    rw [if_pos hk]
    refine ⟨(congrArg Raft.v hframe).trans rfl, fun j x hx => (hval _).trans ?_⟩
    rw [if_pos (by omega), Nat.add_sub_cancel_left]
    exact (congrArg (Option.getD · _) hx).trans (Option.getD_some ..)

/-! ### Rafts that change in their seats -/

/-- A change of a raft that leaves its name, its team and its place on a core. -/
def KeepsSeat (f : Raft → Raft) : Prop := ∀ r, (f r).id = r.id ∧ (f r).team = r.team ∧ (f r).landed = r.landed ∧ (f r).core = r.core

theorem keepsSeat_receive (d : Dest) (val : Nat → List Word) : KeepsSeat (d.receive val) := fun r => by
  rw [receive_regs]; exact ⟨rfl, rfl, rfl, rfl⟩

theorem raft?_mapRaft {f : Raft → Raft} (hf : KeepsSeat f) (s : State) (rid : Nat) : (s.mapRaft rid f).raft? rid = (s.raft? rid).map f := by
  cases h : s.raft? rid with
  | some r => exact raft?_mapRaft_same (fun x hx => (hf x).1.trans hx) h
  | none =>
    refine List.find?_eq_none.2 fun y hy => ?_
    obtain ⟨x, hx, rfl⟩ := List.mem_map.1 hy
    have hne := List.find?_eq_none.1 h x hx
    split
    · rename_i hid; simp [hid] at hne
    · exact hne

theorem away_mapRaft {f : Raft → Raft} (hf : KeepsSeat f) (s : State) (rid : Nat) : (s.mapRaft rid f).away rid = s.away rid := by
  rw [State.away, raft?_mapRaft hf, State.away]
  cases s.raft? rid with
  | none => rfl
  | some r => simp only [Option.map_some, Option.bind_some, (hf r).2.1]; rfl

theorem scopeOf_mapRaft {f : Raft → Raft} (hf : KeepsSeat f) (s : State) (rid team n : Nat) :
    (s.mapRaft rid f).scopeOf team n = s.scopeOf team n := by
  have hlanded : ((s.mapRaft rid f).raftsOf team).any (fun r => r.landed.isSome) = (s.raftsOf team).any (fun r => r.landed.isSome) := by
    simp only [State.raftsOf, State.mapRaft, List.any_filter, List.any_map]
    congr 1
    funext r
    simp only [Function.comp_apply]
    split
    · rw [(hf r).2.1, (hf r).2.2.1]
    · rfl
  unfold State.scopeOf
  rw [hlanded]
  rfl

/-- The frame of a raft whose team is not stowed stands in no slot (R20). -/
theorem refresh_of_not_away {rid : Nat} (h : s.away rid = false) : s.refresh rid = s := by
  unfold State.away at h
  unfold State.refresh
  cases hb : (s.raft? rid).bind (fun r => s.team? r.team) with
  | none => rfl
  | some tm =>
    have hstowed : tm.stowed = none := by simpa [hb] using h
    simp only [hstowed]

theorem deliver_of_not_away {rid : Nat} (h : s.away rid = false) (d : Dest) (val : Nat → List Word) :
    s.deliver rid d val = s.mapRaft rid (d.receive val) := by
  rw [deliver_eq, refresh_of_not_away]
  rw [away_mapRaft (keepsSeat_receive d val), h]

/-- The sub-rafts of a raft whose header waits are met by a change from s to t, with their ages (R105). -/
def State.readySplit (s t : State) (r : Raft) : Raft := { r with split := r.split.map (fun x => x.map (fun en =>
  if en.wait = .none ∧ r.halted = false ∧ s.startBlock r en = .wait ∧ t.startBlock r en ≠ .wait then { en with since := t.clock } else en)) }

theorem nowReady_eq (s t : State) (rid : Nat) : s.nowReady t rid = t.mapRaft rid (s.readySplit t) := rfl

theorem keepsSeat_readySplit (s t : State) : KeepsSeat (s.readySplit t) := fun _ => ⟨rfl, rfl, rfl, rfl⟩

theorem onlyAges_mapRaft {f : Raft → Raft} (hf : ∀ r, { f r with split := [] } = { r with split := [] }) (s : State) (rid : Nat) :
    onlyAges s (s.mapRaft rid f) := by
  simp only [onlyAges, State.mapRaft, List.map_map]
  refine List.map_congr_left fun r _ => ?_
  simp only [Function.comp_apply]
  split
  · exact hf r
  · rfl

/-! ### The end of a request (R85, R93) -/

/-- What a request writes to a lane of its destination: in a uniform slot what its lowest lane has read (R53). -/
def Req.destVal (q : Req) (d : Dest) (l : Nat) : List Word := q.result (if d.uniform then (lanesOf 64 q.lanes).headD 0 else l)

theorem destVal_length (q : Req) (d : Dest) (l : Nat) : (q.destVal d l).length = (q.result 0).length := by
  unfold Req.destVal Req.result
  cases q.kind with
  | load n sg => simp
  | loadRec rec rc sat => dsimp only; split <;> rfl
  | atom fn => simp
  | cas n => simp
  | store | setfe | rrot | arrive | fence => rfl

theorem destVal_uniform (q : Req) {d : Dest} (h : d.uniform = true) (l m : Nat) : q.destVal d l = q.destVal d m := by
  simp [Req.destVal, h]

/-- The destination of a request holds its result, in the raft that waits for it. -/
def Delivered (s : State) (q : Req) (u : State) : Prop := ∀ r d, s.raft? q.raft = some r → q.dest = some d → lanesOf 64 d.lanes ≠ [] →
  ∃ y, u.raft? q.raft = some y ∧ y.p = r.p ∧
    (Kind.of d.first = .vec → (∀ l ∈ lanesOf 64 d.lanes, d.first.toNat + (q.destVal d l).length ≤ min 384 (min r.count d.cap)) →
      y.s = r.s ∧ ∀ l ∈ lanesOf 64 d.lanes, ∀ j x, (q.destVal d l)[j]? = some x → y.vreg (d.first.toNat + j) l = x) ∧
    (Kind.of d.first = .scl → d.first.toNat + (q.destVal d ((lanesOf 64 d.lanes).headD 0)).length ≤ 448 →
      y.v = r.v ∧ ∀ j x, (q.destVal d ((lanesOf 64 d.lanes).headD 0))[j]? = some x → y.sreg (d.first.toNat - 384 + j) = x)

/-- The L1 lines that an acquire at cluster scope or above names are gone, and no others (R85). -/
def Dropped (s : State) (q : Req) (x : State) (l1 : List L1Line) : Prop := ∀ r t, s.raft? q.raft = some r → s.team? r.team = some t →
  l1 = (if q.acq = true ∧ 2 ≤ s.scopeOf t.id q.scope then (x.dropNamed r.here t.asid q.binds q.mask).l1 else x.l1)

/-- A request has left the state for its end: it is gone, its destination is written, and its acquire has dropped its lines. -/
structure Finished (s : State) (q : Req) (u : State) : Prop where
  frame : u = { s with reqs := s.reqs.filter (fun x => x.id != q.id), rafts := u.rafts, l1 := u.l1 }
  delivered : Delivered s q u
  dropped : Dropped s q s u.l1
  ages : q.dest = none → onlyAges s u

/-- A raft as a request of it ends: its waiting sub-rafts are ready, and the destination is written. -/
def State.settleReq (s : State) (q : Req) (r : Raft) : Raft :=
  let r' := s.readySplit (s.dropReq q.id) r
  match q.dest with
  | some d => d.receive (q.destVal d) r'
  | none => r'
theorem settleReq_none (s : State) (hd : q.dest = none) : s.settleReq q = s.readySplit (s.dropReq q.id) := by
  funext r; simp only [State.settleReq, hd]
theorem settleReq_some (s : State) (hd : q.dest = some d) :
    s.settleReq q = fun r => d.receive (q.destVal d) (s.readySplit (s.dropReq q.id) r) := by
  funext r; simp only [State.settleReq, hd]

/-- The L1 drop that ends an acquire. -/
def State.endAcquire (s : State) (q : Req) : State := match q.acq, s.raft? q.raft with
  | true, some r => match s.team? r.team with
    | some t => if s.scopeOf t.id q.scope < 2 then s else s.dropNamed r.here t.asid q.binds q.mask
    | none => s
  | _, _ => s

theorem keepsSeat_settleReq (s : State) (q : Req) : KeepsSeat (s.settleReq q) := fun r => by
  cases hd : q.dest with
  | none => rw [settleReq_none s hd]; exact keepsSeat_readySplit _ _ r
  | some d => rw [settleReq_some s hd]; exact keepsSeat_receive d _ (s.readySplit (s.dropReq q.id) r)

theorem mapRaft_mapRaft {f g : Raft → Raft} (hf : KeepsSeat f) (s : State) (rid : Nat) :
    (s.mapRaft rid f).mapRaft rid g = s.mapRaft rid (fun r => g (f r)) := by
  simp only [State.mapRaft, List.map_map]
  congr 1
  refine List.map_congr_left fun r _ => ?_
  by_cases hr : r.id = rid
  · simp [hr, (hf r).1]
  · simp [hr]

theorem finishReq_eq (h : s.away q.raft = false) :
    s.finishReq q = ((s.dropReq q.id).mapRaft q.raft (s.settleReq q)).endAcquire q := by
  have hseat := keepsSeat_readySplit s (s.dropReq q.id)
  have hsettled : (match q.dest with
      | some d => (s.nowReady (s.dropReq q.id) q.raft).deliver q.raft d (q.destVal d)
      | none => s.nowReady (s.dropReq q.id) q.raft) = (s.dropReq q.id).mapRaft q.raft (s.settleReq q) := by
    cases hd : q.dest with
    | none => rw [settleReq_none s hd]; rfl
    | some d =>
      have haway : (s.nowReady (s.dropReq q.id) q.raft).away q.raft = false := by rw [nowReady_eq, away_mapRaft hseat]; exact h
      rw [settleReq_some s hd, ← mapRaft_mapRaft hseat, ← nowReady_eq]
      exact deliver_of_not_away haway d _
  rw [← hsettled]
  rfl

theorem endAcquire_frame (s : State) (q : Req) : s.endAcquire q = { s with l1 := (s.endAcquire q).l1 } := by
  unfold State.endAcquire
  split
  · split
    · split <;> rfl
    · rfl
  · rfl

theorem endAcquire_l1 {tm : Team} (hr : s.raft? q.raft = some r) (ht : s.team? r.team = some tm) :
    (s.endAcquire q).l1 = if q.acq = true ∧ 2 ≤ s.scopeOf tm.id q.scope then (s.dropNamed r.here tm.asid q.binds q.mask).l1 else s.l1 := by
  simp only [State.endAcquire, hr]
  cases q.acq with
  | false => simp
  | true =>
    simp only [ht, true_and]
    by_cases hscope : s.scopeOf tm.id q.scope < 2
    · rw [if_pos hscope, if_neg (by omega)]
    · rw [if_neg hscope, if_pos (by omega)]

theorem settleReq_delivered (hr : s.raft? q.raft = some r) (hu : u.raft? q.raft = some (s.settleReq q r)) : Delivered s q u := by
  intro r' d hr' hd hl
  obtain rfl := Option.some.inj (hr.symm.trans hr')
  have hsettle : s.settleReq q r = d.receive (q.destVal d) (s.readySplit (s.dropReq q.id) r) := by rw [settleReq_some s hd]
  refine ⟨_, hu, by rw [hsettle, receive_regs]; rfl, fun hk hfit => ?_, fun hk hfit => ?_⟩
  · obtain ⟨l, ls, hls⟩ := List.exists_cons_of_ne_nil hl
    rw [hsettle]
    refine receive_vec (n := (q.result 0).length) hk (destVal_uniform q) (destVal_length q d) ?_
    rw [← destVal_length q d l]
    exact hfit l (hls ▸ List.mem_cons_self ..)
  · rw [hsettle]
    exact receive_scl hk hl hfit

/-- What the end of a request of a raft whose team is not stowed leaves. -/
theorem finishReq_finished (h : s.away q.raft = false) : Finished s q (s.finishReq q) := by
  have hseat := keepsSeat_settleReq s q
  let s2 := (s.dropReq q.id).mapRaft q.raft (s.settleReq q)
  have hframe : s.finishReq q = { s2 with l1 := (s.finishReq q).l1 } := by rw [finishReq_eq h]; exact endAcquire_frame s2 q
  have hrafts : (s.finishReq q).rafts = s2.rafts := by rw [hframe]
  have hraft {r : Raft} (hr : s.raft? q.raft = some r) : s2.raft? q.raft = some (s.settleReq q r) :=
    (raft?_mapRaft hseat _ _).trans (congrArg (Option.map _) hr)
  refine ⟨by rw [hrafts, hframe]; rfl, fun r d hr => ?_, fun r tm hr ht => ?_, fun hd => ?_⟩
  · refine settleReq_delivered hr ?_ r d hr
    rw [raft?_of_rafts_eq hrafts, hraft hr]
  · have ht2 : s2.team? (s.settleReq q r).team = some tm := by rw [(hseat r).2.1]; exact ht
    have hhere : (s.settleReq q r).here = r.here := by rw [Raft.here, (hseat r).2.2.1, (hseat r).2.2.2]; rfl
    rw [finishReq_eq h, endAcquire_l1 (hraft hr) ht2, hhere, scopeOf_mapRaft hseat]
    rfl
  · have hages : onlyAges (s.dropReq q.id) s2 := onlyAges_mapRaft (fun r => by rw [settleReq_none s hd]; rfl) _ _
    unfold onlyAges at *
    rw [hrafts, hages]
    rfl

theorem partsDone_finished {mine : List Part} (h : s.away q.raft = false) (hall : ∀ p ∈ q.parts, p ∈ mine) :
    Finished s q (s.partsDone q mine) := by
  have hless : (q.less mine).parts.isEmpty = true := by
    simpa [Req.less, List.filter_eq_nil_iff] using hall
  rw [State.partsDone, if_pos hless]
  obtain ⟨hframe, hdelivered, hdropped, hages⟩ := finishReq_finished (q := q.less mine) h
  exact ⟨hframe, hdelivered, hdropped, hages⟩

/-! ### What an access at a home or a port leaves of the rafts and requests -/

/-- The rafts, the teams and the requests are the same. -/
structure SameWork (s t : State) : Prop where
  rafts : t.rafts = s.rafts
  teams : t.teams = s.teams
  reqs : t.reqs = s.reqs

theorem SameWork.refl (s : State) : SameWork s s := ⟨rfl, rfl, rfl⟩
theorem SameWork.trans (h : SameWork s t) (g : SameWork t u) : SameWork s u :=
  ⟨g.rafts.trans h.rafts, g.teams.trans h.teams, g.reqs.trans h.reqs⟩
theorem Side.sameWork (h : Side s t) : SameWork s t := by
  rw [h.frame]; exact ⟨rfl, rfl, rfl⟩
theorem side_of_ensure {asid va : Nat} {acc : Acc} {v : Verdict} (h : s.ensure asid va acc = (t, v)) : Side s t := by
  have := ensure_side s asid va acc false
  rwa [h] at this
theorem sameWork_draw (s : State) : SameWork s s.draw.2 := ⟨rfl, rfl, rfl⟩

theorem SameWork.raft? (h : SameWork s t) (id : Nat) : t.raft? id = s.raft? id := raft?_of_rafts_eq h.rafts id
theorem SameWork.team? (h : SameWork s t) (id : Nat) : t.team? id = s.team? id := by rw [State.team?, h.teams]; rfl
theorem SameWork.away (h : SameWork s t) (rid : Nat) : t.away rid = s.away rid := by
  have hteam : t.team? = s.team? := funext h.team?
  simp only [State.away, h.raft?, hteam]
theorem SameWork.scopeOf (h : SameWork s t) (team n : Nat) : t.scopeOf team n = s.scopeOf team n := by
  rw [State.scopeOf, State.raftsOf, h.team?, h.rafts]; rfl

/-- The end of a request after an access that has left the rafts, the teams and the requests. -/
theorem Finished.since (h : SameWork s t) (g : Finished t q u) : u.reqs = s.reqs.filter (fun x => x.id != q.id) ∧ Delivered s q u ∧
    Dropped s q t u.l1 ∧ (q.dest = none → onlyAges s u) := by
  obtain ⟨hframe, hdelivered, hdropped, hages⟩ := g
  refine ⟨by rw [hframe, h.reqs], fun r d hr => hdelivered r d ((h.raft? _).trans hr), fun r tm hr ht => ?_, fun hd => ?_⟩
  · rw [hdropped r tm ((h.raft? _).trans hr) ((h.team? _).trans ht), h.scopeOf]
  · have := hages hd
    unfold onlyAges at *
    rw [this, h.rafts]

theorem sameWork_arenaLine (s : State) (asid va : Nat) (data : List Byte) : SameWork s (s.arenaLine asid va data).1 := by
  unfold State.arenaLine
  split <;> exact ⟨rfl, rfl, rfl⟩

theorem sameWork_lineForLoad (s : State) (q : Req) (sp : Space) (line : Nat) : SameWork s (s.lineForLoad q sp line).1 := by
  have hchoose : SameWork s s.choose.2 := ⟨rfl, rfl, rfl⟩
  unfold State.lineForLoad
  split
  · exact .refl s
  · rename_i asid
    dsimp only
    split
    · exact hchoose.trans (sameWork_arenaLine ..)
    · split
      · exact hchoose
      · have hensure := hchoose.trans (ensure_side s.choose.2 asid (128 * line) .read false).sameWork
        split
        · rename_i hok
          rw [hok] at hensure
          exact hensure.trans <| (sameWork_arenaLine ..).trans ⟨rfl, rfl, rfl⟩
        · rename_i hstopped
          rw [hstopped] at hensure
          exact hensure

/-! ### A request in one line, and its moves -/

/-- A line's bytes with those of a stored value over them. -/
def Req.give (q : Req) (data : List Byte) : List Byte := q.parts.foldl (fun d p => p.give q.data d) data

/-- A request that has been reported and may be performed, all of whose parts lie in one line. -/
structure OneLine (s : State) (q : Req) (sp : Space) (line : Nat) : Prop where
  named : s.req? q.id = some q
  unlisted : q.replay = false
  sound : q.fault = none
  checked : q.checked = true
  present : s.away q.raft = false
  parts : ∀ p ∈ q.parts, p.space = sp ∧ p.addr / 128 = line ∧ p.addr % 128 + p.len ≤ 128
  nonempty : q.parts ≠ []

variable {sp : Space} {line core asid : Nat} {data : List Byte}

namespace OneLine

theorem moveReq (h : OneLine s q sp line) : s.moveReq q = s.advanceReq q := by
  have hparts : q.parts.isEmpty = false := by simpa using h.nonempty
  simp [State.moveReq, h.unlisted, h.sound, h.present, hparts, h.checked]

theorem filter_line (h : OneLine s q sp line) : q.parts.filter (fun p => p.space == sp && p.addr / 128 == line) = q.parts :=
  List.filter_eq_self.2 fun p hp => by
    obtain ⟨hsp, hline, -⟩ := h.parts p hp
    simp [hsp, hline]

theorem filter_inLine (h : OneLine s q sp line) (t : State) : q.parts.filter (t.inLine sp line) = q.parts :=
  List.filter_eq_self.2 fun p hp => by
    obtain ⟨hsp, hline, -⟩ := h.parts p hp
    cases sp <;> simp [State.inLine, State.sameLine, hsp, hline]

theorem give_length (h : OneLine s q sp line) (hd : data.length = 128) : (q.give data).length = 128 :=
  gives_length (fun p hp => (h.parts p hp).2.2) hd

/-- The end of the request, all its parts having been performed. -/
theorem finished_got (h : OneLine s q sp line) (hw : SameWork s t) (got : Sparse 8) {mine : List Part} (hall : ∀ p ∈ q.parts, p ∈ mine) :
    Finished t { q with got := got } (t.partsDone { q with got := got } mine) :=
  partsDone_finished ((hw.away _).trans h.present) hall
theorem finished (h : OneLine s q sp line) (hw : SameWork s t) : Finished t q (t.partsDone q q.parts) :=
  h.finished_got hw q.got fun _ hp => hp

/-! ### Loads (R93, R194) -/

theorem loadReply_next (h : OneLine s q sp line) (hk : (∃ n sg, q.kind = .load n sg) ∨ ∃ rec rc sat, q.kind = .loadRec rec rc sat)
    (hready : s.readyLines q = [(sp, line)]) : exec (.loadReply q.id) s = .next (s.draw.2.loadLine q sp line) := by
  have hmove : s.advanceReq q = s.draw.2.loadLine q sp line := by
    obtain ⟨n, sg, hk⟩ | ⟨rec, rc, sat, hk⟩ := hk <;>
      simp only [State.advanceReq, hk, hready, List.length_singleton, Nat.mod_one, List.getElem?_cons_zero]
  rw [← hmove, ← h.moveReq]
  show execLoadReply q.id s = _
  obtain ⟨n, sg, hk⟩ | ⟨rec, rc, sat, hk⟩ := hk <;> simp only [execLoadReply, h.named, hk]

theorem loadLine_finished (h : OneLine s q sp line) {s1 : State} (hw : SameWork s s1)
    (hl : s.draw.2.lineForLoad q sp line = (s1, .ok, data)) :
    Finished s1 { q with got := q.parts.foldl (fun g p => p.take data g) q.got } (s.draw.2.loadLine q sp line) := by
  simp only [State.loadLine, hl, h.filter_line]
  exact h.finished_got hw _ fun _ hp => hp

/-! ### Stores and SETFE in tile memory (R75, R90, R204) -/

theorem storePerform_next (h : OneLine s q sp line) (hk : q.kind = .store ∨ ∃ full, q.kind = .setfe full)
    (hready : s.readyLines q = [(sp, line)]) (hshow : s.mayShow q = false) :
    exec (.storePerform (.raft q.id)) s = .next (s.draw.2.storeLine q sp line) := by
  have hlater : s.draw.2.mayShow q = false := hshow
  have hmove : s.advanceReq q = s.draw.2.storeLine q sp line := by
    obtain hk | ⟨full, hk⟩ := hk <;>
      (simp only [State.advanceReq, hk, hready, List.length_singleton, Nat.mod_one, List.getElem?_cons_zero]; exact if_neg (by simp [hlater]))
  rw [← hmove, ← h.moveReq]
  show execStorePerform (.raft q.id) s = _
  obtain hk | ⟨full, hk⟩ := hk <;> simp only [execStorePerform, h.named, hk]

theorem mayShow_tile (h : OneLine s q (.tile core) line) : s.mayShow q = false := by
  have hnone : (q.parts.any fun p => match p.space with
      | .virt asid => (s.l1At q.core asid p.addr).isSome
      | .tile _ => false) = false :=
    List.any_eq_false.2 fun p hp => by simp [(h.parts p hp).1]
  rw [State.mayShow, Bool.and_eq_false_iff]
  exact .inr hnone

theorem storeLine_tile (h : OneLine s q (.tile core) line) (hk : q.kind = .store) (t : State) : t.storeLine q (.tile core) line =
    (t.tilePut core (128 * line) (q.give (t.tileGet core (128 * line) 128))).partsDone q q.parts := by
  simp only [State.storeLine, hk, h.filter_inLine]
  rfl

theorem storeLine_setfe (h : OneLine s q (.tile core) line) {full : Bool} (hk : q.kind = .setfe full) (t : State) :
    t.storeLine q (.tile core) line = (t.setFull core line full).partsDone q q.parts := by
  simp only [State.storeLine, hk, h.filter_inLine]

end OneLine

theorem tileGet_length (hc : core < 256) (s : State) (a n : Nat) : (s.tileGet core a n).length = n := by
  simp [State.tileGet, hc, sgets]

theorem setFull_eq (hc : core < 256) (s : State) (line : Nat) (full : Bool) :
    s.setFull core line full = { s with empty := sset s.empty (lineKey core line) (if full then 0 else 1) } := by
  simp [State.setFull, hc]

theorem isEmpty_setFull (hc : core < 256) {k : Nat} (hk : k < 256) (s : State) (line x : Nat) (full : Bool) :
    (s.setFull core line full).isEmpty k x = if lineKey k x = lineKey core line then !full else s.isEmpty k x := by
  rw [setFull_eq hc]
  simp only [State.isEmpty, hk, if_true, sget_sset]
  split
  · cases full <;> rfl
  · rfl

theorem isEmpty_of_empty_eq (h : t.empty = s.empty) {k : Nat} (hk : k < 256) (x : Nat) : t.isEmpty k x = s.isEmpty k x := by
  simp [State.isEmpty, hk, h]

/-- A byte outside a run of tile memory that has been written. -/
theorem tileGet_tilePut_byte (hc : core < 256) {k a b : Nat} {bs : List Byte} (hk : k < 256) (ha : a < 2 ^ 32) (hb : b + bs.length ≤ 2 ^ 32)
    (hout : k ≠ core ∨ a < b ∨ b + bs.length ≤ a) (s : State) : (s.tilePut core b bs).tileGet k a 1 = s.tileGet k a 1 := by
  simp only [State.tileGet, State.tilePut, hc, hk, if_true]
  refine sgets_ssets_out _ _ ?_
  simp only [tileKey]
  omega

/-! ### Lines at their homes (R271, R273) -/

theorem va57_line (va j : Nat) (h : va % 128 + j < 128) : va57 (va + j) / 128 = va57 va / 128 ∧ va57 (va + j) % 128 = va % 128 + j := by
  unfold va57
  omega

theorem homeGet_of_l2At {va n : Nat} {l : L2Line} (hl : s.l2At asid va = some l) (hlen : l.data.length = 128) (hn : va % 128 + n ≤ 128) :
    s.homeGet asid va n = (l.data.drop (va % 128)).take n := by
  refine List.ext_getElem (by simp [State.homeGet, hlen]; omega) fun j hj _ => ?_
  have hj : j < n := by simpa [State.homeGet] using hj
  obtain ⟨hline, hoff⟩ := va57_line va j (by omega)
  have hat : s.l2At asid (va + j) = some l := by rw [State.l2At, hline]; exact hl
  simp only [State.homeGet, List.getElem_map, List.getElem_range, State.homeByte, hat, hoff, List.getElem_take, List.getElem_drop]
  exact (List.getElem_eq_getD _).symm

theorem homeGet_line {l : L2Line} (hl : s.l2At asid (128 * line) = some l) (hlen : l.data.length = 128) :
    s.homeGet asid (128 * line) 128 = l.data := by
  rw [homeGet_of_l2At hl hlen (by omega), Nat.mul_mod_right, List.drop_zero, ← hlen, List.take_length]

theorem l2At_key {va : Nat} {l : L2Line} (hl : s.l2At asid va = some l) : l.asid = asid ∧ l.line = va57 va / 128 := by
  have := List.find?_some (p := fun x : L2Line => x.asid == asid && x.line == va57 va / 128) hl
  simpa using this

theorem homePut_lines {va : Nat} {l : L2Line} (hl : s.l2At asid va = some l) (bytes : List Byte) :
    ∃ ls l', (s.homePut asid va bytes).lines = dropLine ls asid l.line ++ [l'] ∧ l'.asid = l.asid ∧ l'.line = l.line ∧
      l'.data = overlay l.data (va57 va % 128) bytes := by
  unfold State.homePut
  rw [hl]
  exact ⟨_, _, rfl, rfl, rfl, rfl⟩

/-- A line present that is written stays present, with the bytes over its own. -/
theorem l2At_homePut {va : Nat} {l : L2Line} (hl : s.l2At asid va = some l) (bytes : List Byte) :
    ∃ l', (s.homePut asid va bytes).l2At asid va = some l' ∧ l'.data = overlay l.data (va57 va % 128) bytes := by
  obtain ⟨hasid, hline⟩ := l2At_key hl
  obtain ⟨ls, l', hlines, hasid', hline', hdata⟩ := homePut_lines hl bytes
  have hgone : (dropLine ls asid l.line).find? (fun x => x.asid == asid && x.line == va57 va / 128) = none := by
    refine List.find?_eq_none.2 fun x hx => ?_
    have hx := (List.mem_filter.1 hx).2
    rw [hline] at hx
    rw [Bool.not_eq_true'] at hx
    rw [hx]
    exact Bool.false_ne_true
  refine ⟨l', ?_, hdata⟩
  rw [State.l2At, hlines, List.find?_append, hgone, Option.none_or, List.find?_singleton, if_pos (by simp [*])]

theorem homeGet_of_lines_eq {l : L2Line} (h : t.lines = s.lines) (hl : s.l2At asid (128 * line) = some l) (hlen : l.data.length = 128) :
    t.homeGet asid (128 * line) 128 = l.data := by
  refine homeGet_line ?_ hlen
  rw [State.l2At, h]
  exact hl

theorem eraseDups_const {α : Type} [BEq α] [LawfulBEq α] {x : α} {xs : List α} (hne : xs ≠ []) (h : ∀ y ∈ xs, y = x) :
    xs.eraseDups = [x] := by
  cases xs with
  | nil => exact absurd rfl hne
  | cons y ys =>
    obtain rfl := h y (List.mem_cons_self ..)
    rw [List.eraseDups_cons, List.filter_eq_nil_iff.2 fun z hz => by simp [h z (List.mem_cons_of_mem _ hz)]]
    rfl

theorem OneLine.storeLine_virt (h : OneLine s q (.virt asid) line) {s1 : State} {l : L2Line}
    (hensure : t.ensure asid (128 * line) .write = (s1, .ok)) (hl : s1.l2At asid (128 * line) = some l) (hlen : l.data.length = 128) :
    ∃ u l1 l', Side t u ∧ u.l2At asid (128 * line) = some l' ∧ l'.data = q.give l.data ∧
      t.storeLine q (.virt asid) line = ({ u with l1 := l1 } : State).partsDone q q.parts := by
  have hlines : (q.parts.map (fun p => (p.addr / 128 * 128, 128))).eraseDups = [(128 * line, 128)] := by
    refine eraseDups_const (by simpa using h.nonempty) fun y hy => ?_
    obtain ⟨p, hp, rfl⟩ := List.mem_map.1 hy
    rw [(h.parts p hp).2.1, Nat.mul_comm]
  have hside := side_of_ensure hensure
  obtain ⟨l', hl', hdata⟩ := l2At_homePut hl (q.give l.data)
  have hoff : va57 (128 * line) % 128 = 0 := by unfold va57; omega
  rw [hoff, overlay_whole (by rw [h.give_length hlen, hlen])] at hdata
  simp only [State.storeLine, h.filter_inLine, hlines, State.ensureAll, hensure, homeGet_line hl hlen]
  split
  · exact ⟨_, _, l', hside.trans (homePut_side ..), hl', hdata, rfl⟩
  · exact ⟨_, _, l', hside.trans (homePut_side ..), hl', hdata, rfl⟩

/-! ### Atomics (R197 to R199) and RROT (R205) -/

/-- The bytes of a line that an access finds. -/
def L2Line.found (l : L2Line) (p : Part) : List Byte := (l.data.drop (p.addr % 128)).take p.len
/-- The bytes that an atomic leaves where it has found some. -/
def Req.leaves (q : Req) (lane : Nat) (old : List Byte) : List Byte := (q.swap lane old).getD old

theorem leaves_of_none {lane : Nat} {old : List Byte} (h : q.swap lane old = none) : q.leaves lane old = old := by simp [Req.leaves, h]
theorem leaves_of_some {lane : Nat} {old new : List Byte} (h : q.swap lane old = some new) : q.leaves lane old = new := by simp [Req.leaves, h]

theorem OneLine.atomicPerform_next {p : Part} (h : OneLine s q sp line) (hk : (∃ fn, q.kind = .atom fn) ∨ ∃ n, q.kind = .cas n)
    (hp : q.parts = [p]) (hgoes : s.partGoes q p = true) : exec (.atomicPerform q.id) s = .next (s.atomLane q p) := by
  have hmove : s.advanceReq q = s.atomLane q p := by
    obtain ⟨fn, hk⟩ | ⟨n, hk⟩ := hk <;> simp only [State.advanceReq, hk, hp, hgoes, if_true]
  rw [← hmove, ← h.moveReq]
  show execAtomicPerform q.id s = _
  obtain ⟨fn, hk⟩ | ⟨n, hk⟩ := hk <;> simp only [execAtomicPerform, h.named, hk]

/-- A lane of an atomic at a tile-memory port: the bytes found, and those that the swap leaves in their place. -/
theorem atomLane_tile {p : Part} (hc : core < 256) (hsp : p.space = .tile core)
    (hnew : ∀ new, q.swap p.lane (s.tileGet core p.addr p.len) = some new → new.length = p.len) :
    ∃ t, onlyTile s t ∧ t.tileGet core p.addr p.len = q.leaves p.lane (s.tileGet core p.addr p.len) ∧
      s.atomLane q p = t.partsDone { q with got := ssets q.got (64 * p.lane) (s.tileGet core p.addr p.len) } [p] := by
  simp only [State.atomLane, hsp]
  cases hswap : q.swap p.lane (s.tileGet core p.addr p.len) with
  | none => exact ⟨s, rfl, (leaves_of_none hswap).symm, rfl⟩
  | some new =>
    exact ⟨_, onlyTile_tilePut hc _ _, (tileGet_tilePut_same hc _ (hnew new hswap)).trans (leaves_of_some hswap).symm, rfl⟩

/-- A lane of an atomic at the home of its line. -/
theorem atomLane_virt {p : Part} {s1 : State} {l : L2Line} (hsp : p.space = .virt asid) (hin : p.addr % 128 + p.len ≤ 128)
    (hensure : s.ensure asid p.addr .write = (s1, .ok)) (hl : s1.l2At asid p.addr = some l) (hlen : l.data.length = 128)
    (hnew : ∀ new, q.swap p.lane (l.found p) = some new → new.length = p.len) :
    ∃ t l', Side s1 t ∧ t.l2At asid (128 * (p.addr / 128)) = some l' ∧ l'.data.length = 128 ∧
      l'.data = overlay l.data (p.addr % 128) (q.leaves p.lane (l.found p)) ∧
      s.atomLane q p = (t.setL1 q.core asid (va57 p.addr / 128) none).partsDone
        { q with got := ssets q.got (64 * p.lane) (l.found p) } [p] := by
  have hline (u : State) : u.l2At asid (128 * (p.addr / 128)) = u.l2At asid p.addr := by
    have : va57 (128 * (p.addr / 128)) / 128 = va57 p.addr / 128 := by unfold va57; omega
    rw [State.l2At, this]; rfl
  have hoff : va57 p.addr % 128 = p.addr % 128 := (va57_line p.addr 0 (by omega)).2
  have hfound : s1.homeGet asid p.addr p.len = l.found p := homeGet_of_l2At hl hlen hin
  simp only [State.atomLane, hsp, hensure, hfound]
  cases hswap : q.swap p.lane (l.found p) with
  | none =>
    rw [leaves_of_none hswap, L2Line.found, overlay_slice (by omega)]
    exact ⟨s1, l, .refl s1, (hline s1).trans hl, hlen, rfl, rfl⟩
  | some new =>
    obtain ⟨l', hl', hdata⟩ := l2At_homePut hl new
    have hnew := hnew new hswap
    rw [hoff] at hdata
    rw [leaves_of_some hswap]
    exact ⟨_, l', homePut_side .., (hline _).trans hl', by rw [hdata, overlay_length (by omega), hlen], hdata, rfl⟩

theorem OneLine.rrotLineWrite_next {p : Part} (h : OneLine s q (.tile core) line) (hk : q.kind = .rrot)
    (hp : q.parts.find? (s.rrotGoes q) = some p) : exec (.rrotLineWrite q.id) s =
      .next (((s.tilePut core (128 * line) (q.give (s.tileGet core (128 * line) 128))).setFull
        core line true).partsDone q q.parts) := by
  obtain ⟨hsp, hline, -⟩ := h.parts p (List.mem_of_find?_eq_some hp)
  show execRrotLineWrite q.id s = _
  simp only [execRrotLineWrite, h.named, hk, h.present, hp, hsp, hline, h.filter_line]
  exact congrArg Host.Outcome.next ((if_neg (by simp)).trans rfl)

theorem Dropped.of_l1_eq {x y : State} {l1 : List L1Line} (hl : y.l1 = x.l1) (h : Dropped s q x l1) : Dropped s q y l1 := fun r tm hr ht => by
  have hdrop : (y.dropNamed r.here tm.asid q.binds q.mask).l1 = (x.dropNamed r.here tm.asid q.binds q.mask).l1 := by
    simp only [State.dropNamed, hl]
  rw [h r tm hr ht, hdrop, hl]

/-! ### The clauses of O36 -/

theorem Finished.memory (h : Finished s q u) : u.tile = s.tile ∧ u.pmem = s.pmem ∧ u.empty = s.empty ∧ u.lines = s.lines := by
  rw [h.frame]; exact ⟨rfl, rfl, rfl, rfl⟩

theorem SameWork.of_onlyTile (h : onlyTile s t) : SameWork s t := by
  rw [h]; exact ⟨rfl, rfl, rfl⟩
theorem sameWork_setFull (hc : core < 256) (s : State) (line : Nat) (full : Bool) : SameWork s (s.setFull core line full) := by
  rw [setFull_eq hc]; exact ⟨rfl, rfl, rfl⟩

namespace OneLine

/-- The line of a store or an RROT in tile memory, as its request leaves it. -/
theorem tileGet_give (h : OneLine s q (.tile core) line) (hc : core < 256) (t : State) (hu : u.tile = (t.tilePut core (128 * line)
    (q.give (s.tileGet core (128 * line) 128))).tile) : u.tileGet core (128 * line) 128 = q.give (s.tileGet core (128 * line) 128) := by
  rw [tileGet_of_tile_eq hc hu, tileGet_tilePut_same hc _ (h.give_length (tileGet_length hc ..))]

theorem load_performed (h : OneLine s q sp line) (hk : (∃ n sg, q.kind = .load n sg) ∨ ∃ rec rc sat, q.kind = .loadRec rec rc sat)
    (hready : s.readyLines q = [(sp, line)]) {s1 : State} (hl : s.draw.2.lineForLoad q sp line = (s1, .ok, data)) :
    ∃ u, exec (.loadReply q.id) s = .next u ∧ u.reqs = s.reqs.filter (fun x => x.id != q.id) ∧ u.tile = s1.tile ∧ u.pmem = s1.pmem ∧
      u.lines = s1.lines ∧ Dropped s q s1 u.l1 ∧ Delivered s { q with got := q.parts.foldl (fun g p => p.take data g) q.got } u := by
  have hw : SameWork s s1 := by
    have := sameWork_lineForLoad s.draw.2 q sp line
    rw [hl] at this
    exact (sameWork_draw s).trans this
  have hdone := h.loadLine_finished hw hl
  obtain ⟨hgone, hdelivered, hdropped, -⟩ := hdone.since hw
  obtain ⟨htile, hpmem, -, hlines⟩ := hdone.memory
  exact ⟨_, h.loadReply_next hk hready, hgone, htile, hpmem, hlines, hdropped, hdelivered⟩

theorem tileStore_performed (h : OneLine s q (.tile core) line) (hk : q.kind = .store) (hready : s.readyLines q = [(.tile core, line)])
    (hc : core < 256) (hlim : 128 * line + 128 ≤ 2 ^ 32) (hd : q.dest = none) :
    ∃ u, exec (.storePerform (.raft q.id)) s = .next u ∧ u.reqs = s.reqs.filter (fun x => x.id != q.id) ∧
      u.tileGet core (128 * line) 128 = q.give (s.tileGet core (128 * line) 128) ∧ u.pmem = s.pmem ∧ u.empty = s.empty ∧ onlyAges s u ∧
      ∀ k a, k < 256 → a < 2 ^ 32 → k ≠ core ∨ a < 128 * line ∨ 128 * line + 128 ≤ a → u.tileGet k a 1 = s.tileGet k a 1 := by
  have hput : onlyTile s.draw.2 (s.draw.2.tilePut core (128 * line) (q.give (s.tileGet core (128 * line) 128))) := onlyTile_tilePut hc _ _
  have hlen := h.give_length (tileGet_length hc s (128 * line) 128)
  have hdone := h.finished ((sameWork_draw s).trans (.of_onlyTile hput))
  obtain ⟨hgone, -, -, hages⟩ := hdone.since ((sameWork_draw s).trans (.of_onlyTile hput))
  obtain ⟨htile, hpmem, hempty, -⟩ := hdone.memory
  refine ⟨_, (h.storePerform_next (.inl hk) hready h.mayShow_tile).trans (congrArg _ (h.storeLine_tile hk _)), hgone,
    h.tileGet_give hc s.draw.2 htile, ?_, ?_, hages hd, fun k a hk ha hout => ?_⟩
  · exact hpmem.trans (by rw [hput]; rfl)
  · exact hempty.trans (by rw [hput]; rfl)
  · refine (tileGet_of_tile_eq hk htile a 1).trans <| (tileGet_tilePut_byte hc hk ha ?_ ?_ _).trans (tileGet_of_tile_eq hk rfl a 1) <;> omega

theorem homeStore_performed (h : OneLine s q (.virt asid) line) (hk : q.kind = .store) (hready : s.readyLines q = [(.virt asid, line)])
    (hshow : s.mayShow q = false) (hd : q.dest = none) {s1 : State} {l : L2Line} (hensure : s.draw.2.ensure asid (128 * line) .write = (s1, .ok))
    (hl : s1.l2At asid (128 * line) = some l) (hlen : l.data.length = 128) :
    ∃ u, exec (.storePerform (.raft q.id)) s = .next u ∧ u.reqs = s.reqs.filter (fun x => x.id != q.id) ∧
      u.homeGet asid (128 * line) 128 = q.give l.data ∧ u.tile = s.tile ∧ onlyAges s u := by
  obtain ⟨t, l1, l', hside, hl', hdata, hstore⟩ := h.storeLine_virt hensure hl hlen
  have hw : SameWork s { t with l1 := l1 } := (sameWork_draw s).trans (hside.sameWork.trans ⟨rfl, rfl, rfl⟩)
  obtain ⟨hgone, -, -, hages⟩ := (h.finished hw).since hw
  obtain ⟨htile, -, -, hlines⟩ := (h.finished hw).memory
  refine ⟨_, (h.storePerform_next (.inl hk) hready hshow).trans (congrArg _ hstore), hgone, ?_, htile.trans hside.tile, hages hd⟩
  rw [← hdata]
  exact homeGet_of_lines_eq hlines hl' (by rw [hdata, h.give_length hlen])

theorem setfe_performed (h : OneLine s q (.tile core) line) {full : Bool} (hk : q.kind = .setfe full) (hready : s.readyLines q = [(.tile core, line)])
    (hc : core < 256) (hd : q.dest = none) :
    ∃ u, exec (.storePerform (.raft q.id)) s = .next u ∧ u.reqs = s.reqs.filter (fun x => x.id != q.id) ∧ u.isEmpty core line = !full ∧
      u.tile = s.tile ∧ u.pmem = s.pmem ∧ onlyAges s u ∧
      ∀ k x, k < 256 → lineKey k x ≠ lineKey core line → u.isEmpty k x = s.isEmpty k x := by
  have hw : SameWork s (s.draw.2.setFull core line full) := (sameWork_draw s).trans (sameWork_setFull hc ..)
  obtain ⟨hgone, -, -, hages⟩ := (h.finished hw).since hw
  obtain ⟨htile, hpmem, hempty, -⟩ := (h.finished hw).memory
  refine ⟨_, (h.storePerform_next (.inr ⟨full, hk⟩) hready h.mayShow_tile).trans (congrArg _ (h.storeLine_setfe hk _)), hgone, ?_,
    ?_, ?_, hages hd, fun k x hk hkey => ?_⟩
  · rw [isEmpty_of_empty_eq hempty hc, isEmpty_setFull hc hc, if_pos rfl]
  · exact htile.trans (by rw [setFull_eq hc]; rfl)
  · exact hpmem.trans (by rw [setFull_eq hc]; rfl)
  · rw [isEmpty_of_empty_eq hempty hk, isEmpty_setFull hc hk, if_neg hkey]
    exact isEmpty_of_empty_eq rfl hk x

theorem tileAtomic_performed {p : Part} (h : OneLine s q (.tile core) line) (hk : (∃ fn, q.kind = .atom fn) ∨ ∃ n, q.kind = .cas n)
    (hp : q.parts = [p]) (hgoes : s.partGoes q p = true) (hc : core < 256)
    (hnew : ∀ new, q.swap p.lane (s.tileGet core p.addr p.len) = some new → new.length = p.len) :
    ∃ u, exec (.atomicPerform q.id) s = .next u ∧ u.reqs = s.reqs.filter (fun x => x.id != q.id) ∧ u.pmem = s.pmem ∧ u.empty = s.empty ∧
      u.tileGet core p.addr p.len = q.leaves p.lane (s.tileGet core p.addr p.len) ∧ Dropped s q s u.l1 ∧
      Delivered s { q with got := ssets q.got (64 * p.lane) (s.tileGet core p.addr p.len) } u := by
  obtain ⟨hsp, -, -⟩ := h.parts p (hp ▸ List.mem_singleton.2 rfl)
  obtain ⟨t, ht, hnewGet, hlane⟩ := atomLane_tile hc hsp hnew
  have hw := SameWork.of_onlyTile ht
  have hdone := h.finished_got hw (ssets q.got (64 * p.lane) (s.tileGet core p.addr p.len)) (mine := [p]) (by simp [hp])
  obtain ⟨hgone, hdelivered, hdropped, -⟩ := hdone.since hw
  obtain ⟨htile, hpmem, hempty, -⟩ := hdone.memory
  have hl1 : s.l1 = t.l1 := by rw [ht]
  refine ⟨_, (h.atomicPerform_next hk hp hgoes).trans (congrArg _ hlane), hgone, hpmem.trans (by rw [ht]), hempty.trans (by rw [ht]), ?_,
    Dropped.of_l1_eq hl1 hdropped, hdelivered⟩
  rw [tileGet_of_tile_eq hc htile, hnewGet]

theorem homeAtomic_performed {p : Part} (h : OneLine s q (.virt asid) line) (hk : (∃ fn, q.kind = .atom fn) ∨ ∃ n, q.kind = .cas n)
    (hp : q.parts = [p]) (hgoes : s.partGoes q p = true) {s1 : State} {l : L2Line} (hensure : s.ensure asid p.addr .write = (s1, .ok))
    (hl : s1.l2At asid p.addr = some l) (hlen : l.data.length = 128)
    (hnew : ∀ new, q.swap p.lane (l.found p) = some new → new.length = p.len) :
    ∃ u, exec (.atomicPerform q.id) s = .next u ∧ u.reqs = s.reqs.filter (fun x => x.id != q.id) ∧ u.tile = s.tile ∧ u.empty = s.empty ∧
      u.homeGet asid (128 * line) 128 = overlay l.data (p.addr % 128)
        (q.leaves p.lane (l.found p)) ∧
      Dropped s q (s1.setL1 q.core asid (va57 p.addr / 128) none) u.l1 ∧
      Delivered s { q with got := ssets q.got (64 * p.lane) (l.found p) } u := by
  obtain ⟨hsp, hline, hin⟩ := h.parts p (hp ▸ List.mem_singleton.2 rfl)
  obtain ⟨t, l', ht, hl', hlen', hdata, hlane⟩ := atomLane_virt hsp hin hensure hl hlen hnew
  rw [hline] at hl'
  have hside := (side_of_ensure hensure).trans ht
  have hw : SameWork s (t.setL1 q.core asid (va57 p.addr / 128) none) := hside.sameWork.trans ⟨rfl, rfl, rfl⟩
  have hdone := h.finished_got hw (ssets q.got (64 * p.lane) (l.found p)) (mine := [p]) (by simp [hp])
  obtain ⟨hgone, hdelivered, hdropped, -⟩ := hdone.since hw
  obtain ⟨htile, -, hempty, hlines⟩ := hdone.memory
  have hl1 : (s1.setL1 q.core asid (va57 p.addr / 128) none).l1 = (t.setL1 q.core asid (va57 p.addr / 128) none).l1 := by
    rw [ht.frame]; rfl
  refine ⟨_, (h.atomicPerform_next hk hp hgoes).trans (congrArg _ hlane), hgone, htile.trans hside.tile, hempty.trans ?_, ?_,
    Dropped.of_l1_eq hl1 hdropped, hdelivered⟩
  · rw [hside.frame]; rfl
  · rw [← hdata]
    exact homeGet_of_lines_eq hlines hl' hlen'

theorem rrot_performed {p : Part} (h : OneLine s q (.tile core) line) (hk : q.kind = .rrot) (hc : core < 256)
    (hp : q.parts.find? (s.rrotGoes q) = some p) (hd : q.dest = none) :
    ∃ u, exec (.rrotLineWrite q.id) s = .next u ∧ u.reqs = s.reqs.filter (fun x => x.id != q.id) ∧ u.isEmpty core line = false ∧
      u.tileGet core (128 * line) 128 = q.give (s.tileGet core (128 * line) 128) ∧ u.pmem = s.pmem ∧ onlyAges s u := by
  have hput : onlyTile s (s.tilePut core (128 * line) (q.give (s.tileGet core (128 * line) 128))) := onlyTile_tilePut hc _ _
  have hw := (SameWork.of_onlyTile hput).trans (sameWork_setFull hc _ line true)
  obtain ⟨hgone, -, -, hages⟩ := (h.finished hw).since hw
  obtain ⟨htile, hpmem, hempty, -⟩ := (h.finished hw).memory
  refine ⟨_, h.rrotLineWrite_next hk hp, hgone, ?_, h.tileGet_give hc s (htile.trans (setFull_tile ..)), ?_, hages hd⟩
  · rw [isEmpty_of_empty_eq hempty hc, isEmpty_setFull hc hc, if_pos rfl]; rfl
  · exact hpmem.trans (by rw [setFull_eq hc, hput])

end OneLine

end Performance

/-- Settles O36, by what each event does to the request's one line and by what the end of a request leaves. -/
theorem accessesArePerformed : Obligations.AccessesArePerformed := by
  unfold Obligations.AccessesArePerformed
  intro s q sp line hreq hreplay hfault hchecked haway hparts hne
  have h : OneLine s q sp line := ⟨hreq, hreplay, hfault, hchecked, haway, hparts, hne⟩
  refine ⟨fun hready => ⟨fun s1 data hk hl => ?load, fun core hk _ hsp hc hlim hd => ?tileStore,
      fun asid s1 l hk _ hsp hd hshow hensure hl hlen => ?homeStore, fun core full hk _ hsp hc hd => ?setfe⟩,
    fun p hk hp hgoes => ⟨fun core hsp hc _ hnew => ?tileAtomic, fun asid s1 l hsp hensure hl hlen hnew => ?homeAtomic⟩,
    fun p core hk hsp hc _ hp hd _ => ?rrot, fun asid va bytes hcanon => ?software⟩
  case load => exact h.load_performed hk hready hl
  case tileStore => subst hsp; exact h.tileStore_performed hk hready hc hlim hd
  case homeStore => subst hsp; exact h.homeStore_performed hk hready hshow hd hensure hl hlen
  case setfe => subst hsp; exact h.setfe_performed hk hready hc hd
  case tileAtomic => subst hsp; exact h.tileAtomic_performed hk hp hgoes hc hnew
  case homeAtomic => subst hsp; exact h.homeAtomic_performed hk hp hgoes hensure hl hlen hnew
  case rrot => subst hsp; exact h.rrot_performed hk hc hp hd
  case software =>
    show execStorePerform (.software asid va bytes) s = _
    simp only [execStorePerform, hcanon, if_true]

end Sys2Proof.Machine

namespace Sys2Proof.Machine

open Sys2Proof

/-!
An access after the streams of its instruction have advanced, and the instructions that are one access (O9, O11).
-/

section Accesses

variable {s : State} {c : Ctx} {i : Instr} {f : MF} {q : Req} {write : Bool} {accs : List LaneAcc} {body : State → Ctx → Res}
  {kind : ReqKind} {dest : Option Dest} {data : Nat → List Byte}

/-! ### The streams' advance stands in no access's way: what an access and its checks read is the same after it (R135) -/

theorem keepsSeat_stepStreams (ks : List Nat) : KeepsSeat (fun r => ks.foldl Raft.stepStream r) := fun r => by
  dsimp only
  rw [foldl_stepStream_same]
  exact ⟨rfl, rfl, rfl, rfl⟩

@[simp] theorem scopeOf_stepStreams (s : State) (id : Nat) (ks : List Nat) (team n : Nat) :
    (s.stepStreams id ks).scopeOf team n = s.scopeOf team n := scopeOf_mapRaft (keepsSeat_stepStreams ks) s id team n

@[simp] theorem request_stepStreams (s : State) (id : Nat) (ks : List Nat) (c : Ctx) (f : MF) (kind : ReqKind) (dest : Option Dest)
    (data : Nat → List Byte) (accs : List LaneAcc) :
    c.request (s.stepStreams id ks) f kind dest data accs = c.request s f kind dest data accs := by
  unfold Ctx.request
  rw [scopeOf_stepStreams]
  rfl

theorem Admitted.stepStreams (h : Admitted s c f write accs q) (id : Nat) (ks : List Nat) :
    Admitted (s.stepStreams id ks) c f write accs q :=
  ⟨h.some, h.checks, h.unwatched, h.released, h.replay, h.entries, h.loads, h.stores, h.table, h.ways⟩

@[simp] theorem formAcc_stepStreams (s : State) (id : Nat) (ks : List Nat) (c : Ctx) (f : MF) (form : MemForm) (write : Bool) :
    c.formAcc (s.stepStreams id ks) f form write = c.formAcc s f form write := by
  funext l
  cases form <;> rfl
@[simp] theorem rmwAcc_stepStreams (s : State) (id : Nat) (ks : List Nat) (c : Ctx) (f : MF) (n : Nat) (virt : Bool) :
    c.rmwAcc (s.stepStreams id ks) f n virt = c.rmwAcc s f n virt := by
  funext l
  cases virt <;> rfl
@[simp] theorem setfeAcc_stepStreams (s : State) (id : Nat) (ks : List Nat) (c : Ctx) (f : MF) :
    c.setfeAcc (s.stepStreams id ks) f = c.setfeAcc s f := rfl
@[simp] theorem rrotAcc_stepStreams (s : State) (id : Nat) (ks : List Nat) (c : Ctx) (f : MF) :
    c.rrotAcc (s.stepStreams id ks) f = c.rrotAcc s f := rfl
@[simp] theorem regBytes_stepStreams (s : State) (id : Nat) (ks : List Nat) (c : Ctx) (d : RegNum) (n : Nat) :
    c.regBytes (s.stepStreams id ks) d n = c.regBytes s d n := rfl

theorem access_stepStreams (h : Admitted s c f write accs (c.request s f kind dest data accs)) (id : Nat) (ks : List Nat) :
    c.access (s.stepStreams id ks) f kind write dest data accs =
      .done ((s.withReq (c.request s f kind dest data accs)).stepStreams id ks) .next := by
  have hadmitted := h.stepStreams id ks
  rw [← request_stepStreams s id ks] at hadmitted
  rw [access_done hadmitted, request_stepStreams]
  rfl

/-- An instruction whose meaning is one access that nothing keeps back. -/
theorem leads_of_access (h : Issues s c i) (he : exec i s = issue i s body)
    (hb : ∀ id ks, body (s.stepStreams id ks) c = c.access (s.stepStreams id ks) f kind write dest data accs)
    (ha : Admitted s c f write accs (c.request s f kind dest data accs)) : Leads s (s.withReq (c.request s f kind dest data accs)) c i :=
  leads_of h he ((hb ..).trans (access_stepStreams ha _ _)) rfl rfl

end Accesses

/-- Settles O9: each form of a load or store is one access, and past its checks an access is one more request. -/
theorem loadsAndStoresIssue : Obligations.LoadsAndStoresIssue := by
  unfold Obligations.LoadsAndStoresIssue
  intro s c f form
  refine ⟨fun i hi h ha => ?load, fun i hi h ha => ?store⟩
  case load =>
    have he : exec i s = loadIssue i f form s := by subst hi; cases form <;> rfl
    exact leads_of_access h he (fun _ _ => by rw [formAcc_stepStreams]) ha
  case store =>
    have he : exec i s = storeIssue i f form s := by subst hi; cases form <;> rfl
    exact leads_of_access h he (fun _ _ => by rw [formAcc_stepStreams, regBytes_stepStreams]) ha

/-- Settles O11: each is one access, of the bytes that its entry names in each lane. -/
theorem atomicsAndRingStoresIssue : Obligations.AtomicsAndRingStoresIssue := by
  unfold Obligations.AtomicsAndRingStoresIssue
  intro s c f
  refine ⟨fun h ha => ?atom, fun h ha => ?cas, fun h ha => ?cas128, fun h ha => ?setfe, fun h hring ha => ?rrot⟩
  case atom => exact leads_of_access h rfl (fun _ _ => by simp only [rmwAcc_stepStreams, regBytes_stepStreams]) ha
  case cas => exact leads_of_access h rfl (fun _ _ => by rw [rmwAcc_stepStreams, regBytes_stepStreams]) ha
  case cas128 => exact leads_of_access h rfl (fun _ _ => by rw [rmwAcc_stepStreams, regBytes_stepStreams]) ha
  case setfe => exact leads_of_access h rfl (fun _ _ => by rw [setfeAcc_stepStreams]) ha
  case rrot => exact leads_of_access h rfl (fun _ _ => by rw [rrotAcc_stepStreams, regBytes_stepStreams, hring]; rfl) ha

end Sys2Proof.Machine

namespace Sys2Proof.Machine

open Sys2Proof

/-!
A record's read leaves the rafts, and what LDB and STB answer past their checks (O10); a slot that ends with no register written.
-/

section Records

variable {s s1 u : State} {c : Ctx} {i : Instr} {f : MF} {q q0 : Raft} {fl : Flow} {b : List Byte} {ks : List Nat}

/-! ### Reading a record leaves the rafts (R183) -/

theorem readL1_rafts (core asid : Nat) : ∀ (ps : List (Nat × Nat)) (s : State), (State.readL1 core asid ps s).1.rafts = s.rafts
  | [], _ => rfl
  | (va, n) :: ps, s => by
    rw [State.readL1]
    split
    rename_i hit s0 hs0
    extract_lets early piece
    have h0 : s0.rafts = s.rafts := by injection hs0 with _ h0; rw [← h0]
    have hpiece : piece.1.rafts = s.rafts := by
      unfold piece
      split
      · exact h0
      · split
        · exact h0
        · exact (readAt_side s0 asid va n .read false).sameWork.rafts.trans h0
    clear_value piece
    split
    · exact (readL1_rafts core asid ps _).trans hpiece
    · exact hpiece

theorem recordBytes_rafts (s : State) (t : Team) (core idx : Nat) : (s.recordBytes t core idx).1.rafts = s.rafts := by
  have hread := readL1_rafts core t.asid (linePieces ((t.kernel.brecBase + 40 * idx) % 2 ^ 64) 40) s.choose.2
  unfold State.recordBytes
  dsimp only
  split
  · rfl
  · split
    · rename_i hok
      rw [hok] at hread
      exact hread
    · exact hread

theorem rafts_of_recordBytes {tm : Team} {core idx : Nat} {v : Verdict} (hread : s.recordBytes tm core idx = (s1, v, b)) :
    s1.rafts = s.rafts := by
  have h := recordBytes_rafts s tm core idx
  rwa [hread] at h

theorem withRec_ok {k : State → BRec → Res} {idx : Nat} {lanes : LaneMask} {peerOk : Bool} {place : Option (Nat × Nat)}
    (hidx : idx < c.t.kernel.brecCount) (hread : s.recordBytes c.t c.r.here idx = (s1, .ok, b)) (hsound : Rec.sound peerOk b = true) :
    c.withRec s idx lanes peerOk place k = k s1 (Rec.parse b) := by
  simp only [Ctx.withRec, Nat.not_le.2 hidx, if_false, hread, hsound, if_true]

theorem viaRec_ok {load : Bool} {k : State → BRec → Nat → Res} (hlanes : c.accLanes ≠ []) (hidx : f.brec.toNat < c.t.kernel.brecCount)
    (hread : s.recordBytes c.t c.r.here f.brec.toNat = (s1, .ok, b)) (hsound : Rec.sound false b = true)
    (hmx : load = false → isMx (Rec.parse b).fmt = false) (hfits : c.elemFits f (Rec.parse b) load = true)
    (hfree : s1.interlock c [elemOpd f (Rec.parse b) load] = .free) :
    c.viaRec s f load k =
      k (if load then s1 else s1.stepStreams c.r.id (c.streamsMore (.stb f) [elemOpd f (Rec.parse b) load])) (Rec.parse b)
        (elemRegs (Rec.parse b)) := by
  have hformat : (!load && isMx (Rec.parse b).fmt) = false := by
    cases load with
    | true => rfl
    | false => exact hmx rfl
  have hempty : c.accLanes.isEmpty = false := by simpa using hlanes
  simp only [Ctx.viaRec, hempty, Bool.false_eq_true, if_false, withRec_ok hidx hread hsound, hformat, hfits, Bool.not_true, hfree, Block.orElse]

/-! ### An instruction that writes no register, and may have read more streams than its fields name -/

theorem foldl_stepStream_keeps (hk : keeps (ks.foldl Raft.stepStream q0) q) :
    sameRaft q0 q ∧ q.v = q0.v ∧ q.p = q0.p ∧ ∀ k, (∀ j ∈ ks, k ≠ 60 + j) → q.sreg k = q0.sreg k := by
  have hsame := foldl_stepStream_same ks q0
  refine ⟨?_, ?_, ?_, fun k hks => ?_⟩
  · unfold sameRaft; rw [hk, hsame]
  · rw [hk, hsame]
  · rw [hk, hsame]
  · have hs : q.sreg k = (ks.foldl Raft.stepStream q0).sreg k := by rw [hk]; rfl
    exact hs.trans (foldl_stepStream_sreg ks q0 hks)

theorem unwritten_of_keeps (hk : keeps (c.stepped i) q) : Unwritten c i q :=
  have ⟨hrest, hv, hp, hs⟩ := foldl_stepStream_keeps hk
  ⟨hrest, hv, hp, hs⟩

/-- The end of a slot whose instruction has led to `u`, and its raft to `q0`. -/
theorem answer_of_passSlot (he : exec i s = .next (u.passSlot c.r.id c.e fl)) (hr : u.raft? c.r.id = some q0) (hgoing : q0.stopping = none)
    (hothers : ∀ id, id ≠ c.r.id → u.raft? id = s.raft? id) :
    ∃ t q, exec i s = .next t ∧ t = { u with rafts := t.rafts, running := t.running } ∧ (∀ id, id ≠ c.r.id → t.raft? id = s.raft? id) ∧
      t.raft? c.r.id = some q ∧ keeps q0 q := by
  obtain ⟨⟨honly, hother⟩, q, hq, hk⟩ := passSlot_keeps (e := c.e) (fl := fl) (issued := true) hr hgoing
  exact ⟨_, q, he, honly, fun id hne => (hother id hne).trans (hothers id hne), hq, hk⟩

/-- The rafts are those of a state in which the streams that the instruction reads have advanced, and nothing else of them has changed. -/
theorem raft?_of_rafts_stepped (h : s.ctx = some c) (hrafts : u.rafts = (s.stepStreams c.r.id (c.streamsRead i)).rafts) :
    u.raft? c.r.id = some (c.stepped i) ∧ ∀ id, id ≠ c.r.id → u.raft? id = s.raft? id :=
  ⟨(raft?_of_rafts_eq hrafts _).trans (raft?_stepStreams h i),
    fun id hne => (raft?_of_rafts_eq hrafts id).trans (raft?_stepStreams_other s _ _ hne)⟩

theorem going_stepped (h : Issues s c i) (ks : List Nat) : (ks.foldl Raft.stepStream (c.stepped i)).stopping = none := by
  rw [foldl_stepStream_same, stepped_same]
  exact h.going

end Records

/-- Settles O10: past the checks of the record and of D, LDB and STB are one access; STB's comes after the streams of its pair D
have advanced, which its lanes' accesses do not see. -/
theorem recordAccessesIssue : Obligations.RecordAccessesIssue := by
  unfold Obligations.RecordAccessesIssue
  intro s s1 c f b hlanes hidx hsound
  refine ⟨fun h hread hfits hfree ha => ?load, fun h hread hmx hfits hfree ha => ?store⟩
  all_goals have hrafts := rafts_of_recordBytes hread
  case load =>
    exact leads_of h rfl ((viaRec_ok (load := true) hlanes hidx hread hsound (by simp) hfits hfree).trans (access_done ha)) hrafts rfl
  case store =>
    let more := c.streamsMore (.stb f) [elemOpd f (Rec.parse b) false]
    obtain ⟨hown, hothers⟩ := raft?_of_rafts_stepped h.ctx hrafts
    have hr : (s1.stepStreams c.r.id more).raft? c.r.id = some (more.foldl Raft.stepStream (c.stepped (.stb f))) :=
      (raft?_mapRaft (keepsSeat_stepStreams more) s1 c.r.id).trans (congrArg _ hown)
    have hnext : exec (.stb f) s = .next (((s1.withReq _).stepStreams c.r.id more).passSlot c.r.id c.e .next) :=
      issue_done h ((viaRec_ok hlanes hidx hread hsound (fun _ => hmx) hfits hfree).trans (access_stepStreams ha c.r.id more))
    obtain ⟨t, q, ht, hframe, hother, hq, hk⟩ := answer_of_passSlot hnext hr (going_stepped h more)
      (fun id hne => (raft?_stepStreams_other s1 _ _ hne).trans (hothers id hne))
    rw [Ctx.stepped, ← List.foldl_append] at hk
    obtain ⟨hrest, hv, hp, hs⟩ := foldl_stepStream_keeps hk
    exact ⟨t, q, ht, hframe, hother, hq, hrest, hv, hp, hs⟩

end Sys2Proof.Machine

namespace Sys2Proof.Machine

open Sys2Proof

/-!
FENCE, FTAG, PREF and INVL1 (O12): the blocks that a fence meets, a raft's tags, and what bringing a line in may change.
-/

section CacheControl

variable {s t u : State} {c : Ctx} {f : MF}

/-! ### FENCE -/

theorem worst_eq_free {bs : List Block} : worst bs = .free ↔ ∀ b ∈ bs, b = .free := by
  unfold worst
  split
  · rename_i b hb
    have hraise := List.find?_some hb
    refine ⟨fun h => ?_, fun h => h b (List.mem_of_find?_eq_some hb)⟩
    rw [h] at hraise
    nomatch hraise
  · rename_i hnone
    rw [List.find?_eq_none] at hnone
    constructor
    · intro h b hb
      split at h
      · nomatch h
      · split at h
        · nomatch h
        · rename_i hmoor hwait
          cases b with
          | free => rfl
          | wait => exact absurd (List.contains_iff_mem.2 hb) hwait
          | moor => exact absurd (List.contains_iff_mem.2 hb) hmoor
          | raise => exact absurd rfl (hnone _ hb)
    · intro h
      have hmoor : ¬bs.contains .moor = true := fun hb => Block.noConfusion (h .moor (List.contains_iff_mem.1 hb))
      have hwait : ¬bs.contains .wait = true := fun hb => Block.noConfusion (h .wait (List.contains_iff_mem.1 hb))
      rw [if_neg hmoor, if_neg hwait]

theorem worst_append {as bs : List Block} : worst (as ++ bs) = .free ↔ worst as = .free ∧ worst bs = .free := by
  simp only [worst_eq_free, List.mem_append, or_imp, forall_and]

theorem acquireDrop_stepStreams (s : State) (id : Nat) (ks : List Nat) (r : Raft) (asid scope : Nat) (mask : BitVec 8) :
    (s.stepStreams id ks).acquireDrop r asid scope mask = (s.acquireDrop r asid scope mask).stepStreams id ks := by
  unfold State.acquireDrop
  rw [scopeOf_stepStreams]
  split <;> rfl

theorem acquireDrop_rafts (s : State) (r : Raft) (asid scope : Nat) (mask : BitVec 8) :
    (s.acquireDrop r asid scope mask).rafts = s.rafts := by
  unfold State.acquireDrop
  split <;> rfl

/-- The raft's earlier ordered accesses as a fence meets them (R84). -/
def State.orderedWork (s : State) (rid : Nat) : List Block :=
  (s.reqs.filter (fun q => q.raft == rid && (q.acq || q.rel))).map (fun q => if q.fault.isSome || q.replay then .free else .wait)

theorem orderedWork_free {rid : Nat} (h : ∀ q ∈ s.reqs, q.raft = rid → q.acq = true ∨ q.rel = true → q.fault.isSome = true) :
    worst (s.orderedWork rid) = .free := by
  refine worst_eq_free.2 fun b hb => ?_
  obtain ⟨q, hq, rfl⟩ := List.mem_map.1 hb
  obtain ⟨hmem, hordered⟩ := List.mem_filter.1 hq
  simp only [Bool.and_eq_true, beq_iff_eq, Bool.or_eq_true] at hordered
  rw [h q hmem hordered.1 hordered.2]
  rfl

theorem fence_leads (h : Issues s c (.fence f)) (hrel : f.ord.getLsbD 1 = true → worst (s.releaseWork c.r.id f.brec) = .free)
    (hord : ∀ q ∈ s.reqs, q.raft = c.r.id → q.acq = true ∨ q.rel = true → q.fault.isSome = true)
    (hacq : f.ord.getLsbD 0 = true → worst (s.acquireWork c.r.id) = .free) :
    Leads s (if f.ord.getLsbD 0 then s.acquireDrop c.r c.t.asid f.scope.toNat f.brec else s) c (.fence f) := by
  have hwork : worst ((if f.ord.getLsbD 1 then s.releaseWork c.r.id f.brec else []) ++ s.orderedWork c.r.id ++
      (if f.ord.getLsbD 0 then s.acquireWork c.r.id else [])) = .free := by
    refine worst_append.2 ⟨worst_append.2 ⟨?_, orderedWork_free hord⟩, ?_⟩
    · split
      · exact hrel ‹_›
      · rfl
    · split
      · exact hacq ‹_›
      · rfl
  refine leads_of h rfl (congrArg (Block.orElse · _ _) hwork) ?_ ?_
  · split
    · rw [acquireDrop_rafts]
    · rfl
  · split
    · rw [acquireDrop_stepStreams]; rfl
    · rfl

/-! ### FTAG -/

/-- A tag of the issuing raft bound, or unbound (R201). -/
def State.bindTag (s : State) (c : Ctx) (f : MF) (b : Option TagBind) : State :=
  s.mapRaft c.r.id (fun r => { r with tags := setAt r.tags (field f.off.toNat 2 0 - 1) b })
/-- The context with its raft's tags as they stand after. -/
def Ctx.withTag (c : Ctx) (f : MF) (b : Option TagBind) : Ctx :=
  { c with r := { c.r with tags := c.r.tags.set (field f.off.toNat 2 0 - 1) b } }

theorem foldl_stepStream_tags (tags : List (Option TagBind)) : ∀ (ks : List Nat) (r : Raft),
    ks.foldl Raft.stepStream { r with tags := tags } = { ks.foldl Raft.stepStream r with tags := tags }
  | [], _ => rfl
  | k :: ks, r => by
    have hstep : ({ r with tags := tags } : Raft).stepStream k = { r.stepStream k with tags := tags } := by
      unfold Raft.stepStream
      dsimp only
      split <;> rfl
    rw [List.foldl_cons, hstep, foldl_stepStream_tags tags ks, List.foldl_cons]

theorem stepped_withTag (c : Ctx) (f : MF) (b : Option TagBind) (i : Instr) :
    (c.withTag f b).stepped i = { c.stepped i with tags := setAt (c.stepped i).tags (field f.off.toNat 2 0 - 1) b } := by
  have htags : (c.stepped i).tags = c.r.tags := by rw [stepped_same]
  rw [htags]
  exact foldl_stepStream_tags _ _ _

/-- The next state of an FTAG that binds `b`, or unbinds its tag, where its record's read has led to `u`. -/
theorem ftag_binds {b : Option TagBind} (h : Issues s c (.ftag f)) (hrafts : u.rafts = (s.stepStreams c.r.id (c.streamsRead (.ftag f))).rafts)
    (he : exec (.ftag f) s = .next ((u.bindTag c f b).passSlot c.r.id c.e .next)) :
    ∃ t q, exec (.ftag f) s = .next t ∧ t = { u with rafts := t.rafts, running := t.running } ∧
      (∀ id, id ≠ c.r.id → t.raft? id = s.raft? id) ∧ t.raft? c.r.id = some q ∧
      Unwritten { c with r := { c.r with tags := q.tags } } (.ftag f) q ∧ q.tags = c.r.tags.set (field f.off.toNat 2 0 - 1) b := by
  obtain ⟨hown, hothers⟩ := raft?_of_rafts_stepped h.ctx hrafts
  have hseat : KeepsSeat (fun r => { r with tags := setAt r.tags (field f.off.toNat 2 0 - 1) b }) := fun _ => ⟨rfl, rfl, rfl, rfl⟩
  have hr : (u.bindTag c f b).raft? c.r.id = some ((c.withTag f b).stepped (.ftag f)) := by
    rw [stepped_withTag, State.bindTag, raft?_mapRaft hseat, hown]
    rfl
  have hgoing : ((c.withTag f b).stepped (.ftag f)).stopping = none := by
    rw [stepped_same]
    exact h.going
  obtain ⟨t, q, ht, hframe, hother, hq, hk⟩ := answer_of_passSlot he hr hgoing
    (fun id hne => (raft?_mapRaft_other (fun r hid => (hseat r).1.trans hid) hne).trans (hothers id hne))
  have htags : q.tags = c.r.tags.set (field f.off.toNat 2 0 - 1) b := by rw [hk, stepped_same]; rfl
  refine ⟨t, q, ht, hframe, hother, hq, ?_, htags⟩
  rw [htags]
  exact unwritten_of_keeps (c := c.withTag f b) hk

theorem ftag_unbind (h : Issues s c (.ftag f)) (hfn : f.fn = 0) : exec (.ftag f) s =
    .next (((s.stepStreams c.r.id (c.streamsRead (.ftag f))).bindTag c f none).passSlot c.r.id c.e .next) :=
  issue_done h <| by
    simp only [hfn]
    rfl

theorem ftag_virt (h : Issues s c (.ftag f)) (hfn : f.fn = 1) (hlo : canonical (c.sval64 f.a).toNat = true)
    (hhi : c.sval f.b = 0 ∨ canonical ((c.sval64 f.a).toNat + (c.sval f.b).toNat - 1) = true) : exec (.ftag f) s =
    .next (((s.stepStreams c.r.id (c.streamsRead (.ftag f))).bindTag c f (some (.virt (c.sval64 f.a).toNat (c.sval f.b).toNat))).passSlot
      c.r.id c.e .next) :=
  issue_done h <| by
    have hlast : ((c.sval f.b).toNat != 0 && !canonical ((c.sval64 f.a).toNat + (c.sval f.b).toNat - 1)) = false := by
      rcases hhi with hzero | hcanon
      · simp [hzero]
      · simp [hcanon]
    simp only [hfn]
    exact if_neg (by simp [hlo, hlast])

theorem ftag_tile (h : Issues s c (.ftag f)) (hfn : f.fn = 2) (hfits : (c.sval f.a).toNat + (c.sval f.b).toNat ≤ c.t.tileBytes)
    (hlanded : c.r.landed = none) : exec (.ftag f) s =
    .next (((s.stepStreams c.r.id (c.streamsRead (.ftag f))).bindTag c f (some (.tile (c.sval f.a).toNat (c.sval f.b).toNat))).passSlot
      c.r.id c.e .next) :=
  issue_done h <| by
    have hlo : ¬c.t.tileBytes < (c.sval f.a).toNat := by omega
    simp only [hfn]
    exact (if_neg (by simp [hlo, hfits])).trans (if_neg (by simp [hlanded]))

/-! ### PREF -/

/-- What bringing a line in may change (R202, R273, R290). -/
def onlyFill (s t : State) : Prop :=
  t = { s with pmem := t.pmem, exchanges := t.exchanges, lines := t.lines, bankCtr := t.bankCtr, l1 := t.l1, prefDrop := t.prefDrop }

theorem onlyFill.refl (s : State) : onlyFill s s := rfl
theorem onlyFill.trans (h : onlyFill s t) (g : onlyFill t u) : onlyFill s u := by
  unfold onlyFill at *
  rw [g, h]
theorem onlyFill.foldl {α : Type} {g : State → α → State} (hg : ∀ s x, onlyFill s (g s x)) :
    ∀ (xs : List α) (s : State), onlyFill s (xs.foldl g s)
  | [], s => .refl s
  | x :: xs, s => (hg s x).trans (.foldl hg xs _)

theorem onlyFill_physPut : ∀ (bs : List Byte) (s : State) (pa : Nat), onlyFill s (s.physPut pa bs)
  | [], s, _ => .refl s
  | b :: bs, s, pa => by
    have hbyte : onlyFill s (s.setFrameByte pa b) := by
      unfold State.setFrameByte
      split <;> rfl
    exact hbyte.trans (onlyFill_physPut bs _ _)

theorem onlyFill_setAD {e : TlbEntry} {bits : DWord} (h : s.setAD e bits = some t) : onlyFill s t := by
  unfold State.setAD at h
  dsimp only at h
  split at h
  · injection h with h
    rw [← h]
    split
    · exact .refl s
    · exact onlyFill_physPut _ _ _
  · nomatch h

theorem onlyFill_touchPte (s : State) (asid va : Nat) (bits : DWord) : onlyFill s (s.touchPte asid va bits).1 := by
  unfold State.touchPte
  split
  · exact .refl s
  · split
    · exact onlyFill_setAD ‹_›
    · split
      · dsimp only
        cases h : s.setAD _ bits with
        | none => exact .refl s
        | some t => exact onlyFill_setAD h
      · exact .refl s

theorem onlyFill_evict (s : State) (l : L2Line) : onlyFill s (s.evict l) := by
  unfold State.evict
  dsimp only
  split
  · rfl
  · have hdropped : onlyFill s (({ s with lines := dropLine s.lines l.asid l.line } : State).bump l.asid (128 * l.line) 2 1) := rfl
    have h := hdropped.trans (onlyFill_touchPte _ l.asid (128 * l.line) 0x80#64)
    split
    all_goals
      rename_i htouched
      rw [htouched] at h
    · exact h.trans (onlyFill_physPut _ _ _)
    · exact h

theorem onlyFill_makeRoom (asid line need tags : Nat) (count : Bool) : ∀ (fuel : Nat) (s : State),
    onlyFill s (State.makeRoom asid line need tags count fuel s)
  | 0, s => .refl s
  | fuel + 1, s => by
    simp only [State.makeRoom]
    split
    · split
      · exact .refl s
      · rename_i l _ _
        refine .trans ?_ (onlyFill_makeRoom asid line need tags count fuel _)
        split
        · exact (onlyFill_evict s l).trans rfl
        · exact onlyFill_evict s l
    · exact .refl s

theorem onlyFill_fillLine (s : State) (e : TlbEntry) (asid va : Nat) (pfm : Bool) : onlyFill s (s.fillLine e asid va pfm) := by
  unfold State.fillLine
  extract_lets line data n s1
  have hroom : onlyFill s s1 := onlyFill_makeRoom ..
  clear_value s1
  exact hroom.trans rfl

theorem onlyFill_prefLane (c : Ctx) (f : MF) (s : State) (l : Nat) : onlyFill s (c.prefLane f s l) := by
  have hinto : ∀ (u : State) (skip : Bool) (core asid line : Nat) (d : List Byte), onlyFill s u →
      onlyFill s (if skip then u else u.setL1 core asid line (some d)) := fun u skip _ _ _ _ h => by
    cases skip
    · exact h.trans rfl
    · exact h
  fun_cases Ctx.prefLane
  case case2 => exact hinto _ _ _ _ _ _ (.refl s)
  case case7 =>
    refine hinto _ _ _ _ _ _ ?_
    show onlyFill s (if _ then _ else _)
    split
    · exact .refl s
    · exact onlyFill_fillLine _ _ _ _ _
  all_goals rfl

theorem pref_brings (h : Issues s c (.pref f)) : ∃ t q, exec (.pref f) s = .next t ∧ t.raft? c.r.id = some q ∧
    Unwritten c (.pref f) q ∧ t.tile = s.tile ∧ t.empty = s.empty ∧ t.reqs = s.reqs ∧ t.ops = s.ops ∧ t.teams = s.teams ∧
    t.csr = s.csr ∧ t.ctl = s.ctl ∧ t.marks = s.marks ∧
    t = { c.accLanes.foldl (fun st l => c.prefLane f st l) (s.stepStreams c.r.id (c.streamsRead (.pref f))) with
      rafts := t.rafts, running := t.running } := by
  have hfill : onlyFill (s.stepStreams c.r.id (c.streamsRead (.pref f))) _ := .foldl (onlyFill_prefLane c f) c.accLanes _
  have hrafts : (c.accLanes.foldl (c.prefLane f) (s.stepStreams c.r.id (c.streamsRead (.pref f)))).rafts =
      (s.stepStreams c.r.id (c.streamsRead (.pref f))).rafts := by rw [hfill]
  obtain ⟨hown, hothers⟩ := raft?_of_rafts_stepped h.ctx hrafts
  have hnext : exec (.pref f) s = .next ((c.accLanes.foldl (c.prefLane f) (s.stepStreams c.r.id (c.streamsRead (.pref f)))).passSlot
      c.r.id c.e .next) := issue_done h rfl
  obtain ⟨t, q, ht, hframe, -, hq, hk⟩ := answer_of_passSlot hnext hown (going_stepped h []) hothers
  refine ⟨t, q, ht, hq, unwritten_of_keeps hk, ?_, ?_, ?_, ?_, ?_, ?_, ?_, ?_, hframe⟩
  all_goals
    rw [hframe, hfill]
    rfl

end CacheControl

/-- Settles O12, by what each instruction's meaning answers once its checks pass: FENCE's three groups of blocks are free, FTAG's and
PREF's changes reach no other field, and INVL1's is one filter of L1. -/
theorem cacheControl : Obligations.CacheControl := by
  unfold Obligations.CacheControl
  intro s c f
  refine ⟨fence_leads, fun b h hb => ?ftag, fun s1 b h hfn hidx hsound hread => ?ftagRecord, pref_brings, fun h => leads_of h rfl rfl rfl rfl⟩
  case ftag =>
    have hnext : exec (.ftag f) s =
        .next (((s.stepStreams c.r.id (c.streamsRead (.ftag f))).bindTag c f b).passSlot c.r.id c.e .next) := by
      obtain ⟨hfn, rfl⟩ | ⟨hfn, hlo, hhi, rfl⟩ | ⟨hfn, hfits, hlanded, rfl⟩ := hb
      · exact ftag_unbind h hfn
      · exact ftag_virt h hfn hlo hhi
      · exact ftag_tile h hfn hfits hlanded
    obtain ⟨t, q, ht, hframe, hother, hq, hunwritten, htags⟩ := ftag_binds h rfl hnext
    exact ⟨t, q, ht, ⟨onlyRafts_trans (onlyRafts_stepStreams ..) hframe, hother⟩, hq, hunwritten, htags⟩
  case ftagRecord =>
    have hnext : exec (.ftag f) s = .next ((s1.bindTag c f _).passSlot c.r.id c.e .next) := issue_done h <| by
      simp only [hfn]
      exact withRec_ok hidx hread hsound
    obtain ⟨t, q, ht, hframe, -, hq, hunwritten, htags⟩ := ftag_binds h (rafts_of_recordBytes hread) hnext
    exact ⟨t, q, ht, hframe, hq, hunwritten, htags⟩

end Sys2Proof.Machine

namespace Sys2Proof.Machine

open Sys2Proof

/-!
Engine instructions at issue (O30, O31): the first of their checks that fails is their trap, what reading a ferry's records may
change, and a ferry or FQUEUE that its checks let pass.
-/

section Engines

variable {s s1 t u : State} {c : Ctx} {i : Instr} {f : AF} {fl : Flow} {body : State → Ctx → Res} {d : List Word} {src dst idx : BRec}
  {checks : List (Bool × Nat × Nat × Nat × Nat)} {cause addr : Nat} {place : Nat × Nat} {go : Res} {o : Op} {ks : List Nat}

/-! ### The checks of an engine instruction, in their order -/

theorem unless_fails (h : checks.find? (·.1) = some (true, cause, addr, place)) :
    c.unless s checks go = .trapIn s cause c.active addr 0 (c.engineDetail cause place addr) := by
  rw [Ctx.unless, h]
  rfl

theorem unless_passes (h : ∀ x ∈ checks, x.1 = false) : c.unless s checks go = go := by
  have hnone : checks.find? (·.1) = none := List.find?_eq_none.2 fun x hx => by simp [h x hx]
  rw [Ctx.unless, hnone]

/-! ### The end of a slot whose instruction has read memory before it traps, stalls or takes effect -/

theorem issue_trapIn {lanes : LaneMask} {aux : Nat} {detail : List Byte} (h : Issues s c i)
    (hb : body (s.stepStreams c.r.id (c.streamsRead i)) c = .trapIn s1 cause lanes addr aux detail) :
    issue i s body = .next (({ s1 with rafts := s.rafts } : State).trapAt c cause lanes addr aux detail) := by
  simp only [issue, h.ctx, State.issueWith, h.legal, h.free, hb]

/-- The same of a check that has read no memory: all that has come before it is the streams' advance. -/
theorem issue_trapIn_stepped {lanes : LaneMask} {aux : Nat} {detail : List Byte} (h : Issues s c i)
    (hb : body (s.stepStreams c.r.id (c.streamsRead i)) c = .trapIn (s.stepStreams c.r.id (c.streamsRead i)) cause lanes addr aux detail) :
    issue i s body = .next (s.trapAt c cause lanes addr aux detail) :=
  issue_trapIn (s1 := s.stepStreams c.r.id (c.streamsRead i)) h hb

theorem issue_trap {lanes : LaneMask} {aux : Nat} (h : Issues s c i)
    (hb : body (s.stepStreams c.r.id (c.streamsRead i)) c = .trap cause lanes addr aux) :
    issue i s body = .next (s.trapAt c cause lanes addr aux) := by
  simp only [issue, h.ctx, State.issueWith, h.legal, h.free, hb]

theorem issue_stallIn (h : Issues s c i) (hb : body (s.stepStreams c.r.id (c.streamsRead i)) c = .stall u .slot) :
    issue i s body = .next (({ u with rafts := s.rafts } : State).holdAt c.r.id c.e .slot) := by
  simp only [issue, h.ctx, State.issueWith, h.legal, h.free, hb]
  rfl

theorem holdAt_waitsFrom (h : Issues s c i) (hrunning : s1.running = s.running)
    (he : exec i s = .next (({ s1 with rafts := s.rafts } : State).holdAt c.r.id c.e .slot)) : WaitsFrom s s1 c i .slot := by
  obtain ⟨hr, -, hen, -⟩ := ctx_parts h.ctx
  have hheld := raft?_mapEntry_same (s := { s1 with rafts := s.rafts })
    (f := fun en => { en with wait := .slot, since := s1.clock, inside := true, able := false }) hr hen
  have hstop := settleStop_going (s := (State.mapEntry { s1 with rafts := s.rafts } c.r.id c.e _).unrun c.r.id c.e) hheld h.going
  refine ⟨_, _, he.trans (congrArg Host.Outcome.next hstop), rfl, fun id hne => raft?_mapEntry_other (s := { s1 with rafts := s.rafts }) hne,
    hheld, rfl, rfl, rfl, rfl, ?_, ?_, congrArg (List.filter _) hrunning⟩
  · rw [entry?_setEntry_same _ hen]; rfl
  · rw [entry?_setEntry_same _ hen]; rfl

/-- The end of a slot whose instruction has led to `u`, and has read more streams than its fields name (R135). -/
theorem answer_of_passSlot_more (h : Issues s c i) (hrafts : u.rafts = (s.stepStreams c.r.id (c.streamsRead i)).rafts)
    (he : exec i s = .next ((u.stepStreams c.r.id ks).passSlot c.r.id c.e fl)) :
    ∃ t q, exec i s = .next t ∧ t = { u with rafts := t.rafts, running := t.running } ∧ (∀ id, id ≠ c.r.id → t.raft? id = s.raft? id) ∧
      t.raft? c.r.id = some q ∧ sameRaft c.r q ∧ q.v = c.r.v ∧ q.p = c.r.p ∧
      ∀ k, (∀ j ∈ c.streamsRead i ++ ks, k ≠ 60 + j) → q.sreg k = c.r.sreg k := by
  obtain ⟨hown, hothers⟩ := raft?_of_rafts_stepped h.ctx hrafts
  have hr : (u.stepStreams c.r.id ks).raft? c.r.id = some (ks.foldl Raft.stepStream (c.stepped i)) :=
    (raft?_mapRaft (keepsSeat_stepStreams ks) u c.r.id).trans (congrArg _ hown)
  obtain ⟨t, q, ht, hframe, hother, hq, hk⟩ := answer_of_passSlot he hr (going_stepped h ks)
    (fun id hne => (raft?_stepStreams_other u _ _ hne).trans (hothers id hne))
  rw [Ctx.stepped, ← List.foldl_append] at hk
  obtain ⟨hrest, hv, hp, hs⟩ := foldl_stepStream_keeps hk
  exact ⟨t, q, ht, hframe, hother, hq, hrest, hv, hp, hs⟩

/-! ### An operation enters: what bears on it is no raft's (R17, R90, R135) -/

@[simp] theorem mayEnter_stepStreams (s : State) (id : Nat) (ks : List Nat) (o : Op) (cap : Nat) :
    (s.stepStreams id ks).mayEnter o cap = s.mayEnter o cap := rfl
@[simp] theorem tagged_stepStreams (s : State) (id : Nat) (ks : List Nat) (c : Ctx) (o : Op) :
    c.tagged (s.stepStreams id ks) o = c.tagged s o := rfl

theorem setFull_stepStreams (s : State) (id : Nat) (ks : List Nat) (core line : Nat) (full : Bool) :
    (s.stepStreams id ks).setFull core line full = (s.setFull core line full).stepStreams id ks := by
  have hbyte (pa : Nat) (b : Byte) : (s.stepStreams id ks).setFrameByte pa b = (s.setFrameByte pa b).stepStreams id ks := by
    have hat : (s.stepStreams id ks).frameAt pa = s.frameAt pa := rfl
    rw [State.setFrameByte, hat, State.setFrameByte]
    split <;> rfl
  unfold State.setFull
  split
  · rfl
  · exact hbyte ..

theorem setFulls_stepStreams (id : Nat) (ks : List Nat) : ∀ (fills : List (Nat × Nat)) (s : State),
    fills.foldl (fun st x => st.setFull x.1 x.2 false) (s.stepStreams id ks) =
      (fills.foldl (fun st x => st.setFull x.1 x.2 false) s).stepStreams id ks
  | [], _ => rfl
  | x :: fills, s => by rw [List.foldl_cons, setFull_stepStreams, setFulls_stepStreams id ks fills, List.foldl_cons]

theorem withOp_stepStreams (s : State) (id : Nat) (ks : List Nat) (o : Op) (fills : List (Nat × Nat)) :
    (s.stepStreams id ks).withOp o fills = (s.withOp o fills).stepStreams id ks := by
  simp only [State.withOp, setFulls_stepStreams]
  rfl

theorem withOp_rafts (s : State) (o : Op) (fills : List (Nat × Nat)) : (s.withOp o fills).rafts = s.rafts := by
  have hfills : ∀ (xs : List (Nat × Nat)) (s : State), (xs.foldl (fun st x => st.setFull x.1 x.2 false) s).rafts = s.rafts := by
    intro xs
    induction xs with
    | nil => exact fun _ => rfl
    | cons x xs ih => exact fun s => (ih _).trans (setFull_rafts ..)
  exact hfills fills s

theorem accept_enters {cap : Nat} {fills : List (Nat × Nat)} (h : s.mayEnter (c.tagged s o) cap = true) (id : Nat) (ks : List Nat) :
    c.accept (s.stepStreams id ks) o cap fills (fun st => st) = .done ((s.withOp (c.tagged s o) fills).stepStreams id ks) .next := by
  rw [Ctx.accept, Ctx.enter, tagged_stepStreams, mayEnter_stepStreams, if_pos h, withOp_stepStreams]

theorem accept_stalls {cap : Nat} {fills : List (Nat × Nat)} {after : State → State} (h : s.mayEnter (c.tagged s o) cap = false)
    (id : Nat) (ks : List Nat) : c.accept (s.stepStreams id ks) o cap fills after = .stall (s.stepStreams id ks) .slot := by
  rw [Ctx.accept, Ctx.enter, tagged_stepStreams, mayEnter_stepStreams, if_neg (by simp [h])]

/-! ### Reading the records of a ferry (R183, R209) -/

/-- What reading records may change: homes and their side of memory, the free values that are drawn, and the records kept. -/
def recordSide (s t : State) : Prop :=
  t = { s with
    pmem := t.pmem, exchanges := t.exchanges, lines := t.lines, tlb := t.tlb, marks := t.marks, ringWait := t.ringWait, walks := t.walks
    bankCtr := t.bankCtr, watches := t.watches, notices := t.notices, asks := t.asks, nextId := t.nextId
    freeCtr := t.freeCtr, kept := t.kept }

theorem recordSide.refl (s : State) : recordSide s s := rfl
theorem recordSide.trans (h : recordSide s t) (g : recordSide t u) : recordSide s u := by
  unfold recordSide at *
  rw [g, h]
theorem Side.recordSide (h : Side s t) : recordSide s t := by
  unfold Machine.recordSide
  rw [h.frame]
theorem recordSide.rafts (h : recordSide s t) : t.rafts = s.rafts := by rw [h]
theorem recordSide.running (h : recordSide s t) : t.running = s.running := by rw [h]

theorem recordSide_readL1 (core asid : Nat) : ∀ (ps : List (Nat × Nat)) (s : State), recordSide s (State.readL1 core asid ps s).1
  | [], s => .refl s
  | (va, n) :: ps, s => by
    rw [State.readL1]
    split
    rename_i hit s0 hs0
    extract_lets early piece
    have h0 : recordSide s s0 := by injection hs0 with _ h0; rw [← h0]; rfl
    have hpiece : recordSide s piece.1 := by
      unfold piece
      split
      · exact h0
      · split
        · exact h0
        · exact h0.trans (readAt_side s0 asid va n .read false).recordSide
    clear_value piece
    split
    · exact hpiece.trans (recordSide_readL1 core asid ps _)
    · exact hpiece

theorem recordSide_recordBytes (s : State) (tm : Team) (core idx : Nat) : recordSide s (s.recordBytes tm core idx).1 := by
  have hdraw : recordSide s s.choose.2 := rfl
  have hread := hdraw.trans (recordSide_readL1 core tm.asid (linePieces ((tm.kernel.brecBase + 40 * idx) % 2 ^ 64) 40) s.choose.2)
  unfold State.recordBytes
  dsimp only
  split
  · exact hdraw
  · split
    · rename_i hok
      rw [hok] at hread
      exact hread.trans rfl
    · exact hread

/-- What goes on after a record's read starts from the state that the read leaves; any other end is the read's own. -/
theorem recordSide_of_withRec {k : State → BRec → Res} {n : Nat} {lanes : LaneMask} {peerOk : Bool} {pl : Option (Nat × Nat)}
    (hk : ∀ s1 r, k s1 r = .stop t → recordSide s1 t) (h : c.withRec s n lanes peerOk pl k = .stop t) : recordSide s t := by
  have hread := recordSide_recordBytes s c.t c.r.here n
  unfold Ctx.withRec at h
  dsimp only at h
  split at h
  · nomatch h
  · split at h
    · rename_i hok
      rw [hok] at hread
      split at h
      · exact hread.trans (hk _ _ h)
      · nomatch h
    all_goals nomatch h

theorem recordSide_of_ferryRecs {k : State → BRec → BRec → BRec → Res}
    (hk : ∀ s1 src dst idx, k s1 src dst idx = .stop t → recordSide s1 t) (h : c.ferryRecs s i d k = .stop t) : recordSide s t := by
  have hidx (s2 : State) (src dst : BRec) (n : Nat) (pl : Option (Nat × Nat)) :
      (if byIndex i then c.withRec s2 n c.active true pl (fun s3 idx => k s3 src dst idx) else k s2 src dst default) = .stop t →
        recordSide s2 t := fun h => by
    split at h
    · exact recordSide_of_withRec (fun s3 idx => hk s3 src dst idx) h
    · exact hk _ _ _ _ h
  unfold Ctx.ferryRecs at h
  dsimp only at h
  split at h
  · nomatch h
  · split at h
    · exact recordSide_of_withRec (fun s1 dst => hidx s1 default dst _ _) h
    · exact recordSide_of_withRec (fun s1 src => recordSide_of_withRec (fun s2 dst => hidx s2 src dst _ _)) h

/-- Records that are read whatever is done with them: the state that their reads lead to differs by the reads alone. -/
theorem recordSide_of_read (h : ∀ k, c.ferryRecs s i d k = k s1 src dst idx) : recordSide s s1 :=
  recordSide_of_ferryRecs (k := fun s1 _ _ _ => .stop s1) (fun _ _ _ _ hstop => by injection hstop with hstop; rw [hstop]; rfl)
    (h _)

/-! ### Ferries (R209, R210) -/

theorem exec_ferry (hi : i ∈ [Instr.fcopy f, .fgather f, .fscatter f, .ffill f]) (s : State) : exec i s = ferryIssue i f s := by
  simp only [List.mem_cons, List.not_mem_nil, or_false] at hi
  rcases hi with rfl | rfl | rfl | rfl <;> rfl

/-- A ferry's descriptor is refused before its records are read. -/
theorem ferry_refused (h : Issues s c i) (hdesc : ferryDescOk i (c.swords f.a 8) = false) :
    ferryIssue i f s = .next (s.trapAt c 26 c.active 0 0 (c.engineDetail 26 (0, 0) 0)) :=
  issue_trapIn_stepped h (if_pos (congrArg not hdesc))

section Read

variable (h : Issues s c i) (hdesc : ferryDescOk i (c.swords f.a 8) = true)
  (hrecs : ∀ k, c.ferryRecs (s.stepStreams c.r.id (c.streamsRead i)) i (c.swords f.a 8) k = k s1 src dst idx)
include h hdesc hrecs

theorem ferry_traps (hfails : (c.ferryChecks s1 i f (c.swords f.a 8) src dst idx).find? (·.1) = some (true, cause, addr, place)) :
    ferryIssue i f s = .next (({ s1 with rafts := s.rafts } : State).trapAt c cause c.active addr 0 (c.engineDetail cause place addr)) :=
  issue_trapIn h <| (if_neg (by simp [hdesc])).trans <| (hrecs _).trans <| unless_fails hfails

variable (hpasses : ∀ x ∈ c.ferryChecks s1 i f (c.swords f.a 8) src dst idx, x.1 = false)
  (hfree : s1.interlock c (fillOpds i f dst) = .free)
include hpasses hfree

theorem ferry_stalls (hroom : s1.mayEnter (c.tagged s1 (c.ferryOp s1 i f (c.swords f.a 8) src dst idx)) 256 = false) :
    ferryIssue i f s = .next (({ s1 with rafts := s.rafts } : State).holdAt c.r.id c.e .slot) :=
  issue_stallIn (u := s1.stepStreams c.r.id (c.streamsMore i (fillOpds i f dst))) h <| (if_neg (by simp [hdesc])).trans <|
    (hrecs _).trans <| (unless_passes hpasses).trans <| (congrArg (Block.orElse · _ _) hfree).trans <| accept_stalls hroom _ _

theorem ferry_enters (hroom : s1.mayEnter (c.tagged s1 (c.ferryOp s1 i f (c.swords f.a 8) src dst idx)) 256 = true) :
    ferryIssue i f s = .next (((s1.withOp (c.tagged s1 (c.ferryOp s1 i f (c.swords f.a 8) src dst idx))
      (c.ferryFills s1 i (c.swords f.a 8) src dst)).stepStreams c.r.id (c.streamsMore i (fillOpds i f dst))).passSlot c.r.id c.e .next) :=
  issue_done h <| (if_neg (by simp [hdesc])).trans <| (hrecs _).trans <| (unless_passes hpasses).trans <|
    (congrArg (Block.orElse · _ _) hfree).trans <| accept_enters hroom _ _

end Read

/-! ### FQUEUE (R217, R218) -/

/-- The operation of an FQUEUE. -/
def State.fqueueOp (s : State) (c : Ctx) (f : AF) : Op :=
  { c.newOp s (.fqueue f) 1 with
    desc := c.swords f.a 8, dest := some ⟨f.d, 1, c.active, true, 384⟩, amount := 1
    ranges := s.fqueueRanges c.t.asid c.r.here (c.swords f.a 8) }

theorem atRelease_free {b : Block} (h : b = .free ∨ b = .wait) : b.atRelease = .free := by
  rcases h with rfl | rfl <;> rfl

section Queue

variable (h : Issues s c (.fqueue f)) (hdesc : fqueueDescOk (c.swords f.a 8) = true)
  (hrelease : worst (s.releaseWork c.r.id f.imm) = .free ∨ worst (s.releaseWork c.r.id f.imm) = .wait)
include h hdesc hrelease

theorem fqueue_leads (hroom : s.mayEnter (c.tagged s (s.fqueueOp c f)) 256 = true) :
    Leads s (s.withOp (c.tagged s (s.fqueueOp c f)) []) c (.fqueue f) :=
  leads_of h rfl ((if_neg (by simp [hdesc])).trans <| (congrArg (Block.orElse · _ _) (atRelease_free hrelease)).trans <|
    accept_enters hroom c.r.id (c.streamsRead (.fqueue f))) rfl rfl

theorem fqueue_waits (hroom : s.mayEnter (c.tagged s (s.fqueueOp c f)) 256 = false) : Waits s c (.fqueue f) .slot :=
  holdAt_waits h <| issue_stall h <| (if_neg (by simp [hdesc])).trans <|
    (congrArg (Block.orElse · _ _) (atRelease_free hrelease)).trans <| accept_stalls hroom _ _

end Queue

end Engines

/-- Settles O30: past its descriptor, records and checks a ferry either enters or stalls where its records' reads have led, and
FQUEUE enters or stalls where its release finds nothing that has stopped. -/
theorem ferriesIssue : Obligations.FerriesIssue := by
  unfold Obligations.FerriesIssue
  intro s c f
  refine ⟨fun i hi s1 src dst idx h hdesc hrecs hpasses hfree => ⟨fun hroom => ?waits, fun hroom => ?enters⟩,
    fun h hdesc hrelease => ⟨fqueue_leads h hdesc hrelease, fqueue_waits h hdesc hrelease⟩⟩
  all_goals have hread := recordSide_of_read hrecs
  case waits =>
    exact holdAt_waitsFrom h hread.running ((exec_ferry hi s).trans (ferry_stalls h hdesc hrecs hpasses hfree hroom))
  case enters =>
    exact answer_of_passSlot_more h ((withOp_rafts ..).trans hread.rafts)
      ((exec_ferry hi s).trans (ferry_enters h hdesc hrecs hpasses hfree hroom))

/-- Settles O31: each clause is the first failing check of the instruction's list, at the place where its issue asks it. -/
theorem engineChecksTrap : Obligations.EngineChecksTrap := by
  unfold Obligations.EngineChecksTrap
  intro s c f cause addr place
  refine ⟨fun h hfails => ?mloop, fun h hfails => ?wpool, fun s1 b h hdesc hidx hsound hread hfails => ?mdrain,
    fun i hi s1 src dst idx h hdesc hrecs hfails => (exec_ferry hi s).trans (ferry_traps h hdesc hrecs hfails),
    fun i hi h hdesc => (exec_ferry hi s).trans (ferry_refused h hdesc), fun h hdesc => ?fqueue, fun h hcheck => ?lathe⟩
  case mloop => exact issue_trapIn_stepped h (unless_fails hfails)
  case wpool => exact issue_trapIn_stepped h (unless_fails hfails)
  case mdrain =>
    exact issue_trapIn h <| (if_neg (by simp [hdesc])).trans <| (withRec_ok hidx hread hsound).trans <| unless_fails hfails
  case fqueue => exact issue_trapIn_stepped h (if_pos (congrArg not hdesc))
  case lathe =>
    refine issue_trap h ?_
    dsimp only
    rw [hcheck]

end Sys2Proof.Machine

namespace Sys2Proof.Machine

open Sys2Proof

/-!
Views and matrix instructions at issue (O29): an instruction that enters its queue without more, and the two that change a field of
their raft that no register holds, its view slots (WVIEW) and its count of drains (MDRAIN).
-/

section Matrix

variable {s s1 u : State} {c : Ctx} {i : Instr} {f : AF} {q : Raft} {fl : Flow} {body : State → Ctx → Res} {o : Op} {cap : Nat} {b : List Byte}
  {V : List (Option View) → List (Option View)} {D : Word → Word}

/-! ### An operation enters, and its raft goes on (R17) -/

/-- The instruction's meaning, past its checks, is the acceptance of one operation that makes no line empty. -/
theorem leads_of_accept (h : Issues s c i) (he : exec i s = issue i s body)
    (hb : body (s.stepStreams c.r.id (c.streamsRead i)) c = c.accept (s.stepStreams c.r.id (c.streamsRead i)) o cap [] id)
    (hroom : s.mayEnter (c.tagged s o) cap = true) : Leads s (s.withOp (c.tagged s o) []) c i :=
  leads_of h he (hb.trans (accept_enters hroom _ _)) rfl rfl

/-- The checks of a home that MACC and MSTAT share (R256): the home's own, and that no tile home is named from a landing slot. -/
theorem homeChecks_pass {base : Nat} {virt : Bool} {place : Nat × Nat} (hhome : homeCause base c.t.tileBytes virt = none)
    (hlanded : virt = true ∨ c.r.landed = none) :
    ∀ x ∈ [homeCheck (homeCause base c.t.tileBytes virt) base, (!virt && c.r.landed.isSome, 12, base, place)], x.1 = false := by
  have htile : (!virt && c.r.landed.isSome) = false := by
    rcases hlanded with h | h <;> simp [h]
  simp [homeCheck, hhome, htile]

/-! ### What a raft holds for its matrix engine: view slots and the count of its drains (R247, R251) -/

/-- The raft with those changed. -/
def Raft.onEngine (V : List (Option View) → List (Option View)) (D : Word → Word) (r : Raft) : Raft :=
  { r with views := V r.views, drain := D r.drain }

theorem unwritten_of_onEngine (hk : keeps ((c.stepped i).onEngine V D) q) : Unwritten { c with r := c.r.onEngine V D } i q := by
  have hsame := stepped_same c i
  refine ⟨?_, ?_, ?_, fun k hks => ?_⟩
  · unfold sameRaft; rw [hk, hsame]; rfl
  · rw [hk, hsame]; rfl
  · rw [hk, hsame]; rfl
  · have hs : q.sreg k = (c.stepped i).sreg k := by rw [hk]; rfl
    exact hs.trans (foldl_stepStream_sreg _ _ hks)

/-- The end of a slot whose instruction has led to `u`, and has changed what its raft holds for the engine. -/
theorem answer_of_onEngine (h : Issues s c i) (hrafts : u.rafts = (s.stepStreams c.r.id (c.streamsRead i)).rafts)
    (he : exec i s = .next ((u.mapRaft c.r.id (Raft.onEngine V D)).passSlot c.r.id c.e fl)) :
    ∃ t q, exec i s = .next t ∧ t = { u with rafts := t.rafts, running := t.running } ∧ (∀ id, id ≠ c.r.id → t.raft? id = s.raft? id) ∧
      t.raft? c.r.id = some q ∧ Unwritten { c with r := c.r.onEngine V D } i q ∧ q.views = V c.r.views ∧ q.drain = D c.r.drain := by
  obtain ⟨hown, hothers⟩ := raft?_of_rafts_stepped h.ctx hrafts
  have hseat : KeepsSeat (Raft.onEngine V D) := fun _ => ⟨rfl, rfl, rfl, rfl⟩
  have hr : (u.mapRaft c.r.id (Raft.onEngine V D)).raft? c.r.id = some ((c.stepped i).onEngine V D) := by
    rw [raft?_mapRaft hseat, hown]
    rfl
  obtain ⟨t, q, ht, hframe, hother, hq, hk⟩ := answer_of_passSlot he hr (going_stepped h [])
    (fun id hne => (raft?_mapRaft_other (fun r hid => (hseat r).1.trans hid) hne).trans (hothers id hne))
  have hun := unwritten_of_onEngine hk
  exact ⟨t, q, ht, hframe, hother, hq, hun, congrArg Raft.views hun.rest, congrArg Raft.drain hun.rest⟩

/-! ### WVIEW (R250, R251) -/

section View

variable (h : Issues s c (.wview f))
include h

theorem wview_refused (hview : viewOk (c.swords f.a 8) = false) :
    exec (.wview f) s = .next (s.trapAt c 28 c.active 0 0 (c.engineDetail 28 (mplace noStep 0) 0)) :=
  issue_trapIn_stepped h (unless_fails (by simp [hview]))

variable (hview : viewOk (c.swords f.a 8) = true)
include hview

theorem wview_outside (hout : c.t.tileBytes < vw (c.swords f.a 8) 0 20 0 + viewBytes (c.swords f.a 8)) :
    exec (.wview f) s = .next (s.trapAt c 6 c.active (vw (c.swords f.a 8) 0 20 0) 0
      (c.engineDetail 6 (mplace noStep 0) (vw (c.swords f.a 8) 0 20 0))) :=
  issue_trapIn_stepped h (unless_fails (by simp [hview, hout]))

theorem wview_captures (hin : vw (c.swords f.a 8) 0 20 0 + viewBytes (c.swords f.a 8) ≤ c.t.tileBytes) (hlanded : c.r.landed = none)
    (hroom : s.roomFor (c.newOp s (.wview f) 0) 16 = true) :
    exec (.wview f) s = .next (((s.stepStreams c.r.id (c.streamsRead (.wview f))).mapRaft c.r.id
      (Raft.onEngine (fun vs => vs.set (field f.imm.toNat 0 0) (some ⟨c.swords f.a 8⟩)) id)).passSlot c.r.id c.e .next) :=
  issue_done h ((unless_passes (by simp [hview, hin, hlanded])).trans (if_pos hroom))

end View

/-! ### MSCALE and MDRAIN (R246 to R248) -/

/-- MSCALE past its factors' own checks: its group's renaming, its registers below the count, and the group's pending writes. -/
theorem mscale_leads (h : Issues s c (.mscale f))
    (hregs : f.fn.getLsbD 0 = true → c.renameOk (c.scaleOpd f) = true ∧ (c.reg f.b).toNat + 128 / c.r.width ≤ c.r.count ∧
      s.interlock c [c.scaleOpd f] = .free)
    (hpasses : ∀ x ∈ c.mscaleChecks s f, x.1 = false) (hroom : s.mayEnter (c.tagged s (c.mscaleOp s f)) 16 = true) :
    Leads s (s.withOp (c.tagged s (c.mscaleOp s f)) []) c (.mscale f) := by
  have hlegal : ¬(f.fn.getLsbD 0 && (!c.renameOk (c.scaleOpd f) || decide (c.r.count < (c.reg f.b).toNat + 128 / c.r.width))) = true := by
    cases hin : f.fn.getLsbD 0 with
    | false => simp
    | true =>
      obtain ⟨hrename, hcount, -⟩ := hregs hin
      simp [hrename, hcount]
  have hfree : (if f.fn.getLsbD 0 then s.interlock c [c.scaleOpd f] else .free) = Block.free := by
    split
    next hin =>
      obtain ⟨-, -, hfree⟩ := hregs hin
      exact hfree
    next => rfl
  exact leads_of_accept h rfl ((if_neg hlegal).trans <| (congrArg (Block.orElse · _ _) hfree).trans <| unless_passes hpasses) hroom

section Drain

variable (h : Issues s c (.mdrain f)) (hdesc : mdDescOk (c.swords f.a 8) = true) (hidx : vw (c.swords f.a 8) 2 23 16 < c.t.kernel.brecCount)
  (hsound : Rec.sound true b = true)
  (hread : (s.stepStreams c.r.id (c.streamsRead (.mdrain f))).recordBytes c.t c.r.here (vw (c.swords f.a 8) 2 23 16) = (s1, .ok, b))
  (hpasses : ∀ x ∈ c.mdrainChecks s1 f (c.swords f.a 8) (Rec.parse b), x.1 = false)
  (hroom : s1.mayEnter (c.tagged s1 (c.mdrainOp s1 f (c.swords f.a 8) (Rec.parse b))) 16 = true)
include h hdesc hidx hsound hread hpasses hroom

/-- A drain that passes its checks enters; one that rounds stochastically is counted (R247). -/
theorem mdrain_enters : exec (.mdrain f) s = .next ((if field f.fn.toNat 2 0 == 4 then
    (s1.withOp (c.tagged s1 (c.mdrainOp s1 f (c.swords f.a 8) (Rec.parse b))) []).mapRaft c.r.id (Raft.onEngine id (· + 1))
    else s1.withOp (c.tagged s1 (c.mdrainOp s1 f (c.swords f.a 8) (Rec.parse b))) []).passSlot c.r.id c.e .next) :=
  issue_done h <| (if_neg (by simp [hdesc])).trans <| (withRec_ok hidx hread hsound).trans <| (unless_passes hpasses).trans <| if_pos hroom

/-- All that a drain changes of its raft is the count of its drains, by one where it rounds stochastically. -/
theorem mdrain_counts : ∃ t q, exec (.mdrain f) s = .next t ∧
    t = { s1.withOp (c.tagged s1 (c.mdrainOp s1 f (c.swords f.a 8) (Rec.parse b))) [] with rafts := t.rafts, running := t.running } ∧
    (∀ id, id ≠ c.r.id → t.raft? id = s.raft? id) ∧ t.raft? c.r.id = some q ∧
    Unwritten { c with r := { c.r with drain := q.drain } } (.mdrain f) q ∧
    q.drain = c.r.drain + (if field f.fn.toNat 2 0 = 4 then 1 else 0) := by
  have hnext := mdrain_enters h hdesc hidx hsound hread hpasses hroom
  have hrafts : (s1.withOp (c.tagged s1 (c.mdrainOp s1 f (c.swords f.a 8) (Rec.parse b))) []).rafts =
      (s.stepStreams c.r.id (c.streamsRead (.mdrain f))).rafts := (withOp_rafts ..).trans (rafts_of_recordBytes hread)
  by_cases hcode : field f.fn.toNat 2 0 = 4
  · rw [if_pos (by simpa using hcode)] at hnext
    obtain ⟨t, q, ht, hframe, hother, hq, hun, -, hdrain⟩ := answer_of_onEngine h hrafts hnext
    rw [if_pos hcode]
    refine ⟨t, q, ht, hframe, hother, hq, ?_, hdrain⟩
    rw [hdrain]
    exact hun
  · rw [if_neg (by simpa using hcode)] at hnext
    obtain ⟨hown, hothers⟩ := raft?_of_rafts_stepped h.ctx hrafts
    obtain ⟨t, q, ht, hframe, hother, hq, hk⟩ := answer_of_passSlot hnext hown (going_stepped h []) hothers
    have hdrain : q.drain = c.r.drain := by rw [hk, stepped_same]
    rw [if_neg hcode]
    refine ⟨t, q, ht, hframe, hother, hq, ?_, hdrain.trans (BitVec.add_zero _).symm⟩
    rw [hdrain]
    exact unwritten_of_keeps hk

end Drain

end Matrix

/-- Settles O29: past its checks WVIEW sets the one slot that it names in its raft's list of views, and each matrix instruction is
the acceptance of its operation, MDRAIN's from the state that its record's read leaves. -/
theorem viewsAndMatrixOperations : Obligations.ViewsAndMatrixOperations := by
  unfold Obligations.ViewsAndMatrixOperations
  refine ⟨fun s c f h => ⟨fun hview hin hlanded hroom => ?captures, wview_refused h, wview_outside h⟩,
    fun s c f => ⟨fun h hlo hhi hhome hlanded hroom => ?macc, fun h hpasses hfree hothers hroom => ?mloop,
      fun _ _ => mdrain_counts, mscale_leads, fun h hhome hlanded hroom => ?mstat,
      fun h hpasses hroom => leads_of_accept h rfl (unless_passes hpasses) hroom⟩⟩
  case captures =>
    obtain ⟨t, q, ht, hframe, hother, hq, hun, hviews, -⟩ := answer_of_onEngine h rfl (wview_captures h hview hin hlanded hroom)
    refine ⟨t, q, ht, ⟨hframe, hother⟩, hq, ?_, fun hslot => ?_, fun k hk => ?_⟩
    · rw [hviews]
      exact hun
    · rw [hviews, List.getElem?_set_self hslot]
    · rw [hviews, List.getElem?_set_ne (Ne.symm hk)]
  case macc =>
    have hanchor : (decide ((c.sval f.c).toInt < -1024) || decide (1023 < (c.sval f.c).toInt)) = false := by
      simp [Int.not_lt.2 hlo, Int.not_lt.2 hhi]
    exact leads_of_accept h rfl (unless_passes (List.forall_mem_cons.2 ⟨hanchor, homeChecks_pass hhome hlanded⟩)) hroom
  case mloop =>
    exact leads_of_accept h rfl ((unless_passes hpasses).trans <| (congrArg (Block.orElse · _ _) hfree).trans <|
      if_neg (by simp [hothers])) hroom
  case mstat => exact leads_of_accept h rfl (unless_passes (homeChecks_pass hhome hlanded)) hroom

end Sys2Proof.Machine
